-- ==== Sys2Proof/Word.lean ====
section
/-!
DEFINITION. The word types of SNK-FC1: what the manual treats as bits (08 R165, R173).
-/
namespace Sys2Proof

/-- One byte of memory (00 R4). -/
abbrev Byte := BitVec 8
/-- A scalar register or a 64-bit word of memory (08 R165). -/
abbrev Word := BitVec 64
/-- A virtual address, as the address registers and the PC hold it (08 R165). -/
abbrev Addr := BitVec 80
/-- A vector register or a 64-byte line (08 R165). -/
abbrev Vec := BitVec 512
/-- A mask register: bit i governs lane i (08 R165). -/
abbrev Mask := BitVec 32

/-- A field that names `s0`–`s31` (08 R173). -/
abbrev SReg := BitVec 5
/-- A field that names `a0`–`a7`: the low three bits of a five-bit field whose high two are zero (08 R174). -/
abbrev AReg := BitVec 3
/-- A field that names `v0`–`v31`. -/
abbrev VReg := BitVec 5
/-- A field that names `m0`–`m7` (08 R174). -/
abbrev MReg := BitVec 3
/-- A field that names a window `w0`–`w31` (04 R84). -/
abbrev WReg := BitVec 5

end Sys2Proof
end

