-- ==== Sys2Proof/Config.lean ====
section
/-!
DEFINITION. What is fixed for the machine (00 R2, 01 R10), and the values and choices the manual leaves open, as
opaque constants: nothing can evaluate one, so a claim that mentions one holds for every value of it.
-/
namespace Sys2Proof.Config

/-! ### Counts of parts (00 R2, 01 R10) -/

def clusters : Nat := 64
def tilesPerCluster : Nat := 6
def coresPerTile : Nat := 6
def threadsPerCore : Nat := 4
def threadsPerCluster : Nat := 144
def tiles : Nat := 384
def cores : Nat := 2304
def threads : Nat := 9216
/-- Places for accepted jobs in one cluster (07 R145). -/
def jobPlaces : Nat := 64
/-- Watch-table entries of one cluster (05 R108). -/
def watchEntries : Nat := 1024
/-- Requests one inbox holds (07 R138). -/
def inboxDepth : Nat := 32
/-- Task descriptors one dispatcher queues on chip (02 R38). -/
def taskQueue : Nat := 4096
/-- Distinct sequence words one remote-line buffer tracks (05 R105). -/
def tagWords : Nat := 64

/-! ### What the manual leaves open

The argument of each is plain data: the operands it depends on, or a value of the counter `State.serial`, which
every use advances, so that no two uses need agree (log entry 128). -/

/-- Whether a weak access that may be served from a held copy is served from it (06 R125, 05 R104). -/
opaque takesCopy : Nat → Bool
/-- Whether a fetch by a core of a line (physical address / 64) is served from the instruction cache where that differs
from memory (06 R134): each line and each core by itself. -/
opaque fetchesOld : Nat → Nat → Nat → Bool
/-- Whether the core's copy of a line takes a write of one of its threads, or goes on showing the other threads what it
held (06 R120, R133). -/
opaque showsWrite : Nat → Bool
/-- Whether a thread's weak load sees a dirty word that another thread of its core wrote (06 R120). -/
opaque seesMate : Nat → Bool
/-- Which of the translations held for a virtual address an access uses (19 R340): 0 none, that of the tables as they are. -/
opaque staleLeaf : Nat → Nat → Nat
/-- Whether the reply of a strong pull fills the reader's copies (05 R104). -/
opaque strongFills : Nat → Bool
/-- Whether an instruction that reads several words at once takes them at one instant, or one after the other (06 R118). -/
opaque readsWhole : Nat → Bool
/-- Which pull/copy engine takes a card that says either (07 R143). -/
opaque engineChoice : Nat → Bool
/-- Which of a die's four decoders takes a card that names any (07 R143). -/
opaque decoderChoice : Nat → Nat
/-- What a decoder writes into its reference area at a frame: offsets and bytes (07 R156). -/
opaque mediaReference : Nat → List (Nat × Byte)
/-- Narlor hops to another module of the fleet that is not cabled to a port of this one (05 R114). -/
opaque hops : Nat → Nat
/-- A register value the manual does not state: the result of an atomic or sequence advance whose write an invalidation
discarded (19 R344), and what the supervisor reads of a context where none was interrupted. -/
opaque freeWord : Nat → BitVec 64
/-- An element of an accumulator whose contents are unspecified (07 R147). -/
opaque freeElement : Nat → BitVec 32
/-- A fault of the array in the redundant copy of an accumulator: an element and what it is changed by (12 R259). -/
opaque upset : Nat → Option (Nat × BitVec 32)
/-- Which of the free reply slots or journal entries a message takes (07 R137, R141). -/
opaque messageEntry : Nat → Nat
/-- Wake times of the power states S1 to S3 in microseconds, whose table the manual does not hold (18 R335). -/
opaque wakeTime : Nat → Nat
/-- Nanoseconds since module reset (21 R381). -/
opaque nanoseconds : Nat → Word
/-- SHA-512 (18 R326, 20 R369), a published standard the manual cites by name. -/
opaque sha512 : List Byte → List Byte
/-- The verification of an RSASSA-PSS signature (18 R326): modulus and exponent, digest, signature. -/
opaque pssVerify : List Byte → List Byte → List Byte → Bool
/-- ECDSA P-384 signature by the identity key (20 R369). -/
opaque ecdsaSign : List Byte → List Byte
/-- The secp384r1 key exchange: the device's share and the session secret (20 R369). -/
opaque ecdhShare : Nat → List Byte → List Byte
opaque ecdhSecret : Nat → List Byte → List Byte
/-- Whether a FINISH verify-data field verifies under a session secret (20 R369). -/
opaque finishVerify : List Byte → List Byte → Bool
/-- The certificate chain of slot 0 (20 R369). -/
opaque certChain : List Byte
/-- The stepping in `MID` [31:24] (18 R324). -/
opaque stepping : BitVec 8
/-- The digests of the boot ROM (18 R326, measurement block 1). -/
opaque bootRomDigest : List Byte
/-- The check word over a context image (19 R349), from its bytes. -/
opaque checkWord : List Byte → Word
/-- The bytes of an image beyond its header (19 R349), written and read only by the context unit. -/
opaque imageByte : Nat → Nat → Byte
/-- The bytes of a task descriptor in an overflow area (17 R307): its contents are not architectural. -/
opaque descriptorByte : Nat → Nat → Byte
/-- Whether a bitstream is of a profile and level that a decoder supports (07 R155). The codecs are published standards cited
by name. -/
opaque mediaSupported : Nat → List Byte → Bool
/-- What a decoder finds in a bitstream (07 R155): width, height, bit depth, number of frames before the end or the
first error, and whether an error is what ends them. The codecs are published standards cited by name. -/
opaque mediaInfo : Nat → List Byte → (Nat × Nat × Nat × Nat × Bool)
/-- The encryption of a flit's payload and the tag over its other bytes, by port and sequence (20 R355): AES-256-GCM under the link
key. -/
opaque linkSeal : Nat → Nat → List Byte → List Byte
opaque linkTag : Nat → Nat → List Byte → List Byte
/-- What a counter of cycles or of bytes moved adds that the manual does not give (21 R382): the counter, and how far it stands. -/
opaque traffic : Nat → Nat → Nat
/-- Whether a bitstream is monochrome (07 R157). -/
opaque mediaMono : Nat → List Byte → Bool
/-- A decoded sample: codec, bitstream, frame, plane, row, column (07 R157). -/
opaque mediaSample : Nat → List Byte → Nat → Nat → Nat → Nat → Nat
/-- The correctly rounded result of a transcendental function where the model's evaluation did not decide it:
the function, the operand, the significand width (04 R81, 11 R234). -/
opaque roundedSignificand : Nat → Nat → Nat → Nat → Nat
opaque roundedExponent : Nat → Nat → Nat → Nat → Int

end Sys2Proof.Config
end

