-- ==== Sys2Proof/Syntax.lean ====
section
/-!
DEFINITION. The instructions and events of the opcode table as syntax: one constructor of `Instr` for each row.
Operand fields keep the width their encoding gives them (08 R173, R174); a field whose values are names is an
inductive type of those names.
-/
namespace Sys2Proof

/-- The register a `CTLR` or `CTLW` transfers through: scalar form 0 or address form 1 (13 R288). -/
inductive CReg where
  | s (r : SReg)
  | a (r : AReg)
  deriving DecidableEq, Repr

/-- Lane types of the vector unit (08 R180). -/
inductive LaneT where
  | f64 | f32 | f16 | bf16 | i64 | i32 | i16
  deriving DecidableEq, Repr

/-- Scopes of releases and acquires (06 R117). -/
inductive Scope where
  | thread | tile | cluster | module | domain
  deriving DecidableEq, Repr

/-- Order field of the M format: weak, strong, or acquire on a load and release on a store (06 R116). -/
inductive MOrder where
  | weak | strong | sync
  deriving DecidableEq, Repr

/-- Order field of the atomics (06 R128). -/
inductive AOrder where
  | none | acq | rel | ar
  deriving DecidableEq, Repr

/-- Kinds of fence (06 R127). -/
inductive FenceKind where
  | acq | rel | ar | full
  deriving DecidableEq, Repr

/-- Kinds of `LD` (08 R178). -/
inductive LdKind where
  | b | h | w | d | bu | hu | wu
  deriving DecidableEq, Repr

/-- Kinds of `ST` and `PULL` (08 R178). -/
inductive StKind where
  | b | h | w | d
  deriving DecidableEq, Repr

/-- Kinds of `LDV` and `STV`: 64, 32, 16 or 8 bytes (10 R212). -/
inductive VKind where
  | full | lo32 | lo16 | lo8
  deriving DecidableEq, Repr

/-- One constructor per row of the opcode table. The rows that are events carry no operand: what an event
concerns, and what arrives from outside with it, stands in the state (`Machine.EvArgs`).
The rows without operands stand last. -/
inductive Instr where
  /-- `IFLUSH` (R289). -/
  | iflush (a : AReg) (d : SReg)
  /-- `TLBI` (R344). -/
  | tlbi (a : AReg) (d : SReg)
  /-- `TRAP` (R286). -/
  | trap (code : BitVec 12)
  /-- `CTLR` (R288). -/
  | ctlr (d : CReg) (idx : BitVec 12)
  /-- `CTLW` (R288). -/
  | ctlw (idx : BitVec 12) (a : CReg)
  /-- `ADD` (R194). -/
  | add (d : SReg) (a : SReg) (b : SReg)
  /-- `SUB` (R194). -/
  | sub (d : SReg) (a : SReg) (b : SReg)
  /-- `AND` (R194). -/
  | and (d : SReg) (a : SReg) (b : SReg)
  /-- `OR` (R194). -/
  | or (d : SReg) (a : SReg) (b : SReg)
  /-- `XOR` (R194). -/
  | xor (d : SReg) (a : SReg) (b : SReg)
  /-- `ANDN` (R194). -/
  | andn (d : SReg) (a : SReg) (b : SReg)
  /-- `SHL` (R194). -/
  | shl (d : SReg) (a : SReg) (b : SReg)
  /-- `SHR` (R194). -/
  | shr (d : SReg) (a : SReg) (b : SReg)
  /-- `SAR` (R194). -/
  | sar (d : SReg) (a : SReg) (b : SReg)
  /-- `MUL` (R194). -/
  | mul (d : SReg) (a : SReg) (b : SReg)
  /-- `MULH` (R194). -/
  | mulh (d : SReg) (a : SReg) (b : SReg)
  /-- `MULHU` (R194). -/
  | mulhu (d : SReg) (a : SReg) (b : SReg)
  /-- `DIV` (R195). -/
  | div (d : SReg) (a : SReg) (b : SReg)
  /-- `DIVU` (R195). -/
  | divu (d : SReg) (a : SReg) (b : SReg)
  /-- `REM` (R195). -/
  | rem (d : SReg) (a : SReg) (b : SReg)
  /-- `REMU` (R195). -/
  | remu (d : SReg) (a : SReg) (b : SReg)
  /-- `MIN` (R194). -/
  | min (d : SReg) (a : SReg) (b : SReg)
  /-- `MAX` (R194). -/
  | max (d : SReg) (a : SReg) (b : SReg)
  /-- `MINU` (R194). -/
  | minu (d : SReg) (a : SReg) (b : SReg)
  /-- `MAXU` (R194). -/
  | maxu (d : SReg) (a : SReg) (b : SReg)
  /-- `SEQ` (R194). -/
  | seq (d : SReg) (a : SReg) (b : SReg)
  /-- `SNE` (R194). -/
  | sne (d : SReg) (a : SReg) (b : SReg)
  /-- `SLT` (R194). -/
  | slt (d : SReg) (a : SReg) (b : SReg)
  /-- `SLTU` (R194). -/
  | sltu (d : SReg) (a : SReg) (b : SReg)
  /-- `CLZ` (R194). -/
  | clz (d : SReg) (a : SReg)
  /-- `CTZ` (R194). -/
  | ctz (d : SReg) (a : SReg)
  /-- `POPC` (R194). -/
  | popc (d : SReg) (a : SReg)
  /-- `BREV` (R194). -/
  | brev (d : SReg) (a : SReg)
  /-- `BSWAP` (R194). -/
  | bswap (d : SReg) (a : SReg)
  /-- `SEXT` (R194). -/
  | sext (d : SReg) (a : SReg) (b : SReg)
  /-- `ZEXT` (R194). -/
  | zext (d : SReg) (a : SReg) (b : SReg)
  /-- `CMOV` (R194). -/
  | cmov (d : SReg) (a : SReg) (b : SReg)
  /-- `ADDI` (R196). -/
  | addi (d : SReg) (a : SReg) (imm : BitVec 15)
  /-- `ANDI` (R196). -/
  | andi (d : SReg) (a : SReg) (imm : BitVec 15)
  /-- `ORI` (R196). -/
  | ori (d : SReg) (a : SReg) (imm : BitVec 15)
  /-- `XORI` (R196). -/
  | xori (d : SReg) (a : SReg) (imm : BitVec 15)
  /-- `SHLI` (R196). -/
  | shli (d : SReg) (a : SReg) (n : BitVec 6)
  /-- `SHRI` (R196). -/
  | shri (d : SReg) (a : SReg) (n : BitVec 6)
  /-- `SARI` (R196). -/
  | sari (d : SReg) (a : SReg) (n : BitVec 6)
  /-- `SLTI` (R196). -/
  | slti (d : SReg) (a : SReg) (imm : BitVec 14)
  /-- `SLTIU` (R196). -/
  | sltiu (d : SReg) (a : SReg) (imm : BitVec 14)
  /-- `MOVI` (R197). -/
  | movi (d : SReg) (imm : BitVec 15)
  /-- `MOVI_LONG` (R197). -/
  | moviLong (d : SReg) (ext : BitVec 32)
  /-- `MOVHI` (R197). -/
  | movhi (d : SReg) (ext : BitVec 32)
  /-- `ADRPC` (R198). -/
  | adrpc (d : AReg) (imm : BitVec 15)
  /-- `ADRPC_LONG` (R198). -/
  | adrpcLong (d : AReg) (ext : BitVec 32)
  /-- `ADDA` (R199). -/
  | adda (d : AReg) (a : AReg) (b : SReg)
  /-- `SUBA` (R199). -/
  | suba (d : AReg) (a : AReg) (b : SReg)
  /-- `MOVAS` (R199). -/
  | movas (d : AReg) (a : SReg)
  /-- `MOVSA` (R199). -/
  | movsa (d : SReg) (a : AReg)
  /-- `MOVAH` (R199). -/
  | movah (d : AReg) (a : SReg)
  /-- `MOVHA` (R199). -/
  | movha (d : SReg) (a : AReg)
  /-- `AIDX` (R200). -/
  | aidx (d : AReg) (a : AReg) (b : SReg)
  /-- `SLTA` (R199). -/
  | slta (d : SReg) (a : AReg) (b : AReg)
  /-- `ADDAI` (R199). -/
  | addai (d : AReg) (a : AReg) (imm : BitVec 15)
  /-- `ADDAI_LONG` (R199). -/
  | addaiLong (d : AReg) (a : AReg) (ext : BitVec 32)
  /-- `BEQ` (R201). -/
  | beq (a : SReg) (b : SReg) (off : BitVec 15)
  /-- `BNE` (R201). -/
  | bne (a : SReg) (b : SReg) (off : BitVec 15)
  /-- `BLT` (R201). -/
  | blt (a : SReg) (b : SReg) (off : BitVec 15)
  /-- `BGE` (R201). -/
  | bge (a : SReg) (b : SReg) (off : BitVec 15)
  /-- `BLTU` (R201). -/
  | bltu (a : SReg) (b : SReg) (off : BitVec 15)
  /-- `BGEU` (R201). -/
  | bgeu (a : SReg) (b : SReg) (off : BitVec 15)
  /-- `JMP` (R202). -/
  | jmp (off : BitVec 25)
  /-- `CALL` (R202). -/
  | call (off : BitVec 25)
  /-- `JR` (R203). -/
  | jr (a : AReg)
  /-- `CALLR` (R203). -/
  | callr (a : AReg)
  /-- `LOOP` (R204). -/
  | loop (a : SReg) (len : BitVec 12)
  /-- `LOOPI` (R204). -/
  | loopi (c : BitVec 11) (len : BitVec 12)
  /-- `REALIGN` (R207). -/
  | realign (limit : BitVec 15)
  /-- `LD` (R211). -/
  | ld (k : LdKind) (o : MOrder) (d : SReg) (a : AReg) (off : BitVec 12)
  /-- `ST` (R211). -/
  | st (k : StKind) (o : MOrder) (d : SReg) (a : AReg) (off : BitVec 12)
  /-- `LDV` (R212). -/
  | ldv (k : VKind) (o : MOrder) (d : VReg) (a : AReg) (off : BitVec 12)
  /-- `STV` (R212). -/
  | stv (k : VKind) (o : MOrder) (d : VReg) (a : AReg) (off : BitVec 12)
  /-- `PULL` (R214). -/
  | pull (k : StKind) (o : MOrder) (d : SReg) (a : AReg) (off : BitVec 12)
  /-- `PULLV` (R214). -/
  | pullv (o : MOrder) (d : VReg) (a : AReg) (off : BitVec 12)
  /-- `PREF` (R215). -/
  | pref (hint : BitVec 5) (a : AReg) (off : BitVec 12)
  /-- `AMOADD` (R216). -/
  | amoadd (wide : Bool) (o : AOrder) (d : SReg) (a : AReg) (b : SReg)
  /-- `AMOAND` (R216). -/
  | amoand (wide : Bool) (o : AOrder) (d : SReg) (a : AReg) (b : SReg)
  /-- `AMOOR` (R216). -/
  | amoor (wide : Bool) (o : AOrder) (d : SReg) (a : AReg) (b : SReg)
  /-- `AMOXOR` (R216). -/
  | amoxor (wide : Bool) (o : AOrder) (d : SReg) (a : AReg) (b : SReg)
  /-- `AMOMIN` (R216). -/
  | amomin (wide : Bool) (o : AOrder) (d : SReg) (a : AReg) (b : SReg)
  /-- `AMOMAX` (R216). -/
  | amomax (wide : Bool) (o : AOrder) (d : SReg) (a : AReg) (b : SReg)
  /-- `AMOMINU` (R216). -/
  | amominu (wide : Bool) (o : AOrder) (d : SReg) (a : AReg) (b : SReg)
  /-- `AMOMAXU` (R216). -/
  | amomaxu (wide : Bool) (o : AOrder) (d : SReg) (a : AReg) (b : SReg)
  /-- `AMOSWAP` (R216). -/
  | amoswap (wide : Bool) (o : AOrder) (d : SReg) (a : AReg) (b : SReg)
  /-- `AMOCAS` (R216). -/
  | amocas (wide : Bool) (o : AOrder) (d : SReg) (a : AReg) (b : SReg)
  /-- `FENCE` (R217). -/
  | fence (k : FenceKind) (sc : Scope)
  /-- `SEQADV_MAX` (R218). -/
  | seqadvMax (sc : Scope) (d : SReg) (a : AReg) (b : SReg)
  /-- `SEQADV_ADD` (R218). -/
  | seqadvAdd (sc : Scope) (d : SReg) (a : AReg) (b : SReg)
  /-- `WATCH` (R219). -/
  | watch (sc : Scope) (slot : BitVec 3) (a : AReg) (b : SReg)
  /-- `WAITW` (R220). -/
  | waitw (d : SReg) (slot : BitVec 3)
  /-- `WAITA` (R221). -/
  | waita (ge : Bool) (acq : Bool) (d : SReg) (a : AReg) (b : SReg)
  /-- `WAITC` (R222). -/
  | waitc (ldl : BitVec 5) (stl : BitVec 5) (cpl : BitVec 5) (mxl : BitVec 5)
  /-- `BARINIT` (R223). -/
  | barinit (d : SReg) (a : AReg) (b : SReg)
  /-- `BARWAIT` (R223). -/
  | barwait (a : AReg) (b : SReg)
  /-- `BARADD` (R223). -/
  | baradd (a : AReg) (b : SReg)
  /-- `KEYGIVE` (R225). -/
  | keygive (a : AReg) (b : SReg)
  /-- `KEYTAKE` (R226). -/
  | keytake (d : SReg) (a : AReg)
  /-- `KEYQRY` (R227). -/
  | keyqry (d : SReg) (a : AReg)
  /-- `STASHCFG` (R228). -/
  | stashcfg (d : SReg) (a : AReg)
  /-- `VFADD` (R233). -/
  | vfadd (t : LaneT) (d : VReg) (a : VReg) (b : VReg) (m : MReg)
  /-- `VFSUB` (R233). -/
  | vfsub (t : LaneT) (d : VReg) (a : VReg) (b : VReg) (m : MReg)
  /-- `VFMUL` (R233). -/
  | vfmul (t : LaneT) (d : VReg) (a : VReg) (b : VReg) (m : MReg)
  /-- `VFMA` (R233). -/
  | vfma (t : LaneT) (d : VReg) (a : VReg) (b : VReg) (m : MReg)
  /-- `VFMS` (R233). -/
  | vfms (t : LaneT) (d : VReg) (a : VReg) (b : VReg) (m : MReg)
  /-- `VFNMA` (R233). -/
  | vfnma (t : LaneT) (d : VReg) (a : VReg) (b : VReg) (m : MReg)
  /-- `VFDIV` (R233). -/
  | vfdiv (t : LaneT) (d : VReg) (a : VReg) (b : VReg) (m : MReg)
  /-- `VFMIN` (R233). -/
  | vfmin (t : LaneT) (d : VReg) (a : VReg) (b : VReg) (m : MReg)
  /-- `VFMAX` (R233). -/
  | vfmax (t : LaneT) (d : VReg) (a : VReg) (b : VReg) (m : MReg)
  /-- `VFSQRT` (R234). -/
  | vfsqrt (t : LaneT) (d : VReg) (a : VReg) (m : MReg)
  /-- `VFRCP` (R234). -/
  | vfrcp (t : LaneT) (d : VReg) (a : VReg) (m : MReg)
  /-- `VFRSQ` (R234). -/
  | vfrsq (t : LaneT) (d : VReg) (a : VReg) (m : MReg)
  /-- `VFABS` (R234). -/
  | vfabs (t : LaneT) (d : VReg) (a : VReg) (m : MReg)
  /-- `VFNEG` (R234). -/
  | vfneg (t : LaneT) (d : VReg) (a : VReg) (m : MReg)
  /-- `VFEXP2` (R234). -/
  | vfexp2 (t : LaneT) (d : VReg) (a : VReg) (m : MReg)
  /-- `VFLOG2` (R234). -/
  | vflog2 (t : LaneT) (d : VReg) (a : VReg) (m : MReg)
  /-- `VFTANH` (R234). -/
  | vftanh (t : LaneT) (d : VReg) (a : VReg) (m : MReg)
  /-- `VFCLASS` (R235). -/
  | vfclass (t : LaneT) (d : VReg) (a : VReg) (m : MReg)
  /-- `VADD` (R236). -/
  | vadd (t : LaneT) (d : VReg) (a : VReg) (b : VReg) (m : MReg)
  /-- `VSUB` (R236). -/
  | vsub (t : LaneT) (d : VReg) (a : VReg) (b : VReg) (m : MReg)
  /-- `VMUL` (R236). -/
  | vmul (t : LaneT) (d : VReg) (a : VReg) (b : VReg) (m : MReg)
  /-- `VMULH` (R236). -/
  | vmulh (t : LaneT) (d : VReg) (a : VReg) (b : VReg) (m : MReg)
  /-- `VMIN` (R236). -/
  | vmin (t : LaneT) (d : VReg) (a : VReg) (b : VReg) (m : MReg)
  /-- `VMAX` (R236). -/
  | vmax (t : LaneT) (d : VReg) (a : VReg) (b : VReg) (m : MReg)
  /-- `VABS` (R236). -/
  | vabs (t : LaneT) (d : VReg) (a : VReg) (m : MReg)
  /-- `VSADD` (R236). -/
  | vsadd (t : LaneT) (d : VReg) (a : VReg) (b : VReg) (m : MReg)
  /-- `VSSUB` (R236). -/
  | vssub (t : LaneT) (d : VReg) (a : VReg) (b : VReg) (m : MReg)
  /-- `VAND` (R237). -/
  | vand (t : LaneT) (d : VReg) (a : VReg) (b : VReg) (m : MReg)
  /-- `VOR` (R237). -/
  | vor (t : LaneT) (d : VReg) (a : VReg) (b : VReg) (m : MReg)
  /-- `VXOR` (R237). -/
  | vxor (t : LaneT) (d : VReg) (a : VReg) (b : VReg) (m : MReg)
  /-- `VNOT` (R237). -/
  | vnot (t : LaneT) (d : VReg) (a : VReg) (m : MReg)
  /-- `VSHL` (R237). -/
  | vshl (t : LaneT) (d : VReg) (a : VReg) (b : VReg) (m : MReg)
  /-- `VSHR` (R237). -/
  | vshr (t : LaneT) (d : VReg) (a : VReg) (b : VReg) (m : MReg)
  /-- `VSAR` (R237). -/
  | vsar (t : LaneT) (d : VReg) (a : VReg) (b : VReg) (m : MReg)
  /-- `VFCMP_EQ` (R238). -/
  | vfcmpEq (t : LaneT) (d : MReg) (a : VReg) (b : VReg) (m : MReg)
  /-- `VFCMP_LT` (R238). -/
  | vfcmpLt (t : LaneT) (d : MReg) (a : VReg) (b : VReg) (m : MReg)
  /-- `VFCMP_LE` (R238). -/
  | vfcmpLe (t : LaneT) (d : MReg) (a : VReg) (b : VReg) (m : MReg)
  /-- `VFCMP_UN` (R238). -/
  | vfcmpUn (t : LaneT) (d : MReg) (a : VReg) (b : VReg) (m : MReg)
  /-- `VCMP_EQ` (R238). -/
  | vcmpEq (t : LaneT) (d : MReg) (a : VReg) (b : VReg) (m : MReg)
  /-- `VCMP_LT` (R238). -/
  | vcmpLt (t : LaneT) (d : MReg) (a : VReg) (b : VReg) (m : MReg)
  /-- `VCMP_LE` (R238). -/
  | vcmpLe (t : LaneT) (d : MReg) (a : VReg) (b : VReg) (m : MReg)
  /-- `VCMP_LTU` (R238). -/
  | vcmpLtu (t : LaneT) (d : MReg) (a : VReg) (b : VReg) (m : MReg)
  /-- `VCMP_LEU` (R238). -/
  | vcmpLeu (t : LaneT) (d : MReg) (a : VReg) (b : VReg) (m : MReg)
  /-- `VSEL` (R239). -/
  | vsel (t : LaneT) (d : VReg) (a : VReg) (b : VReg) (m : MReg)
  /-- `MAND` (R239). -/
  | mand (d : MReg) (a : MReg) (b : MReg)
  /-- `MOR` (R239). -/
  | mor (d : MReg) (a : MReg) (b : MReg)
  /-- `MNOT` (R239). -/
  | mnot (d : MReg) (a : MReg)
  /-- `MPOPC` (R239). -/
  | mpopc (d : SReg) (a : MReg)
  /-- `VBCAST` (R240). -/
  | vbcast (t : LaneT) (d : VReg) (a : SReg) (m : MReg)
  /-- `VMOVS` (R240). -/
  | vmovs (t : LaneT) (d : SReg) (a : VReg) (b : SReg)
  /-- `VINS` (R240). -/
  | vins (t : LaneT) (d : VReg) (a : SReg) (b : SReg)
  /-- `VPERM` (R240). -/
  | vperm (t : LaneT) (d : VReg) (a : VReg) (b : VReg) (m : MReg)
  /-- `VSLIDE` (R240). -/
  | vslide (t : LaneT) (d : VReg) (a : VReg) (b : SReg) (m : MReg)
  /-- `VIOTA` (R240). -/
  | viota (t : LaneT) (d : VReg) (m : MReg)
  /-- `VREDADD` (R241). -/
  | vredadd (t : LaneT) (d : SReg) (a : VReg) (m : MReg)
  /-- `VREDMAX` (R241). -/
  | vredmax (t : LaneT) (d : SReg) (a : VReg) (m : MReg)
  /-- `VREDMIN` (R241). -/
  | vredmin (t : LaneT) (d : SReg) (a : VReg) (m : MReg)
  /-- `VREDMAXI` (R242). -/
  | vredmaxi (t : LaneT) (d : SReg) (a : VReg) (m : MReg)
  /-- `VREDMINI` (R242). -/
  | vredmini (t : LaneT) (d : SReg) (a : VReg) (m : MReg)
  /-- `VCVT` (R243). -/
  | vcvt (t : LaneT) (src : LaneT) (d : VReg) (a : VReg) (m : MReg)
  /-- `VPACK` (R243). -/
  | vpack (t : LaneT) (src : LaneT) (d : VReg) (a : VReg) (m : MReg)
  /-- `VUNPACK` (R243). -/
  | vunpack (t : LaneT) (src : LaneT) (d : VReg) (a : VReg) (m : MReg)
  /-- `VGATHER` (R246). -/
  | vgather (t : LaneT) (d : VReg) (a : AReg) (b : VReg) (m : MReg)
  /-- `VSCATTER` (R247). -/
  | vscatter (t : LaneT) (d : VReg) (a : AReg) (b : VReg) (m : MReg)
  /-- `MMA` (R255). -/
  | mma (acc : BitVec 4) (ba : BitVec 4) (bb : BitVec 4) (sk : SReg) (so : SReg)
  /-- `MZERO` (R256). -/
  | mzero (acc : BitVec 4)
  /-- `MDRAIN` (R257). -/
  | mdrain (d : SReg) (acc : BitVec 4) (bank : BitVec 4) (so : SReg)
  /-- `MLOAD` (R258). -/
  | mload (acc : BitVec 4) (bank : BitVec 4) (so : SReg)
  /-- `SEMSIG` (R261). -/
  | semsig (n : BitVec 3)
  /-- `SEMWAIT` (R261). -/
  | semwait (n : BitVec 3)
  /-- `MCFG` (R252). -/
  | mcfg (a : SReg)
  /-- `BFMT` (R253). -/
  | bfmt (bank : BitVec 4) (a : SReg)
  /-- `BPULL` (R263). -/
  | bpull (sv : SReg) (asrc : AReg) (adst : AReg) (asig : AReg) (acpl : AReg)
  /-- `BPULLA` (R263). -/
  | bpulla (sv : SReg) (sx : SReg) (asrc : AReg) (asig : AReg) (acpl : AReg)
  /-- `BCOPY` (R263). -/
  | bcopy (sv : SReg) (asrc : AReg) (adst : AReg) (asig : AReg) (acpl : AReg)
  /-- `ECMD` (R264). -/
  | ecmd (a : AReg)
  /-- `MDEC` (R265). -/
  | mdec (sp : SReg) (sl : SReg) (asrc : AReg) (adst : AReg) (asig : AReg) (acpl : AReg)
  /-- `LODGE` (R266). -/
  | lodge (sn : SReg) (sx : SReg) (asrc : AReg) (adst : AReg) (asig : AReg) (acpl : AReg)
  /-- `MSEND` (R268). -/
  | msend (d : SReg) (b : VReg)
  /-- `MSEND_POST` (R268). -/
  | msendPost (d : SReg) (b : VReg)
  /-- `MSEND_RETRY` (R268). -/
  | msendRetry (d : SReg)
  /-- `MRECV` (R268). -/
  | mrecv (d : VReg)
  /-- `MRECV_REP` (R268). -/
  | mrecvRep (d : VReg)
  /-- `MPEEK` (R268). -/
  | mpeek (d : VReg)
  /-- `MPEEK_REP` (R268). -/
  | mpeekRep (d : VReg)
  /-- `MREPLY` (R268). -/
  | mreply (b : VReg)
  /-- `MBIND` (R269). -/
  | mbind (d : SReg) (a : SReg)
  /-- `COLL` (R267). -/
  | coll (a : AReg)
  /-- `SKINIT` (R270). -/
  | skinit (a : AReg) (sg : SReg) (ss : SReg)
  /-- `SKINIT_TAB` (R270). -/
  | skinitTab (a : AReg) (b : AReg) (sg : SReg)
  /-- `SKUPD` (R161). -/
  | skupd (f64 : Bool) (a : AReg) (sk : SReg) (sv : SReg)
  /-- `SKUPD_V` (R161). -/
  | skupdV (f64 : Bool) (a : AReg) (vk : VReg) (vv : VReg)
  /-- `SKQRY` (R162). -/
  | skqry (d : SReg) (a : AReg) (sk : SReg)
  /-- `SKADD` (R163). -/
  | skadd (a : AReg) (b : AReg)
  /-- `SKSCL` (R163). -/
  | skscl (a : AReg) (sf : SReg)
  /-- `SKCLR` (R163). -/
  | skclr (a : AReg)
  /-- `SKSAT` (R163). -/
  | sksat (d : SReg) (a : AReg)
  /-- `SKSAT_CLR` (R163). -/
  | sksatClr (d : SReg) (a : AReg)
  /-- `XADD` (R272). -/
  | xadd (d : WReg) (a : WReg) (b : WReg)
  /-- `XSUB` (R272). -/
  | xsub (d : WReg) (a : WReg) (b : WReg)
  /-- `XMUL` (R272). -/
  | xmul (d : WReg) (a : WReg) (b : WReg)
  /-- `XFMA` (R272). -/
  | xfma (d : WReg) (a : WReg) (b : WReg)
  /-- `XDIV` (R272). -/
  | xdiv (d : WReg) (a : WReg) (b : WReg)
  /-- `XSQRT` (R272). -/
  | xsqrt (d : WReg) (a : WReg)
  /-- `XRND` (R272). -/
  | xrnd (d : WReg) (a : WReg)
  /-- `XNEG` (R272). -/
  | xneg (d : WReg) (a : WReg)
  /-- `XABS` (R272). -/
  | xabs (d : WReg) (a : WReg)
  /-- `XMOV` (R272). -/
  | xmov (d : WReg) (a : WReg)
  /-- `XSCALE` (R272). -/
  | xscale (d : WReg) (a : WReg) (b : SReg)
  /-- `XEXP` (R272). -/
  | xexp (d : WReg) (a : WReg)
  /-- `XCMP` (R273). -/
  | xcmp (d : SReg) (a : WReg) (b : WReg)
  /-- `XLEN` (R273). -/
  | xlen (d : SReg) (a : WReg)
  /-- `XCVT_WINDOW_FROM_INT64` (R273). -/
  | xcvtWindowFromInt64 (d : WReg) (a : SReg)
  /-- `XCVT_WINDOW_FROM_FP64` (R273). -/
  | xcvtWindowFromFp64 (d : WReg) (a : SReg)
  /-- `XCVT_WINDOW_FROM_UINT64` (R273). -/
  | xcvtWindowFromUint64 (d : WReg) (a : SReg)
  /-- `XCVT_SCALAR_TO_INT64` (R274). -/
  | xcvtScalarToInt64 (d : SReg) (a : WReg)
  /-- `XCVT_SCALAR_TO_FP64` (R274). -/
  | xcvtScalarToFp64 (d : SReg) (a : WReg)
  /-- `XCVT_SCALAR_TO_UINT64` (R274). -/
  | xcvtScalarToUint64 (d : SReg) (a : WReg)
  /-- `XLD` (R276). -/
  | xld (o : MOrder) (d : WReg) (a : AReg) (off : BitVec 12)
  /-- `XST` (R276). -/
  | xst (o : MOrder) (d : WReg) (a : AReg) (off : BitVec 12)
  /-- `XALLOC` (R84). -/
  | xalloc (d : WReg) (base : BitVec 8) (n : BitVec 5)
  /-- `XFREE` (R84). -/
  | xfree (d : WReg)
  /-- `XSETP` (R275). -/
  | xsetp (a : SReg)
  /-- `XGETP` (R275). -/
  | xgetp (d : SReg)
  /-- `TSPAWN` (R278). -/
  | tspawn (d : SReg) (a : AReg) (b : VReg)
  /-- `TJOIN` (R279). -/
  | tjoin (d : SReg) (a : AReg)
  /-- `TEXIT` (R280). -/
  | texit (b : Option VReg)
  /-- `TPATH` (R281). -/
  | tpath (d : SReg) (a : SReg)
  /-- `CORES` (R281). -/
  | cores (d : SReg) (a : SReg)
  /-- `TCANCEL` (R282). -/
  | tcancel (d : SReg) (a : SReg) (b : SReg)
  /-- `GRUN` (R283). -/
  | grun (d : SReg) (a : AReg) (b : SReg)
  /-- `GCOND` (R284). -/
  | gcond (a : AReg) (b : SReg)
  /-- `GSTAT` (R284). -/
  | gstat (d : SReg) (a : SReg)
  /-- `NOP` (R286). -/
  | nop
  /-- `IDLE` (R287). -/
  | idle
  /-- `BKPT` (R286). -/
  | bkpt
  /-- `ERET` (R186). -/
  | eret
  /-- `HALT` (R348). -/
  | halt
  /-- `RET` (R203). -/
  | ret
  /-- `TYIELD` (R281). -/
  | tyield
  /-- `UJIDX_DISCARD` (R141). -/
  | ujidxDiscard
  /-- `REALIGN_LIMIT_EXPIRY` (R207). -/
  | realignLimitExpiry
  /-- `IDLE_TIMEOUT` (R287). -/
  | idleTimeout
  /-- `MATRIX_COMPLETION` (R251). -/
  | matrixCompletion
  /-- `TASK_DISPATCH` (R36). -/
  | taskDispatch
  /-- `PREEMPTION` (R39). -/
  | preemption
  /-- `SUPERVISOR_RESTORE_ENTRY` (R348). -/
  | supervisorRestoreEntry
  /-- `QUANTUM_EXPIRY` (R40). -/
  | quantumExpiry
  /-- `CANCEL_GRACE_EXPIRY` (R43). -/
  | cancelGraceExpiry
  /-- `WATCHDOG_EXPIRY` (R45). -/
  | watchdogExpiry
  /-- `ASYNC_TRAP_ENTRY` (R187). -/
  | asyncTrapEntry
  /-- `QUEUE_LAUNCH_ENTRY` (R331). -/
  | queueLaunchEntry
  /-- `QUEUE_GRAPH_ENTRY` (R331). -/
  | queueGraphEntry
  /-- `QUEUE_PHASE_BOUNDARY` (R331). -/
  | queuePhaseBoundary
  /-- `GRAPH_LAUNCH_NODE` (R30). -/
  | graphLaunchNode
  /-- `GRAPH_ENGINE_JOB_NODE` (R329). -/
  | graphEngineJobNode
  /-- `GRAPH_CONDITIONAL_NODE` (R30). -/
  | graphConditionalNode
  /-- `GRAPH_WHILE_NODE` (R30). -/
  | graphWhileNode
  /-- `GRAPH_SIGNAL_NODE` (R30). -/
  | graphSignalNode
  /-- `LINE_READ` (R104). -/
  | lineRead
  /-- `LINE_REPLY` (R356). -/
  | lineReply
  /-- `LOAD_COMPLETION` (R210). -/
  | loadCompletion
  /-- `KEYHOLE_READ` (R359). -/
  | keyholeRead
  /-- `WATCH_REQUEST` (R108). -/
  | watchRequest
  /-- `WATCH_ANSWER` (R109). -/
  | watchAnswer
  /-- `STORE_PERFORMED` (R118). -/
  | storePerformed
  /-- `ATOMIC_PERFORMED` (R128). -/
  | atomicPerformed
  /-- `L1_WRITE_THROUGH` (R106). -/
  | l1WriteThrough
  /-- `STASH_EVICTION` (R102). -/
  | stashEviction
  /-- `MESSAGE_REQUEST` (R140). -/
  | messageRequest
  /-- `MESSAGE_REPLY` (R137). -/
  | messageReply
  /-- `POSTED_ACCEPTANCE` (R141). -/
  | postedAcceptance
  /-- `POSTED_REFUSAL` (R141). -/
  | postedRefusal
  /-- `SEND_QUEUE_ACCEPTANCE` (R139). -/
  | sendQueueAcceptance
  /-- `ENGINE_JOB_START` (R130). -/
  | engineJobStart
  /-- `ENGINE_PAYLOAD_PART` (R113). -/
  | enginePayloadPart
  /-- `ENGINE_JOB_COMPLETION` (R148). -/
  | engineJobCompletion
  /-- `COLLECTIVE_STEP` (R153). -/
  | collectiveStep
  /-- `COLLECTIVE_COMPLETION` (R150). -/
  | collectiveCompletion
  /-- `MEDIA_FRAME` (R157). -/
  | mediaFrame
  /-- `LODGING_COPY_COMPLETION` (R114). -/
  | lodgingCopyCompletion
  /-- `POWER_UP` (R325). -/
  | powerUp
  /-- `MRESET` (R325). -/
  | mreset
  /-- `CXL_HOT_RESET` (R325). -/
  | cxlHotReset
  /-- `CXL_LINK_DOWN` (R325). -/
  | cxlLinkDown
  /-- `FWGO` (R325). -/
  | fwgo
  /-- `FIRMWARE_VERIFICATION_DONE` (R326). -/
  | firmwareVerificationDone
  /-- `BAR2_HOST_READ` (R323). -/
  | bar2HostRead
  /-- `BAR2_HOST_WRITE` (R323). -/
  | bar2HostWrite
  /-- `KEYHAND` (R334). -/
  | keyhand
  /-- `JOBCTL_ENABLE` (R327). -/
  | jobctlEnable
  /-- `JOBCTL_END` (R368). -/
  | jobctlEnd
  /-- `JOBCTL_CANCEL` (R327). -/
  | jobctlCancel
  /-- `GLCMD_LOAD` (R330). -/
  | glcmdLoad
  /-- `GLCMD_UNLOAD` (R330). -/
  | glcmdUnload
  /-- `GRAPH_LOADER_COMPLETION` (R330). -/
  | graphLoaderCompletion
  /-- `QTAIL_WRITE` (R332). -/
  | qtailWrite
  /-- `QCTL_CANCEL` (R331). -/
  | qctlCancel
  /-- `QCTL_CLEAR_ERROR` (R331). -/
  | qctlClearError
  /-- `QUEUE_SWITCH_OUT` (R333). -/
  | queueSwitchOut
  /-- `QUEUE_SWITCH_OUT_DONE` (R333). -/
  | queueSwitchOutDone
  /-- `QUEUE_SWITCH_IN` (R333). -/
  | queueSwitchIn
  /-- `QUEUE_SWITCH_IN_DONE` (R333). -/
  | queueSwitchInDone
  /-- `POWER_STATE_ENTRY` (R335). -/
  | powerStateEntry
  /-- `POWER_WAKE` (R335). -/
  | powerWake
  /-- `POWER_WINDOW` (R336). -/
  | powerWindow
  /-- `THERMAL_LIMIT` (R336). -/
  | thermalLimit
  /-- `TOKEN_BUCKET_REFILL` (R337). -/
  | tokenBucketRefill
  /-- `HTLBCMD` (R342). -/
  | htlbcmd
  /-- `TLB_INVALIDATION_DONE` (R344). -/
  | tlbInvalidationDone
  /-- `SROP_COMMIT` (R346). -/
  | sropCommit
  /-- `SROP_COMMIT_DONE` (R346). -/
  | sropCommitDone
  /-- `SKOP_WRITE` (R347). -/
  | skopWrite
  /-- `SKOP_READ` (R347). -/
  | skopRead
  /-- `SKOP_FREE` (R347). -/
  | skopFree
  /-- `SCTX_SAVE` (R350). -/
  | sctxSave
  /-- `SCTX_RESTORE` (R351). -/
  | sctxRestore
  /-- `SPROT_WRITE` (R347). -/
  | sprotWrite
  /-- `NLCTL_TRAIN` (R358). -/
  | nlctlTrain
  /-- `NLCTL_DOWN` (R358). -/
  | nlctlDown
  /-- `NLCTL_CLEAR_FAILED` (R358). -/
  | nlctlClearFailed
  /-- `NARLOR_PORT_UP` (R355). -/
  | narlorPortUp
  /-- `DATA_FLIT` (R355). -/
  | dataFlit
  /-- `IDLE_FLIT` (R355). -/
  | idleFlit
  /-- `RETRY_REQUEST` (R355). -/
  | retryRequest
  /-- `NARLOR_PORT_FAILURE` (R357). -/
  | narlorPortFailure
  /-- `NEQPOP_CREATE` (R360). -/
  | neqpopCreate
  /-- `NEQPOP_FORCE_ERROR` (R364). -/
  | neqpopForceError
  /-- `NEQPOP_DESTROY` (R364). -/
  | neqpopDestroy
  /-- `NERGOP_REGISTER` (R362). -/
  | nergopRegister
  /-- `NERGOP_DEREGISTER` (R364). -/
  | nergopDeregister
  /-- `DEREGISTRATION_DONE` (R364). -/
  | deregistrationDone
  /-- `WORK_DEPOSIT` (R361). -/
  | workDeposit
  /-- `WORK_READ` (R361). -/
  | workRead
  /-- `DEPOSIT_DATA` (R363). -/
  | depositData
  /-- `DEPOSIT_LAST` (R363). -/
  | depositLast
  /-- `READ_REQUEST` (R363). -/
  | readRequest
  /-- `READ_DATA` (R363). -/
  | readData
  /-- `ACK` (R363). -/
  | ack
  /-- `NAK` (R363). -/
  | nak
  /-- `RETRANSMIT_TIMEOUT` (R363). -/
  | retransmitTimeout
  /-- `DEPOSIT_ABANDON_TIMEOUT` (R364). -/
  | depositAbandonTimeout
  /-- `LOCK_INTERFACE_REQUEST` (R365). -/
  | lockInterfaceRequest
  /-- `START_INTERFACE_REQUEST` (R365). -/
  | startInterfaceRequest
  /-- `STOP_INTERFACE_REQUEST` (R365). -/
  | stopInterfaceRequest
  /-- `GET_DEVICE_INTERFACE_REPORT` (R365). -/
  | getDeviceInterfaceReport
  /-- `IDE_STREAM_FAILURE` (R365). -/
  | ideStreamFailure
  /-- `IDE_KM` (R366). -/
  | ideKm
  /-- `GET_VERSION` (R369). -/
  | getVersion
  /-- `GET_CAPABILITIES` (R369). -/
  | getCapabilities
  /-- `NEGOTIATE_ALGORITHMS` (R369). -/
  | negotiateAlgorithms
  /-- `GET_DIGESTS` (R369). -/
  | getDigests
  /-- `GET_CERTIFICATE` (R369). -/
  | getCertificate
  /-- `CHALLENGE` (R369). -/
  | challenge
  /-- `GET_MEASUREMENTS` (R369). -/
  | getMeasurements
  /-- `KEY_EXCHANGE` (R369). -/
  | keyExchange
  /-- `FINISH` (R369). -/
  | finish
  /-- `END_SESSION` (R369). -/
  | endSession
  /-- `PRESET` (R371). -/
  | preset
  /-- `MFENCE` (R373). -/
  | mfence
  /-- `FENCEM_WRITE` (R373). -/
  | fencemWrite
  /-- `REMAP_WINDOW` (R376). -/
  | remapWindow
  /-- `PATROL_SCRUB` (R378). -/
  | patrolScrub
  /-- `UNCORRECTABLE_ERROR` (R378). -/
  | uncorrectableError
  /-- `TSNAP` (R382). -/
  | tsnap
  /-- `REGISTER_WRITE` (R7). -/
  | registerWrite
  /-- `ILLEGAL_INSTRUCTION` (R183). -/
  | illegalInstruction
  /-- `FETCH_TRANSLATION` (R184). -/
  | fetchTranslation
  /-- `FIRMWARE_FAILURE` (R373). -/
  | firmwareFailure
  /-- `KEYHOLE_PORT_UP` (R359). -/
  | keyholePortUp
  /-- `KEYHOLE_PORT_DOWN` (R359). -/
  | keyholePortDown
  deriving DecidableEq, Repr

end Sys2Proof
end

