-- ==== Sys2Proof/Decode.lean ====
section
/-!
DEFINITION. The decoder, total on any bytes, and the encoder, both written from the encoding tables of
08 R172–R183. The decoder rejects by name. An instruction is one 32-bit little-endian word, or two when its first
word has L = 1 (R172); numbers here are those words as natural numbers, and a field [hi:lo] is read by `fld`.
-/
namespace Sys2Proof

/-- Why bytes are no instruction (08 R183). -/
inductive DecodeError where
  /-- Fewer bytes than the instruction has. -/
  | truncated
  /-- An unallocated major. -/
  | major
  /-- An unallocated function, operation, sub-operation or kind. -/
  | function
  /-- L = 1 on a major without a long form. -/
  | longForm
  /-- `MOVHI` with L = 0. -/
  | shortMovhi
  /-- A nonzero field that must be zero (R174, R176–R182). -/
  | nonzeroField
  /-- An order of 0b11 (R116). -/
  | order
  /-- A reserved scope, lane type or hint, or a lane type the operation does not accept. -/
  | selector
  deriving DecidableEq, Repr

/-- Outcome of decoding one instruction's words. -/
inductive Decoded where
  | ok (i : Instr)
  | bad (e : DecodeError)
  deriving DecidableEq, Repr

/-- Bits [lo + n - 1 : lo] of the word w. -/
def fld (w lo n : Nat) : Nat := w / 2 ^ lo % 2 ^ n

/-- Requires a field to be zero (R174). -/
def needZero (x : Nat) (k : Decoded) : Decoded := if x = 0 then k else .bad .nonzeroField

/-! ### Codes of the named fields -/

def MOrder.code : MOrder → Nat
  | .weak => 0 | .strong => 1 | .sync => 2
/-- R116: 0b11 is illegal. -/
def MOrder.ofCode : Nat → Option MOrder
  | 0 => some .weak | 1 => some .strong | 2 => some .sync | _ => none
def AOrder.code : AOrder → Nat
  | .none => 0 | .acq => 1 | .rel => 2 | .ar => 3
def AOrder.ofCode : Nat → AOrder
  | 0 => .none | 1 => .acq | 2 => .rel | _ => .ar
def Scope.code : Scope → Nat
  | .thread => 0 | .tile => 1 | .cluster => 2 | .module => 3 | .domain => 4
/-- R179: 5–7 are illegal. -/
def Scope.ofCode : Nat → Option Scope
  | 0 => some .thread | 1 => some .tile | 2 => some .cluster | 3 => some .module | 4 => some .domain | _ => none
def FenceKind.code : FenceKind → Nat
  | .acq => 0 | .rel => 1 | .ar => 2 | .full => 3
def FenceKind.ofCode : Nat → FenceKind
  | 0 => .acq | 1 => .rel | 2 => .ar | _ => .full
def LdKind.code : LdKind → Nat
  | .b => 0 | .h => 1 | .w => 2 | .d => 3 | .bu => 4 | .hu => 5 | .wu => 6
def LdKind.ofCode : Nat → Option LdKind
  | 0 => some .b | 1 => some .h | 2 => some .w | 3 => some .d | 4 => some .bu | 5 => some .hu | 6 => some .wu
  | _ => none
def StKind.code : StKind → Nat
  | .b => 0 | .h => 1 | .w => 2 | .d => 3
def StKind.ofCode : Nat → Option StKind
  | 0 => some .b | 1 => some .h | 2 => some .w | 3 => some .d | _ => none
def VKind.code : VKind → Nat
  | .full => 0 | .lo32 => 1 | .lo16 => 2 | .lo8 => 3
def VKind.ofCode : Nat → Option VKind
  | 0 => some .full | 1 => some .lo32 | 2 => some .lo16 | 3 => some .lo8 | _ => none
def LaneT.code : LaneT → Nat
  | .f64 => 0 | .f32 => 1 | .f16 => 2 | .bf16 => 3 | .i64 => 4 | .i32 => 5 | .i16 => 6
/-- R180: 7 is reserved. -/
def LaneT.ofCode : Nat → Option LaneT
  | 0 => some .f64 | 1 => some .f32 | 2 => some .f16 | 3 => some .bf16 | 4 => some .i64 | 5 => some .i32
  | 6 => some .i16 | _ => none
def LaneT.isFloat : LaneT → Bool
  | .f64 | .f32 | .f16 | .bf16 => true
  | .i64 | .i32 | .i16 => false
/-- Bits of a lane (11 R230). -/
def LaneT.width : LaneT → Nat
  | .f64 | .i64 => 64
  | .f32 | .i32 => 32
  | .f16 | .bf16 | .i16 => 16
/-- The pairs of destination and source types that `VCVT`, `VPACK` and `VUNPACK` permit (11 R243). -/
def LaneT.converts (t src : LaneT) : Bool := t.width == src.width && t != src
def LaneT.packs (t src : LaneT) : Bool := decide (t.width < src.width)
def LaneT.unpacks (t src : LaneT) : Bool := decide (src.width < t.width)
/-- The register number of a `CTLR` or `CTLW` (13 R288). -/
def CReg.code : CReg → Nat
  | .s r => r.toNat | .a r => r.toNat
/-- The form field of a `CTLR` or `CTLW` (13 R288). -/
def CReg.flag : CReg → Nat
  | .s _ => 0 | .a _ => 1

/-- A five-bit field that names an address or mask register: its high two bits must be zero (R174). -/
def needLow3 (x : Nat) (k : BitVec 3 → Decoded) : Decoded :=
  if x < 8 then k (BitVec.ofNat 3 x) else .bad .nonzeroField
def needM (x : Nat) (k : MOrder → Decoded) : Decoded :=
  match MOrder.ofCode x with | some o => k o | none => .bad .order
def needScope (x : Nat) (k : Scope → Decoded) : Decoded :=
  match Scope.ofCode x with | some o => k o | none => .bad .selector
def needFloat (x : Nat) (k : LaneT → Decoded) : Decoded :=
  match LaneT.ofCode x with | some t => (if t.isFloat then k t else .bad .selector) | none => .bad .selector
def needInt (x : Nat) (k : LaneT → Decoded) : Decoded :=
  match LaneT.ofCode x with | some t => (if t.isFloat then .bad .selector else k t) | none => .bad .selector
def needAny (x : Nat) (k : LaneT → Decoded) : Decoded :=
  match LaneT.ofCode x with | some t => k t | none => .bad .selector

/-! ### One decoder for each layout -/

/-- Major 0x00 (R176, 13 R288). -/
def decSystem (w : Nat) : Decoded :=
  match fld w 12 3 with
  | 0 =>
    match fld w 0 12 with
    | 1 => needZero (fld w 15 10) (.ok .nop)
    | 2 => needZero (fld w 15 10) (.ok .idle)
    | 3 => needZero (fld w 15 10) (.ok .bkpt)
    | 4 => needZero (fld w 15 10) (.ok .eret)
    | 5 => needZero (fld w 15 10) (.ok .halt)
    | 6 => needLow3 (fld w 15 5) fun a => .ok (.iflush a (BitVec.ofNat 5 (fld w 20 5)))
    | 7 => needLow3 (fld w 15 5) fun a => .ok (.tlbi a (BitVec.ofNat 5 (fld w 20 5)))
    | _ => .bad .function
  | 1 => needZero (fld w 15 10) (.ok (.trap (BitVec.ofNat 12 (fld w 0 12))))
  | 2 =>
    match fld w 15 5 with
    | 0 => .ok (.ctlr (.s (BitVec.ofNat 5 (fld w 20 5))) (BitVec.ofNat 12 (fld w 0 12)))
    | 1 => needLow3 (fld w 20 5) fun d => .ok (.ctlr (.a d) (BitVec.ofNat 12 (fld w 0 12)))
    | _ => .bad .function
  | 3 =>
    match fld w 20 5 with
    | 0 => .ok (.ctlw (BitVec.ofNat 12 (fld w 0 12)) (.s (BitVec.ofNat 5 (fld w 15 5))))
    | 1 => needLow3 (fld w 15 5) fun a => .ok (.ctlw (BitVec.ofNat 12 (fld w 0 12)) (.a a))
    | _ => .bad .function
  | _ => .bad .function

/-- Major 0x01 (R177). -/
def decInteger (w : Nat) : Decoded :=
  match fld w 0 10 with
  | 0 => .ok (.add (BitVec.ofNat 5 (fld w 20 5)) (BitVec.ofNat 5 (fld w 15 5)) (BitVec.ofNat 5 (fld w 10 5)))
  | 1 => .ok (.sub (BitVec.ofNat 5 (fld w 20 5)) (BitVec.ofNat 5 (fld w 15 5)) (BitVec.ofNat 5 (fld w 10 5)))
  | 2 => .ok (.and (BitVec.ofNat 5 (fld w 20 5)) (BitVec.ofNat 5 (fld w 15 5)) (BitVec.ofNat 5 (fld w 10 5)))
  | 3 => .ok (.or (BitVec.ofNat 5 (fld w 20 5)) (BitVec.ofNat 5 (fld w 15 5)) (BitVec.ofNat 5 (fld w 10 5)))
  | 4 => .ok (.xor (BitVec.ofNat 5 (fld w 20 5)) (BitVec.ofNat 5 (fld w 15 5)) (BitVec.ofNat 5 (fld w 10 5)))
  | 5 => .ok (.andn (BitVec.ofNat 5 (fld w 20 5)) (BitVec.ofNat 5 (fld w 15 5)) (BitVec.ofNat 5 (fld w 10 5)))
  | 6 => .ok (.shl (BitVec.ofNat 5 (fld w 20 5)) (BitVec.ofNat 5 (fld w 15 5)) (BitVec.ofNat 5 (fld w 10 5)))
  | 7 => .ok (.shr (BitVec.ofNat 5 (fld w 20 5)) (BitVec.ofNat 5 (fld w 15 5)) (BitVec.ofNat 5 (fld w 10 5)))
  | 8 => .ok (.sar (BitVec.ofNat 5 (fld w 20 5)) (BitVec.ofNat 5 (fld w 15 5)) (BitVec.ofNat 5 (fld w 10 5)))
  | 9 => .ok (.mul (BitVec.ofNat 5 (fld w 20 5)) (BitVec.ofNat 5 (fld w 15 5)) (BitVec.ofNat 5 (fld w 10 5)))
  | 10 => .ok (.mulh (BitVec.ofNat 5 (fld w 20 5)) (BitVec.ofNat 5 (fld w 15 5)) (BitVec.ofNat 5 (fld w 10 5)))
  | 11 => .ok (.mulhu (BitVec.ofNat 5 (fld w 20 5)) (BitVec.ofNat 5 (fld w 15 5)) (BitVec.ofNat 5 (fld w 10 5)))
  | 12 => .ok (.div (BitVec.ofNat 5 (fld w 20 5)) (BitVec.ofNat 5 (fld w 15 5)) (BitVec.ofNat 5 (fld w 10 5)))
  | 13 => .ok (.divu (BitVec.ofNat 5 (fld w 20 5)) (BitVec.ofNat 5 (fld w 15 5)) (BitVec.ofNat 5 (fld w 10 5)))
  | 14 => .ok (.rem (BitVec.ofNat 5 (fld w 20 5)) (BitVec.ofNat 5 (fld w 15 5)) (BitVec.ofNat 5 (fld w 10 5)))
  | 15 => .ok (.remu (BitVec.ofNat 5 (fld w 20 5)) (BitVec.ofNat 5 (fld w 15 5)) (BitVec.ofNat 5 (fld w 10 5)))
  | 16 => .ok (.min (BitVec.ofNat 5 (fld w 20 5)) (BitVec.ofNat 5 (fld w 15 5)) (BitVec.ofNat 5 (fld w 10 5)))
  | 17 => .ok (.max (BitVec.ofNat 5 (fld w 20 5)) (BitVec.ofNat 5 (fld w 15 5)) (BitVec.ofNat 5 (fld w 10 5)))
  | 18 => .ok (.minu (BitVec.ofNat 5 (fld w 20 5)) (BitVec.ofNat 5 (fld w 15 5)) (BitVec.ofNat 5 (fld w 10 5)))
  | 19 => .ok (.maxu (BitVec.ofNat 5 (fld w 20 5)) (BitVec.ofNat 5 (fld w 15 5)) (BitVec.ofNat 5 (fld w 10 5)))
  | 20 => .ok (.seq (BitVec.ofNat 5 (fld w 20 5)) (BitVec.ofNat 5 (fld w 15 5)) (BitVec.ofNat 5 (fld w 10 5)))
  | 21 => .ok (.sne (BitVec.ofNat 5 (fld w 20 5)) (BitVec.ofNat 5 (fld w 15 5)) (BitVec.ofNat 5 (fld w 10 5)))
  | 22 => .ok (.slt (BitVec.ofNat 5 (fld w 20 5)) (BitVec.ofNat 5 (fld w 15 5)) (BitVec.ofNat 5 (fld w 10 5)))
  | 23 => .ok (.sltu (BitVec.ofNat 5 (fld w 20 5)) (BitVec.ofNat 5 (fld w 15 5)) (BitVec.ofNat 5 (fld w 10 5)))
  | 24 => needZero (fld w 10 5) (.ok (.clz (BitVec.ofNat 5 (fld w 20 5)) (BitVec.ofNat 5 (fld w 15 5))))
  | 25 => needZero (fld w 10 5) (.ok (.ctz (BitVec.ofNat 5 (fld w 20 5)) (BitVec.ofNat 5 (fld w 15 5))))
  | 26 => needZero (fld w 10 5) (.ok (.popc (BitVec.ofNat 5 (fld w 20 5)) (BitVec.ofNat 5 (fld w 15 5))))
  | 27 => needZero (fld w 10 5) (.ok (.brev (BitVec.ofNat 5 (fld w 20 5)) (BitVec.ofNat 5 (fld w 15 5))))
  | 28 => needZero (fld w 10 5) (.ok (.bswap (BitVec.ofNat 5 (fld w 20 5)) (BitVec.ofNat 5 (fld w 15 5))))
  | 29 => .ok (.sext (BitVec.ofNat 5 (fld w 20 5)) (BitVec.ofNat 5 (fld w 15 5)) (BitVec.ofNat 5 (fld w 10 5)))
  | 30 => .ok (.zext (BitVec.ofNat 5 (fld w 20 5)) (BitVec.ofNat 5 (fld w 15 5)) (BitVec.ofNat 5 (fld w 10 5)))
  | 31 => .ok (.cmov (BitVec.ofNat 5 (fld w 20 5)) (BitVec.ofNat 5 (fld w 15 5)) (BitVec.ofNat 5 (fld w 10 5)))
  | _ => .bad .function

/-- Majors 0x02–0x05 (R175). -/
def decImm (op : SReg → SReg → BitVec 15 → Instr) (w : Nat) : Decoded :=
  .ok (op (BitVec.ofNat 5 (fld w 20 5)) (BitVec.ofNat 5 (fld w 15 5)) (BitVec.ofNat 15 (fld w 0 15)))

/-- Major 0x06 (R176): [12:6] zero. -/
def decShiftImm (w : Nat) : Decoded :=
  match fld w 13 2 with
  | 0 => needZero (fld w 6 7) (.ok (.shli (BitVec.ofNat 5 (fld w 20 5)) (BitVec.ofNat 5 (fld w 15 5)) (BitVec.ofNat 6 (fld w 0 6))))
  | 1 => needZero (fld w 6 7) (.ok (.shri (BitVec.ofNat 5 (fld w 20 5)) (BitVec.ofNat 5 (fld w 15 5)) (BitVec.ofNat 6 (fld w 0 6))))
  | 2 => needZero (fld w 6 7) (.ok (.sari (BitVec.ofNat 5 (fld w 20 5)) (BitVec.ofNat 5 (fld w 15 5)) (BitVec.ofNat 6 (fld w 0 6))))
  | _ => .bad .function

/-- Major 0x07 (R176). -/
def decSetImm (w : Nat) : Decoded :=
  match fld w 14 1 with
  | 0 => .ok (.slti (BitVec.ofNat 5 (fld w 20 5)) (BitVec.ofNat 5 (fld w 15 5)) (BitVec.ofNat 14 (fld w 0 14)))
  | 1 => .ok (.sltiu (BitVec.ofNat 5 (fld w 20 5)) (BitVec.ofNat 5 (fld w 15 5)) (BitVec.ofNat 14 (fld w 0 14)))
  | _ => .bad .function

/-- Major 0x08 with L = 0 (R176): `MOVI` only; a [15] = 1 is `MOVHI`, which needs L = 1. -/
def decMov (w : Nat) : Decoded :=
  needZero (fld w 16 4) <|
    if fld w 15 1 = 0 then .ok (.movi (BitVec.ofNat 5 (fld w 20 5)) (BitVec.ofNat 15 (fld w 0 15))) else .bad .shortMovhi

/-- Major 0x09 with L = 0 (R176). -/
def decAdrpc (w : Nat) : Decoded :=
  needZero (fld w 15 5) <| needLow3 (fld w 20 5) fun d => .ok (.adrpc d (BitVec.ofNat 15 (fld w 0 15)))

/-- Major 0x0B with L = 0 (R176). -/
def decAddai (w : Nat) : Decoded :=
  needLow3 (fld w 20 5) fun d => needLow3 (fld w 15 5) fun a => .ok (.addai d a (BitVec.ofNat 15 (fld w 0 15)))

/-- Major 0x0A (R177). -/
def decAddress (w : Nat) : Decoded :=
  match fld w 0 10 with
  | 0 => needLow3 (fld w 20 5) fun d => needLow3 (fld w 15 5) fun a => .ok (.adda d a (BitVec.ofNat 5 (fld w 10 5)))
  | 1 => needLow3 (fld w 20 5) fun d => needLow3 (fld w 15 5) fun a => .ok (.suba d a (BitVec.ofNat 5 (fld w 10 5)))
  | 2 => needZero (fld w 10 5) <| needLow3 (fld w 20 5) fun d => .ok (.movas d (BitVec.ofNat 5 (fld w 15 5)))
  | 3 => needZero (fld w 10 5) <| needLow3 (fld w 15 5) fun a => .ok (.movsa (BitVec.ofNat 5 (fld w 20 5)) a)
  | 4 => needZero (fld w 10 5) <| needLow3 (fld w 20 5) fun d => .ok (.movah d (BitVec.ofNat 5 (fld w 15 5)))
  | 5 => needZero (fld w 10 5) <| needLow3 (fld w 15 5) fun a => .ok (.movha (BitVec.ofNat 5 (fld w 20 5)) a)
  | 6 => needLow3 (fld w 20 5) fun d => needLow3 (fld w 15 5) fun a => .ok (.aidx d a (BitVec.ofNat 5 (fld w 10 5)))
  | 7 => needLow3 (fld w 15 5) fun a => needLow3 (fld w 10 5) fun b => .ok (.slta (BitVec.ofNat 5 (fld w 20 5)) a b)
  | _ => .bad .function

/-- Majors 0x0C–0x11 (R173 format B). -/
def decBranch (op : SReg → SReg → BitVec 15 → Instr) (w : Nat) : Decoded :=
  .ok (op (BitVec.ofNat 5 (fld w 20 5)) (BitVec.ofNat 5 (fld w 15 5)) (BitVec.ofNat 15 (fld w 0 15)))

/-- Major 0x14 (R177). -/
def decJump (w : Nat) : Decoded :=
  match fld w 0 10 with
  | 0 => needZero (fld w 20 5 + fld w 10 5) <| needLow3 (fld w 15 5) fun a => .ok (.jr a)
  | 1 => needZero (fld w 20 5 + fld w 10 5) <| needLow3 (fld w 15 5) fun a => .ok (.callr a)
  | 2 => needZero (fld w 10 15) (.ok .ret)
  | _ => .bad .function

/-- Major 0x15 (R176). -/
def decLoop (w : Nat) : Decoded :=
  match fld w 23 2 with
  | 0 => needZero (fld w 12 6) (.ok (.loop (BitVec.ofNat 5 (fld w 18 5)) (BitVec.ofNat 12 (fld w 0 12))))
  | 1 => .ok (.loopi (BitVec.ofNat 11 (fld w 12 11)) (BitVec.ofNat 12 (fld w 0 12)))
  | _ => .bad .function

/-- Major 0x16 (R176). -/
def decRealign (w : Nat) : Decoded := needZero (fld w 15 10) (.ok (.realign (BitVec.ofNat 15 (fld w 0 15))))

/-- Major 0x17 (R178). -/
def decLd (w : Nat) : Decoded :=
  match LdKind.ofCode (fld w 14 3) with
  | some k => needM (fld w 12 2) fun o => .ok (.ld k o (BitVec.ofNat 5 (fld w 20 5)) (BitVec.ofNat 3 (fld w 17 3)) (BitVec.ofNat 12 (fld w 0 12)))
  | none => .bad .function

/-- Major 0x18 (R178). -/
def decSt (w : Nat) : Decoded :=
  match StKind.ofCode (fld w 14 3) with
  | some k => needM (fld w 12 2) fun o => .ok (.st k o (BitVec.ofNat 5 (fld w 20 5)) (BitVec.ofNat 3 (fld w 17 3)) (BitVec.ofNat 12 (fld w 0 12)))
  | none => .bad .function

/-- Majors 0x19 and 0x1A (R178). -/
def decVecMem (op : VKind → MOrder → VReg → AReg → BitVec 12 → Instr) (w : Nat) : Decoded :=
  match VKind.ofCode (fld w 14 3) with
  | some k => needM (fld w 12 2) fun o => .ok (op k o (BitVec.ofNat 5 (fld w 20 5)) (BitVec.ofNat 3 (fld w 17 3)) (BitVec.ofNat 12 (fld w 0 12)))
  | none => .bad .function

/-- Major 0x1B (R178): `PREF` needs order 0b00 and hint 0 or 1. -/
def decPull (w : Nat) : Decoded :=
  match fld w 14 3 with
  | 4 => needM (fld w 12 2) fun o => .ok (.pullv o (BitVec.ofNat 5 (fld w 20 5)) (BitVec.ofNat 3 (fld w 17 3)) (BitVec.ofNat 12 (fld w 0 12)))
  | 5 =>
    if fld w 12 2 = 0 then
      (if fld w 20 5 < 2 then .ok (.pref (BitVec.ofNat 5 (fld w 20 5)) (BitVec.ofNat 3 (fld w 17 3)) (BitVec.ofNat 12 (fld w 0 12))) else .bad .selector)
    else .bad .order
  | k =>
    match StKind.ofCode k with
    | some k => needM (fld w 12 2) fun o => .ok (.pull k o (BitVec.ofNat 5 (fld w 20 5)) (BitVec.ofNat 3 (fld w 17 3)) (BitVec.ofNat 12 (fld w 0 12)))
    | none => .bad .function

/-- Major 0x1C (R179, 10 R216). -/
def decAtomic (w : Nat) : Decoded :=
  needZero (fld w 7 3) <| needLow3 (fld w 15 5) fun a =>
    let sz := fld w 4 1 == 1
    let o := AOrder.ofCode (fld w 5 2)
    match fld w 0 4 with
    | 0 => .ok (.amoadd sz o (BitVec.ofNat 5 (fld w 20 5)) a (BitVec.ofNat 5 (fld w 10 5)))
    | 1 => .ok (.amoand sz o (BitVec.ofNat 5 (fld w 20 5)) a (BitVec.ofNat 5 (fld w 10 5)))
    | 2 => .ok (.amoor sz o (BitVec.ofNat 5 (fld w 20 5)) a (BitVec.ofNat 5 (fld w 10 5)))
    | 3 => .ok (.amoxor sz o (BitVec.ofNat 5 (fld w 20 5)) a (BitVec.ofNat 5 (fld w 10 5)))
    | 4 => .ok (.amomin sz o (BitVec.ofNat 5 (fld w 20 5)) a (BitVec.ofNat 5 (fld w 10 5)))
    | 5 => .ok (.amomax sz o (BitVec.ofNat 5 (fld w 20 5)) a (BitVec.ofNat 5 (fld w 10 5)))
    | 6 => .ok (.amominu sz o (BitVec.ofNat 5 (fld w 20 5)) a (BitVec.ofNat 5 (fld w 10 5)))
    | 7 => .ok (.amomaxu sz o (BitVec.ofNat 5 (fld w 20 5)) a (BitVec.ofNat 5 (fld w 10 5)))
    | 8 => .ok (.amoswap sz o (BitVec.ofNat 5 (fld w 20 5)) a (BitVec.ofNat 5 (fld w 10 5)))
    | 9 => .ok (.amocas sz o (BitVec.ofNat 5 (fld w 20 5)) a (BitVec.ofNat 5 (fld w 10 5)))
    | _ => .bad .function

/-- Major 0x1D (R179). -/
def decFence (w : Nat) : Decoded :=
  needZero (fld w 5 3) <|
    match fld w 8 2 with
    | 0 => needZero (fld w 10 15) <| needScope (fld w 2 3) fun sc => .ok (.fence (FenceKind.ofCode (fld w 0 2)) sc)
    | 1 => needLow3 (fld w 15 5) fun a => needScope (fld w 2 3) fun sc =>
      match fld w 0 2 with
      | 0 => .ok (.seqadvMax sc (BitVec.ofNat 5 (fld w 20 5)) a (BitVec.ofNat 5 (fld w 10 5)))
      | 1 => .ok (.seqadvAdd sc (BitVec.ofNat 5 (fld w 20 5)) a (BitVec.ofNat 5 (fld w 10 5)))
      | _ => .bad .function
    | _ => .bad .function

/-- Major 0x1E (R179, 10 R219–R223). -/
def decWait (w : Nat) : Decoded :=
  match fld w 6 4 with
  | 0 => needZero (fld w 20 5) <| needLow3 (fld w 15 5) fun a => needScope (fld w 0 3) fun sc =>
      .ok (.watch sc (BitVec.ofNat 3 (fld w 3 3)) a (BitVec.ofNat 5 (fld w 10 5)))
  | 1 => needZero (fld w 10 10 + fld w 0 3) (.ok (.waitw (BitVec.ofNat 5 (fld w 20 5)) (BitVec.ofNat 3 (fld w 3 3))))
  | 2 => needZero (fld w 2 4) <| needLow3 (fld w 15 5) fun a =>
      .ok (.waita (fld w 0 1 == 1) (fld w 1 1 == 1) (BitVec.ofNat 5 (fld w 20 5)) a (BitVec.ofNat 5 (fld w 10 5)))
  | 3 => needZero (fld w 0 1) (.ok (.waitc (BitVec.ofNat 5 (fld w 20 5)) (BitVec.ofNat 5 (fld w 15 5)) (BitVec.ofNat 5 (fld w 10 5)) (BitVec.ofNat 5 (fld w 1 5))))
  | 4 => needZero (fld w 0 6) <| needLow3 (fld w 15 5) fun a => .ok (.barinit (BitVec.ofNat 5 (fld w 20 5)) a (BitVec.ofNat 5 (fld w 10 5)))
  | 5 => needZero (fld w 0 6 + fld w 20 5) <| needLow3 (fld w 15 5) fun a => .ok (.barwait a (BitVec.ofNat 5 (fld w 10 5)))
  | 6 => needZero (fld w 0 6 + fld w 20 5) <| needLow3 (fld w 15 5) fun a => .ok (.baradd a (BitVec.ofNat 5 (fld w 10 5)))
  | _ => .bad .function

/-- Major 0x1F (R179, 10 R225–R228). -/
def decKey (w : Nat) : Decoded :=
  match fld w 0 10 with
  | 0 => needZero (fld w 20 5) <| needLow3 (fld w 15 5) fun a => .ok (.keygive a (BitVec.ofNat 5 (fld w 10 5)))
  | 1 => needZero (fld w 10 5) <| needLow3 (fld w 15 5) fun a => .ok (.keytake (BitVec.ofNat 5 (fld w 20 5)) a)
  | 2 => needZero (fld w 10 5) <| needLow3 (fld w 15 5) fun a => .ok (.keyqry (BitVec.ofNat 5 (fld w 20 5)) a)
  | 3 => needZero (fld w 10 5) <| needLow3 (fld w 15 5) fun a => .ok (.stashcfg (BitVec.ofNat 5 (fld w 20 5)) a)
  | _ => .bad .function

/-- Major 0x20 (R180). -/
def decV20 (w : Nat) : Decoded :=
  match fld w 3 4 with
  | 0 => needFloat (fld w 0 3) fun t => .ok (.vfadd t (BitVec.ofNat 5 (fld w 20 5)) (BitVec.ofNat 5 (fld w 15 5)) (BitVec.ofNat 5 (fld w 10 5)) (BitVec.ofNat 3 (fld w 7 3)))
  | 1 => needFloat (fld w 0 3) fun t => .ok (.vfsub t (BitVec.ofNat 5 (fld w 20 5)) (BitVec.ofNat 5 (fld w 15 5)) (BitVec.ofNat 5 (fld w 10 5)) (BitVec.ofNat 3 (fld w 7 3)))
  | 2 => needFloat (fld w 0 3) fun t => .ok (.vfmul t (BitVec.ofNat 5 (fld w 20 5)) (BitVec.ofNat 5 (fld w 15 5)) (BitVec.ofNat 5 (fld w 10 5)) (BitVec.ofNat 3 (fld w 7 3)))
  | 3 => needFloat (fld w 0 3) fun t => .ok (.vfma t (BitVec.ofNat 5 (fld w 20 5)) (BitVec.ofNat 5 (fld w 15 5)) (BitVec.ofNat 5 (fld w 10 5)) (BitVec.ofNat 3 (fld w 7 3)))
  | 4 => needFloat (fld w 0 3) fun t => .ok (.vfms t (BitVec.ofNat 5 (fld w 20 5)) (BitVec.ofNat 5 (fld w 15 5)) (BitVec.ofNat 5 (fld w 10 5)) (BitVec.ofNat 3 (fld w 7 3)))
  | 5 => needFloat (fld w 0 3) fun t => .ok (.vfnma t (BitVec.ofNat 5 (fld w 20 5)) (BitVec.ofNat 5 (fld w 15 5)) (BitVec.ofNat 5 (fld w 10 5)) (BitVec.ofNat 3 (fld w 7 3)))
  | 6 => needFloat (fld w 0 3) fun t => .ok (.vfdiv t (BitVec.ofNat 5 (fld w 20 5)) (BitVec.ofNat 5 (fld w 15 5)) (BitVec.ofNat 5 (fld w 10 5)) (BitVec.ofNat 3 (fld w 7 3)))
  | 7 => needFloat (fld w 0 3) fun t => .ok (.vfmin t (BitVec.ofNat 5 (fld w 20 5)) (BitVec.ofNat 5 (fld w 15 5)) (BitVec.ofNat 5 (fld w 10 5)) (BitVec.ofNat 3 (fld w 7 3)))
  | 8 => needFloat (fld w 0 3) fun t => .ok (.vfmax t (BitVec.ofNat 5 (fld w 20 5)) (BitVec.ofNat 5 (fld w 15 5)) (BitVec.ofNat 5 (fld w 10 5)) (BitVec.ofNat 3 (fld w 7 3)))
  | _ => .bad .function

/-- Major 0x21 (R180). -/
def decV21 (w : Nat) : Decoded :=
  match fld w 3 4 with
  | 0 => needZero (fld w 10 5) <| needFloat (fld w 0 3) fun t => .ok (.vfsqrt t (BitVec.ofNat 5 (fld w 20 5)) (BitVec.ofNat 5 (fld w 15 5)) (BitVec.ofNat 3 (fld w 7 3)))
  | 1 => needZero (fld w 10 5) <| needFloat (fld w 0 3) fun t => .ok (.vfrcp t (BitVec.ofNat 5 (fld w 20 5)) (BitVec.ofNat 5 (fld w 15 5)) (BitVec.ofNat 3 (fld w 7 3)))
  | 2 => needZero (fld w 10 5) <| needFloat (fld w 0 3) fun t => .ok (.vfrsq t (BitVec.ofNat 5 (fld w 20 5)) (BitVec.ofNat 5 (fld w 15 5)) (BitVec.ofNat 3 (fld w 7 3)))
  | 3 => needZero (fld w 10 5) <| needFloat (fld w 0 3) fun t => .ok (.vfabs t (BitVec.ofNat 5 (fld w 20 5)) (BitVec.ofNat 5 (fld w 15 5)) (BitVec.ofNat 3 (fld w 7 3)))
  | 4 => needZero (fld w 10 5) <| needFloat (fld w 0 3) fun t => .ok (.vfneg t (BitVec.ofNat 5 (fld w 20 5)) (BitVec.ofNat 5 (fld w 15 5)) (BitVec.ofNat 3 (fld w 7 3)))
  | 5 => needZero (fld w 10 5) <| needFloat (fld w 0 3) fun t => .ok (.vfexp2 t (BitVec.ofNat 5 (fld w 20 5)) (BitVec.ofNat 5 (fld w 15 5)) (BitVec.ofNat 3 (fld w 7 3)))
  | 6 => needZero (fld w 10 5) <| needFloat (fld w 0 3) fun t => .ok (.vflog2 t (BitVec.ofNat 5 (fld w 20 5)) (BitVec.ofNat 5 (fld w 15 5)) (BitVec.ofNat 3 (fld w 7 3)))
  | 7 => needZero (fld w 10 5) <| needFloat (fld w 0 3) fun t => .ok (.vftanh t (BitVec.ofNat 5 (fld w 20 5)) (BitVec.ofNat 5 (fld w 15 5)) (BitVec.ofNat 3 (fld w 7 3)))
  | 8 => needZero (fld w 10 5) <| needFloat (fld w 0 3) fun t => .ok (.vfclass t (BitVec.ofNat 5 (fld w 20 5)) (BitVec.ofNat 5 (fld w 15 5)) (BitVec.ofNat 3 (fld w 7 3)))
  | _ => .bad .function

/-- Major 0x22 (R180). -/
def decV22 (w : Nat) : Decoded :=
  match fld w 3 4 with
  | 0 => needInt (fld w 0 3) fun t => .ok (.vadd t (BitVec.ofNat 5 (fld w 20 5)) (BitVec.ofNat 5 (fld w 15 5)) (BitVec.ofNat 5 (fld w 10 5)) (BitVec.ofNat 3 (fld w 7 3)))
  | 1 => needInt (fld w 0 3) fun t => .ok (.vsub t (BitVec.ofNat 5 (fld w 20 5)) (BitVec.ofNat 5 (fld w 15 5)) (BitVec.ofNat 5 (fld w 10 5)) (BitVec.ofNat 3 (fld w 7 3)))
  | 2 => needInt (fld w 0 3) fun t => .ok (.vmul t (BitVec.ofNat 5 (fld w 20 5)) (BitVec.ofNat 5 (fld w 15 5)) (BitVec.ofNat 5 (fld w 10 5)) (BitVec.ofNat 3 (fld w 7 3)))
  | 3 => needInt (fld w 0 3) fun t => .ok (.vmulh t (BitVec.ofNat 5 (fld w 20 5)) (BitVec.ofNat 5 (fld w 15 5)) (BitVec.ofNat 5 (fld w 10 5)) (BitVec.ofNat 3 (fld w 7 3)))
  | 4 => needInt (fld w 0 3) fun t => .ok (.vmin t (BitVec.ofNat 5 (fld w 20 5)) (BitVec.ofNat 5 (fld w 15 5)) (BitVec.ofNat 5 (fld w 10 5)) (BitVec.ofNat 3 (fld w 7 3)))
  | 5 => needInt (fld w 0 3) fun t => .ok (.vmax t (BitVec.ofNat 5 (fld w 20 5)) (BitVec.ofNat 5 (fld w 15 5)) (BitVec.ofNat 5 (fld w 10 5)) (BitVec.ofNat 3 (fld w 7 3)))
  | 6 => needZero (fld w 10 5) <| needInt (fld w 0 3) fun t => .ok (.vabs t (BitVec.ofNat 5 (fld w 20 5)) (BitVec.ofNat 5 (fld w 15 5)) (BitVec.ofNat 3 (fld w 7 3)))
  | 7 => needInt (fld w 0 3) fun t => .ok (.vsadd t (BitVec.ofNat 5 (fld w 20 5)) (BitVec.ofNat 5 (fld w 15 5)) (BitVec.ofNat 5 (fld w 10 5)) (BitVec.ofNat 3 (fld w 7 3)))
  | 8 => needInt (fld w 0 3) fun t => .ok (.vssub t (BitVec.ofNat 5 (fld w 20 5)) (BitVec.ofNat 5 (fld w 15 5)) (BitVec.ofNat 5 (fld w 10 5)) (BitVec.ofNat 3 (fld w 7 3)))
  | _ => .bad .function

/-- Major 0x23 (R180). -/
def decV23 (w : Nat) : Decoded :=
  match fld w 3 4 with
  | 0 => needInt (fld w 0 3) fun t => .ok (.vand t (BitVec.ofNat 5 (fld w 20 5)) (BitVec.ofNat 5 (fld w 15 5)) (BitVec.ofNat 5 (fld w 10 5)) (BitVec.ofNat 3 (fld w 7 3)))
  | 1 => needInt (fld w 0 3) fun t => .ok (.vor t (BitVec.ofNat 5 (fld w 20 5)) (BitVec.ofNat 5 (fld w 15 5)) (BitVec.ofNat 5 (fld w 10 5)) (BitVec.ofNat 3 (fld w 7 3)))
  | 2 => needInt (fld w 0 3) fun t => .ok (.vxor t (BitVec.ofNat 5 (fld w 20 5)) (BitVec.ofNat 5 (fld w 15 5)) (BitVec.ofNat 5 (fld w 10 5)) (BitVec.ofNat 3 (fld w 7 3)))
  | 3 => needZero (fld w 10 5) <| needInt (fld w 0 3) fun t => .ok (.vnot t (BitVec.ofNat 5 (fld w 20 5)) (BitVec.ofNat 5 (fld w 15 5)) (BitVec.ofNat 3 (fld w 7 3)))
  | 4 => needInt (fld w 0 3) fun t => .ok (.vshl t (BitVec.ofNat 5 (fld w 20 5)) (BitVec.ofNat 5 (fld w 15 5)) (BitVec.ofNat 5 (fld w 10 5)) (BitVec.ofNat 3 (fld w 7 3)))
  | 5 => needInt (fld w 0 3) fun t => .ok (.vshr t (BitVec.ofNat 5 (fld w 20 5)) (BitVec.ofNat 5 (fld w 15 5)) (BitVec.ofNat 5 (fld w 10 5)) (BitVec.ofNat 3 (fld w 7 3)))
  | 6 => needInt (fld w 0 3) fun t => .ok (.vsar t (BitVec.ofNat 5 (fld w 20 5)) (BitVec.ofNat 5 (fld w 15 5)) (BitVec.ofNat 5 (fld w 10 5)) (BitVec.ofNat 3 (fld w 7 3)))
  | _ => .bad .function

/-- Major 0x24 (R180): `VSEL` with mask field 0 is illegal, and the mask operations need T = 0. -/
def decV24 (w : Nat) : Decoded :=
  match fld w 3 4 with
  | 0 => needLow3 (fld w 20 5) fun d => needFloat (fld w 0 3) fun t => .ok (.vfcmpEq t d (BitVec.ofNat 5 (fld w 15 5)) (BitVec.ofNat 5 (fld w 10 5)) (BitVec.ofNat 3 (fld w 7 3)))
  | 1 => needLow3 (fld w 20 5) fun d => needFloat (fld w 0 3) fun t => .ok (.vfcmpLt t d (BitVec.ofNat 5 (fld w 15 5)) (BitVec.ofNat 5 (fld w 10 5)) (BitVec.ofNat 3 (fld w 7 3)))
  | 2 => needLow3 (fld w 20 5) fun d => needFloat (fld w 0 3) fun t => .ok (.vfcmpLe t d (BitVec.ofNat 5 (fld w 15 5)) (BitVec.ofNat 5 (fld w 10 5)) (BitVec.ofNat 3 (fld w 7 3)))
  | 3 => needLow3 (fld w 20 5) fun d => needFloat (fld w 0 3) fun t => .ok (.vfcmpUn t d (BitVec.ofNat 5 (fld w 15 5)) (BitVec.ofNat 5 (fld w 10 5)) (BitVec.ofNat 3 (fld w 7 3)))
  | 4 => needLow3 (fld w 20 5) fun d => needInt (fld w 0 3) fun t => .ok (.vcmpEq t d (BitVec.ofNat 5 (fld w 15 5)) (BitVec.ofNat 5 (fld w 10 5)) (BitVec.ofNat 3 (fld w 7 3)))
  | 5 => needLow3 (fld w 20 5) fun d => needInt (fld w 0 3) fun t => .ok (.vcmpLt t d (BitVec.ofNat 5 (fld w 15 5)) (BitVec.ofNat 5 (fld w 10 5)) (BitVec.ofNat 3 (fld w 7 3)))
  | 6 => needLow3 (fld w 20 5) fun d => needInt (fld w 0 3) fun t => .ok (.vcmpLe t d (BitVec.ofNat 5 (fld w 15 5)) (BitVec.ofNat 5 (fld w 10 5)) (BitVec.ofNat 3 (fld w 7 3)))
  | 7 => needLow3 (fld w 20 5) fun d => needInt (fld w 0 3) fun t => .ok (.vcmpLtu t d (BitVec.ofNat 5 (fld w 15 5)) (BitVec.ofNat 5 (fld w 10 5)) (BitVec.ofNat 3 (fld w 7 3)))
  | 8 => needLow3 (fld w 20 5) fun d => needInt (fld w 0 3) fun t => .ok (.vcmpLeu t d (BitVec.ofNat 5 (fld w 15 5)) (BitVec.ofNat 5 (fld w 10 5)) (BitVec.ofNat 3 (fld w 7 3)))
  | 9 => if fld w 7 3 = 0 then .bad .selector else needAny (fld w 0 3) fun t => .ok (.vsel t (BitVec.ofNat 5 (fld w 20 5)) (BitVec.ofNat 5 (fld w 15 5)) (BitVec.ofNat 5 (fld w 10 5)) (BitVec.ofNat 3 (fld w 7 3)))
  | 10 => needZero (fld w 0 3 + fld w 7 3) <| needLow3 (fld w 20 5) fun d => needLow3 (fld w 15 5) fun a => needLow3 (fld w 10 5) fun b => .ok (.mand d a b)
  | 11 => needZero (fld w 0 3 + fld w 7 3) <| needLow3 (fld w 20 5) fun d => needLow3 (fld w 15 5) fun a => needLow3 (fld w 10 5) fun b => .ok (.mor d a b)
  | 12 => needZero (fld w 0 3 + fld w 7 6) <| needZero (fld w 13 2) <| needLow3 (fld w 20 5) fun d => needLow3 (fld w 15 5) fun a => .ok (.mnot d a)
  | 13 => needZero (fld w 0 3 + fld w 7 6) <| needZero (fld w 13 2) <| needLow3 (fld w 15 5) fun a => .ok (.mpopc (BitVec.ofNat 5 (fld w 20 5)) a)
  | _ => .bad .function

/-- Major 0x25 (R180, 11 R240). -/
def decV25 (w : Nat) : Decoded :=
  match fld w 3 4 with
  | 0 => needZero (fld w 10 5) <| needAny (fld w 0 3) fun t => .ok (.vbcast t (BitVec.ofNat 5 (fld w 20 5)) (BitVec.ofNat 5 (fld w 15 5)) (BitVec.ofNat 3 (fld w 7 3)))
  | 1 => needZero (fld w 7 3) <| needAny (fld w 0 3) fun t => .ok (.vmovs t (BitVec.ofNat 5 (fld w 20 5)) (BitVec.ofNat 5 (fld w 15 5)) (BitVec.ofNat 5 (fld w 10 5)))
  | 2 => needZero (fld w 7 3) <| needAny (fld w 0 3) fun t => .ok (.vins t (BitVec.ofNat 5 (fld w 20 5)) (BitVec.ofNat 5 (fld w 15 5)) (BitVec.ofNat 5 (fld w 10 5)))
  | 3 => needAny (fld w 0 3) fun t => .ok (.vperm t (BitVec.ofNat 5 (fld w 20 5)) (BitVec.ofNat 5 (fld w 15 5)) (BitVec.ofNat 5 (fld w 10 5)) (BitVec.ofNat 3 (fld w 7 3)))
  | 4 => needAny (fld w 0 3) fun t => .ok (.vslide t (BitVec.ofNat 5 (fld w 20 5)) (BitVec.ofNat 5 (fld w 15 5)) (BitVec.ofNat 5 (fld w 10 5)) (BitVec.ofNat 3 (fld w 7 3)))
  | 5 => needZero (fld w 10 10) <| needAny (fld w 0 3) fun t => .ok (.viota t (BitVec.ofNat 5 (fld w 20 5)) (BitVec.ofNat 3 (fld w 7 3)))
  | _ => .bad .function

/-- Major 0x26 (R180): [12:10] is the source type of a conversion, whose permitted pairs are those of 11 R243. -/
def decV26 (w : Nat) : Decoded :=
  match fld w 3 4 with
  | 0 => needZero (fld w 10 5) <| needAny (fld w 0 3) fun t => .ok (.vredadd t (BitVec.ofNat 5 (fld w 20 5)) (BitVec.ofNat 5 (fld w 15 5)) (BitVec.ofNat 3 (fld w 7 3)))
  | 1 => needZero (fld w 10 5) <| needAny (fld w 0 3) fun t => .ok (.vredmax t (BitVec.ofNat 5 (fld w 20 5)) (BitVec.ofNat 5 (fld w 15 5)) (BitVec.ofNat 3 (fld w 7 3)))
  | 2 => needZero (fld w 10 5) <| needAny (fld w 0 3) fun t => .ok (.vredmin t (BitVec.ofNat 5 (fld w 20 5)) (BitVec.ofNat 5 (fld w 15 5)) (BitVec.ofNat 3 (fld w 7 3)))
  | 3 => needZero (fld w 10 5) <| needAny (fld w 0 3) fun t => .ok (.vredmaxi t (BitVec.ofNat 5 (fld w 20 5)) (BitVec.ofNat 5 (fld w 15 5)) (BitVec.ofNat 3 (fld w 7 3)))
  | 4 => needZero (fld w 10 5) <| needAny (fld w 0 3) fun t => .ok (.vredmini t (BitVec.ofNat 5 (fld w 20 5)) (BitVec.ofNat 5 (fld w 15 5)) (BitVec.ofNat 3 (fld w 7 3)))
  | 5 => needZero (fld w 13 2) <| needAny (fld w 0 3) fun t => needAny (fld w 10 3) fun src =>
      if t.converts src then .ok (.vcvt t src (BitVec.ofNat 5 (fld w 20 5)) (BitVec.ofNat 5 (fld w 15 5)) (BitVec.ofNat 3 (fld w 7 3))) else .bad .selector
  | 6 => needZero (fld w 13 2) <| needAny (fld w 0 3) fun t => needAny (fld w 10 3) fun src =>
      if t.packs src then .ok (.vpack t src (BitVec.ofNat 5 (fld w 20 5)) (BitVec.ofNat 5 (fld w 15 5)) (BitVec.ofNat 3 (fld w 7 3))) else .bad .selector
  | 7 => needZero (fld w 13 2) <| needAny (fld w 0 3) fun t => needAny (fld w 10 3) fun src =>
      if t.unpacks src then .ok (.vunpack t src (BitVec.ofNat 5 (fld w 20 5)) (BitVec.ofNat 5 (fld w 15 5)) (BitVec.ofNat 3 (fld w 7 3))) else .bad .selector
  | _ => .bad .function

/-- Major 0x27 (R180): va names the base address register. -/
def decV27 (w : Nat) : Decoded :=
  match fld w 3 4 with
  | 0 => needLow3 (fld w 15 5) fun a => needAny (fld w 0 3) fun t => .ok (.vgather t (BitVec.ofNat 5 (fld w 20 5)) a (BitVec.ofNat 5 (fld w 10 5)) (BitVec.ofNat 3 (fld w 7 3)))
  | 1 => needLow3 (fld w 15 5) fun a => needAny (fld w 0 3) fun t => .ok (.vscatter t (BitVec.ofNat 5 (fld w 20 5)) a (BitVec.ofNat 5 (fld w 10 5)) (BitVec.ofNat 3 (fld w 7 3)))
  | _ => .bad .function

/-- Major 0x28 (R181). -/
def decMma (w : Nat) : Decoded :=
  needZero (fld w 0 3) (.ok (.mma (BitVec.ofNat 4 (fld w 11 4)) (BitVec.ofNat 4 (fld w 7 4)) (BitVec.ofNat 4 (fld w 3 4)) (BitVec.ofNat 5 (fld w 20 5)) (BitVec.ofNat 5 (fld w 15 5))))

/-- Major 0x29 (R181, 12 R256). -/
def decMatrix (w : Nat) : Decoded :=
  match fld w 12 3 with
  | 0 => needZero (fld w 0 8 + fld w 15 10) (.ok (.mzero (BitVec.ofNat 4 (fld w 8 4))))
  | 1 => needZero (fld w 0 4) (.ok (.mdrain (BitVec.ofNat 5 (fld w 20 5)) (BitVec.ofNat 4 (fld w 8 4)) (BitVec.ofNat 4 (fld w 4 4)) (BitVec.ofNat 5 (fld w 15 5))))
  | 2 => needZero (fld w 0 4 + fld w 20 5) (.ok (.mload (BitVec.ofNat 4 (fld w 8 4)) (BitVec.ofNat 4 (fld w 4 4)) (BitVec.ofNat 5 (fld w 15 5))))
  | _ => .bad .function

/-- Major 0x2A (R181). -/
def decSem (w : Nat) : Decoded :=
  match fld w 12 3 with
  | 0 => needZero (fld w 3 9 + fld w 15 10) (.ok (.semsig (BitVec.ofNat 3 (fld w 0 3))))
  | 1 => needZero (fld w 3 9 + fld w 15 10) (.ok (.semwait (BitVec.ofNat 3 (fld w 0 3))))
  | _ => .bad .function

/-- Major 0x2B (R181). -/
def decCfg (w : Nat) : Decoded :=
  match fld w 12 3 with
  | 0 => needZero (fld w 0 12 + fld w 15 5) (.ok (.mcfg (BitVec.ofNat 5 (fld w 20 5))))
  | 1 => needZero (fld w 4 8 + fld w 15 5) (.ok (.bfmt (BitVec.ofNat 4 (fld w 0 4)) (BitVec.ofNat 5 (fld w 20 5))))
  | _ => .bad .function

/-- Major 0x2C (R181). -/
def decBulk (w : Nat) : Decoded :=
  match fld w 12 3 with
  | 0 => needZero (fld w 15 5) (.ok (.bpull (BitVec.ofNat 5 (fld w 20 5)) (BitVec.ofNat 3 (fld w 9 3)) (BitVec.ofNat 3 (fld w 6 3)) (BitVec.ofNat 3 (fld w 3 3)) (BitVec.ofNat 3 (fld w 0 3))))
  | 1 => needZero (fld w 6 3) (.ok (.bpulla (BitVec.ofNat 5 (fld w 20 5)) (BitVec.ofNat 5 (fld w 15 5)) (BitVec.ofNat 3 (fld w 9 3)) (BitVec.ofNat 3 (fld w 3 3)) (BitVec.ofNat 3 (fld w 0 3))))
  | 2 => needZero (fld w 15 5) (.ok (.bcopy (BitVec.ofNat 5 (fld w 20 5)) (BitVec.ofNat 3 (fld w 9 3)) (BitVec.ofNat 3 (fld w 6 3)) (BitVec.ofNat 3 (fld w 3 3)) (BitVec.ofNat 3 (fld w 0 3))))
  | 3 => needZero (fld w 15 10 + fld w 0 9) (.ok (.ecmd (BitVec.ofNat 3 (fld w 9 3))))
  | 4 => .ok (.mdec (BitVec.ofNat 5 (fld w 20 5)) (BitVec.ofNat 5 (fld w 15 5)) (BitVec.ofNat 3 (fld w 9 3)) (BitVec.ofNat 3 (fld w 6 3)) (BitVec.ofNat 3 (fld w 3 3)) (BitVec.ofNat 3 (fld w 0 3)))
  | 5 => .ok (.lodge (BitVec.ofNat 5 (fld w 20 5)) (BitVec.ofNat 5 (fld w 15 5)) (BitVec.ofNat 3 (fld w 9 3)) (BitVec.ofNat 3 (fld w 6 3)) (BitVec.ofNat 3 (fld w 3 3)) (BitVec.ofNat 3 (fld w 0 3)))
  | _ => .bad .function

/-- Major 0x2D (R182, 12 R268, R269). -/
def decMsg (w : Nat) : Decoded :=
  match fld w 0 10 with
  | 0 => needZero (fld w 15 5) (.ok (.msend (BitVec.ofNat 5 (fld w 20 5)) (BitVec.ofNat 5 (fld w 10 5))))
  | 1 => needZero (fld w 15 5) (.ok (.msendPost (BitVec.ofNat 5 (fld w 20 5)) (BitVec.ofNat 5 (fld w 10 5))))
  | 2 => needZero (fld w 10 10) (.ok (.msendRetry (BitVec.ofNat 5 (fld w 20 5))))
  | 3 => needZero (fld w 10 10) (.ok (.mrecv (BitVec.ofNat 5 (fld w 20 5))))
  | 4 => needZero (fld w 10 10) (.ok (.mrecvRep (BitVec.ofNat 5 (fld w 20 5))))
  | 5 => needZero (fld w 10 10) (.ok (.mpeek (BitVec.ofNat 5 (fld w 20 5))))
  | 6 => needZero (fld w 10 10) (.ok (.mpeekRep (BitVec.ofNat 5 (fld w 20 5))))
  | 7 => needZero (fld w 15 10) (.ok (.mreply (BitVec.ofNat 5 (fld w 10 5))))
  | 8 => needZero (fld w 10 5) (.ok (.mbind (BitVec.ofNat 5 (fld w 20 5)) (BitVec.ofNat 5 (fld w 15 5))))
  | _ => .bad .function

/-- Major 0x2E (R181). -/
def decColl (w : Nat) : Decoded :=
  if fld w 12 3 = 0 then needZero (fld w 0 9 + fld w 15 10) (.ok (.coll (BitVec.ofNat 3 (fld w 9 3)))) else .bad .function

/-- Major 0x2F (R181, 12 R270). -/
def decSketch (w : Nat) : Decoded :=
  match fld w 12 3 with
  | 0 => needZero (fld w 1 5) <|
      if fld w 0 1 = 0 then needZero (fld w 6 3) (.ok (.skinit (BitVec.ofNat 3 (fld w 9 3)) (BitVec.ofNat 5 (fld w 20 5)) (BitVec.ofNat 5 (fld w 15 5))))
      else needZero (fld w 15 5) (.ok (.skinitTab (BitVec.ofNat 3 (fld w 9 3)) (BitVec.ofNat 3 (fld w 6 3)) (BitVec.ofNat 5 (fld w 20 5))))
  | 1 => needZero (fld w 2 7) <|
      if fld w 1 1 = 0 then .ok (.skupd (fld w 0 1 == 1) (BitVec.ofNat 3 (fld w 9 3)) (BitVec.ofNat 5 (fld w 20 5)) (BitVec.ofNat 5 (fld w 15 5)))
      else .ok (.skupdV (fld w 0 1 == 1) (BitVec.ofNat 3 (fld w 9 3)) (BitVec.ofNat 5 (fld w 20 5)) (BitVec.ofNat 5 (fld w 15 5)))
  | 2 => needZero (fld w 0 9) (.ok (.skqry (BitVec.ofNat 5 (fld w 20 5)) (BitVec.ofNat 3 (fld w 9 3)) (BitVec.ofNat 5 (fld w 15 5))))
  | 3 => needZero (fld w 0 6 + fld w 15 10) (.ok (.skadd (BitVec.ofNat 3 (fld w 9 3)) (BitVec.ofNat 3 (fld w 6 3))))
  | 4 => needZero (fld w 0 9 + fld w 15 5) (.ok (.skscl (BitVec.ofNat 3 (fld w 9 3)) (BitVec.ofNat 5 (fld w 20 5))))
  | 5 => needZero (fld w 0 9 + fld w 15 10) (.ok (.skclr (BitVec.ofNat 3 (fld w 9 3))))
  | 6 => needZero (fld w 1 8 + fld w 15 5) <|
      if fld w 0 1 = 0 then .ok (.sksat (BitVec.ofNat 5 (fld w 20 5)) (BitVec.ofNat 3 (fld w 9 3))) else .ok (.sksatClr (BitVec.ofNat 5 (fld w 20 5)) (BitVec.ofNat 3 (fld w 9 3)))
  | _ => .bad .function

/-- Major 0x30 (R182, 13 R272). -/
def decExt (w : Nat) : Decoded :=
  match fld w 0 10 with
  | 0 => .ok (.xadd (BitVec.ofNat 5 (fld w 20 5)) (BitVec.ofNat 5 (fld w 15 5)) (BitVec.ofNat 5 (fld w 10 5)))
  | 1 => .ok (.xsub (BitVec.ofNat 5 (fld w 20 5)) (BitVec.ofNat 5 (fld w 15 5)) (BitVec.ofNat 5 (fld w 10 5)))
  | 2 => .ok (.xmul (BitVec.ofNat 5 (fld w 20 5)) (BitVec.ofNat 5 (fld w 15 5)) (BitVec.ofNat 5 (fld w 10 5)))
  | 3 => .ok (.xfma (BitVec.ofNat 5 (fld w 20 5)) (BitVec.ofNat 5 (fld w 15 5)) (BitVec.ofNat 5 (fld w 10 5)))
  | 4 => .ok (.xdiv (BitVec.ofNat 5 (fld w 20 5)) (BitVec.ofNat 5 (fld w 15 5)) (BitVec.ofNat 5 (fld w 10 5)))
  | 5 => needZero (fld w 10 5) (.ok (.xsqrt (BitVec.ofNat 5 (fld w 20 5)) (BitVec.ofNat 5 (fld w 15 5))))
  | 6 => needZero (fld w 10 5) (.ok (.xrnd (BitVec.ofNat 5 (fld w 20 5)) (BitVec.ofNat 5 (fld w 15 5))))
  | 7 => needZero (fld w 10 5) (.ok (.xneg (BitVec.ofNat 5 (fld w 20 5)) (BitVec.ofNat 5 (fld w 15 5))))
  | 8 => needZero (fld w 10 5) (.ok (.xabs (BitVec.ofNat 5 (fld w 20 5)) (BitVec.ofNat 5 (fld w 15 5))))
  | 9 => needZero (fld w 10 5) (.ok (.xmov (BitVec.ofNat 5 (fld w 20 5)) (BitVec.ofNat 5 (fld w 15 5))))
  | 10 => .ok (.xscale (BitVec.ofNat 5 (fld w 20 5)) (BitVec.ofNat 5 (fld w 15 5)) (BitVec.ofNat 5 (fld w 10 5)))
  | 11 => needZero (fld w 10 5) (.ok (.xexp (BitVec.ofNat 5 (fld w 20 5)) (BitVec.ofNat 5 (fld w 15 5))))
  | _ => .bad .function

/-- Major 0x31 (R182, 13 R273). -/
def decExtCvt (w : Nat) : Decoded :=
  match fld w 0 10 with
  | 0 => .ok (.xcmp (BitVec.ofNat 5 (fld w 20 5)) (BitVec.ofNat 5 (fld w 15 5)) (BitVec.ofNat 5 (fld w 10 5)))
  | 1 => needZero (fld w 10 5) (.ok (.xlen (BitVec.ofNat 5 (fld w 20 5)) (BitVec.ofNat 5 (fld w 15 5))))
  | 16 => needZero (fld w 10 5) (.ok (.xcvtWindowFromInt64 (BitVec.ofNat 5 (fld w 20 5)) (BitVec.ofNat 5 (fld w 15 5))))
  | 17 => needZero (fld w 10 5) (.ok (.xcvtWindowFromFp64 (BitVec.ofNat 5 (fld w 20 5)) (BitVec.ofNat 5 (fld w 15 5))))
  | 18 => needZero (fld w 10 5) (.ok (.xcvtWindowFromUint64 (BitVec.ofNat 5 (fld w 20 5)) (BitVec.ofNat 5 (fld w 15 5))))
  | 24 => needZero (fld w 10 5) (.ok (.xcvtScalarToInt64 (BitVec.ofNat 5 (fld w 20 5)) (BitVec.ofNat 5 (fld w 15 5))))
  | 25 => needZero (fld w 10 5) (.ok (.xcvtScalarToFp64 (BitVec.ofNat 5 (fld w 20 5)) (BitVec.ofNat 5 (fld w 15 5))))
  | 26 => needZero (fld w 10 5) (.ok (.xcvtScalarToUint64 (BitVec.ofNat 5 (fld w 20 5)) (BitVec.ofNat 5 (fld w 15 5))))
  | _ => .bad .function

/-- Major 0x32 (R178). -/
def decExtMem (w : Nat) : Decoded :=
  match fld w 14 3 with
  | 0 => needM (fld w 12 2) fun o => .ok (.xld o (BitVec.ofNat 5 (fld w 20 5)) (BitVec.ofNat 3 (fld w 17 3)) (BitVec.ofNat 12 (fld w 0 12)))
  | 1 => needM (fld w 12 2) fun o => .ok (.xst o (BitVec.ofNat 5 (fld w 20 5)) (BitVec.ofNat 3 (fld w 17 3)) (BitVec.ofNat 12 (fld w 0 12)))
  | _ => .bad .function

/-- Major 0x33 (R182, 13 R275). -/
def decWindow (w : Nat) : Decoded :=
  match fld w 8 2 with
  | 0 => needZero (fld w 10 2 + fld w 0 3) (.ok (.xalloc (BitVec.ofNat 5 (fld w 20 5)) (BitVec.ofNat 8 (fld w 12 8)) (BitVec.ofNat 5 (fld w 3 5))))
  | 1 => needZero (fld w 10 10 + fld w 0 8) (.ok (.xfree (BitVec.ofNat 5 (fld w 20 5))))
  | 2 => needZero (fld w 20 5 + fld w 10 5 + fld w 0 8) (.ok (.xsetp (BitVec.ofNat 5 (fld w 15 5))))
  | 3 => needZero (fld w 10 10 + fld w 0 8) (.ok (.xgetp (BitVec.ofNat 5 (fld w 20 5))))
  | _ => .bad .function

/-- Major 0x34 (R182, 13 R277–R282): `TEXIT` without an operand sets a to 1 and its b must be zero. -/
def decTask (w : Nat) : Decoded :=
  match fld w 0 10 with
  | 0 => needLow3 (fld w 15 5) fun a => .ok (.tspawn (BitVec.ofNat 5 (fld w 20 5)) a (BitVec.ofNat 5 (fld w 10 5)))
  | 1 => needZero (fld w 10 5) <| needLow3 (fld w 15 5) fun a => .ok (.tjoin (BitVec.ofNat 5 (fld w 20 5)) a)
  | 2 => needZero (fld w 16 9) <| if fld w 15 1 = 0 then .ok (.texit (some (BitVec.ofNat 5 (fld w 10 5)))) else needZero (fld w 10 5) (.ok (.texit none))
  | 3 => needZero (fld w 10 5) (.ok (.tpath (BitVec.ofNat 5 (fld w 20 5)) (BitVec.ofNat 5 (fld w 15 5))))
  | 4 => needZero (fld w 10 15) (.ok .tyield)
  | 5 => needZero (fld w 10 5) (.ok (.cores (BitVec.ofNat 5 (fld w 20 5)) (BitVec.ofNat 5 (fld w 15 5))))
  | 6 => .ok (.tcancel (BitVec.ofNat 5 (fld w 20 5)) (BitVec.ofNat 5 (fld w 15 5)) (BitVec.ofNat 5 (fld w 10 5)))
  | _ => .bad .function

/-- Major 0x35 (R182, 13 R283, R284). -/
def decGraph (w : Nat) : Decoded :=
  match fld w 0 10 with
  | 0 => needLow3 (fld w 15 5) fun a => .ok (.grun (BitVec.ofNat 5 (fld w 20 5)) a (BitVec.ofNat 5 (fld w 10 5)))
  | 1 => needZero (fld w 20 5) <| needLow3 (fld w 15 5) fun a => .ok (.gcond a (BitVec.ofNat 5 (fld w 10 5)))
  | 2 => needZero (fld w 10 5) (.ok (.gstat (BitVec.ofNat 5 (fld w 20 5)) (BitVec.ofNat 5 (fld w 15 5))))
  | _ => .bad .function

/-- A word with L = 0, by its major opcode (R175). -/
def decodeShort (w : Nat) : Decoded :=
  match fld w 25 6 with
  | 0 => decSystem w
  | 1 => decInteger w
  | 2 => decImm .addi w
  | 3 => decImm .andi w
  | 4 => decImm .ori w
  | 5 => decImm .xori w
  | 6 => decShiftImm w
  | 7 => decSetImm w
  | 8 => decMov w
  | 9 => decAdrpc w
  | 10 => decAddress w
  | 11 => decAddai w
  | 12 => decBranch .beq w
  | 13 => decBranch .bne w
  | 14 => decBranch .blt w
  | 15 => decBranch .bge w
  | 16 => decBranch .bltu w
  | 17 => decBranch .bgeu w
  | 18 => .ok (.jmp (BitVec.ofNat 25 (fld w 0 25)))
  | 19 => .ok (.call (BitVec.ofNat 25 (fld w 0 25)))
  | 20 => decJump w
  | 21 => decLoop w
  | 22 => decRealign w
  | 23 => decLd w
  | 24 => decSt w
  | 25 => decVecMem .ldv w
  | 26 => decVecMem .stv w
  | 27 => decPull w
  | 28 => decAtomic w
  | 29 => decFence w
  | 30 => decWait w
  | 31 => decKey w
  | 32 => decV20 w
  | 33 => decV21 w
  | 34 => decV22 w
  | 35 => decV23 w
  | 36 => decV24 w
  | 37 => decV25 w
  | 38 => decV26 w
  | 39 => decV27 w
  | 40 => decMma w
  | 41 => decMatrix w
  | 42 => decSem w
  | 43 => decCfg w
  | 44 => decBulk w
  | 45 => decMsg w
  | 46 => decColl w
  | 47 => decSketch w
  | 48 => decExt w
  | 49 => decExtCvt w
  | 50 => decExtMem w
  | 51 => decWindow w
  | 52 => decTask w
  | 53 => decGraph w
  | _ => .bad .major

/-- Whether a first word's major accepts L = 1 (R172): 0x08, 0x09 and 0x0B. -/
def hasLongForm (w : Nat) : Bool := fld w 25 6 == 8 || fld w 25 6 == 9 || fld w 25 6 == 11

/-- A first word with L = 1 and its extension word (R172, R176). -/
def decodeLong (w ext : Nat) : Decoded :=
  match fld w 25 6 with
  | 8 => needZero (fld w 16 4 + fld w 0 15) <|
      if fld w 15 1 = 0 then .ok (.moviLong (BitVec.ofNat 5 (fld w 20 5)) (BitVec.ofNat 32 ext))
      else .ok (.movhi (BitVec.ofNat 5 (fld w 20 5)) (BitVec.ofNat 32 ext))
  | 9 => needZero (fld w 15 5 + fld w 0 15) <| needLow3 (fld w 20 5) fun d => .ok (.adrpcLong d (BitVec.ofNat 32 ext))
  | 11 => needZero (fld w 0 15) <| needLow3 (fld w 20 5) fun d => needLow3 (fld w 15 5) fun a =>
      .ok (.addaiLong d a (BitVec.ofNat 32 ext))
  | _ => .bad .longForm

/-- Whether the instruction that starts with this word has an extension word (R172). -/
def needsExt (w : Nat) : Bool := fld w 31 1 == 1 && hasLongForm w

/-- An instruction from its first word and the word that follows it. -/
def decodeWords (w ext : Nat) : Decoded :=
  if fld w 31 1 = 0 then decodeShort w
  else if hasLongForm w then decodeLong w ext
  else .bad .longForm

/-- Four bytes as a little-endian word (00 R4). -/
def wordOfBytes (b0 b1 b2 b3 : Byte) : Nat :=
  b0.toNat + b1.toNat * 2 ^ 8 + b2.toNat * 2 ^ 16 + b3.toNat * 2 ^ 24

/-- The four little-endian bytes of a word (00 R4). -/
def bytesOfWord (w : Nat) : List Byte :=
  [BitVec.ofNat 8 w, BitVec.ofNat 8 (w / 2 ^ 8), BitVec.ofNat 8 (w / 2 ^ 16), BitVec.ofNat 8 (w / 2 ^ 24)]

/-- Decodes the instruction at the head of a byte string, and says how many bytes it takes. -/
def decode : List Byte → Decoded × Nat
  | b0 :: b1 :: b2 :: b3 :: rest =>
    let w := wordOfBytes b0 b1 b2 b3
    if needsExt w then
      match rest with
      | c0 :: c1 :: c2 :: c3 :: _ => (decodeWords w (wordOfBytes c0 c1 c2 c3), 8)
      | _ => (.bad .truncated, 8)
    else (decodeWords w 0, 4)
  | _ => (.bad .truncated, 0)

/-- Puts fields into a word: each pair is a field's value and its lowest bit. -/
def pack (base : Nat) : List (Nat × Nat) → Nat
  | [] => base
  | (x, lo) :: r => x * 2 ^ lo + pack base r

/-- The words of an instruction, from the encoding tables of R172–R182; an event has none. -/
def encode : Instr → List Nat
  | .iflush a d => [pack 0x00000006 [(d.toNat, 20), (a.toNat, 15)]]
  | .tlbi a d => [pack 0x00000007 [(d.toNat, 20), (a.toNat, 15)]]
  | .trap code => [pack 0x00001000 [(code.toNat, 0)]]
  | .ctlr d idx => [pack 0x00002000 [(d.code, 20), (d.flag, 15), (idx.toNat, 0)]]
  | .ctlw idx a => [pack 0x00003000 [(a.flag, 20), (a.code, 15), (idx.toNat, 0)]]
  | .add d a b => [pack 0x02000000 [(d.toNat, 20), (a.toNat, 15), (b.toNat, 10)]]
  | .sub d a b => [pack 0x02000001 [(d.toNat, 20), (a.toNat, 15), (b.toNat, 10)]]
  | .and d a b => [pack 0x02000002 [(d.toNat, 20), (a.toNat, 15), (b.toNat, 10)]]
  | .or d a b => [pack 0x02000003 [(d.toNat, 20), (a.toNat, 15), (b.toNat, 10)]]
  | .xor d a b => [pack 0x02000004 [(d.toNat, 20), (a.toNat, 15), (b.toNat, 10)]]
  | .andn d a b => [pack 0x02000005 [(d.toNat, 20), (a.toNat, 15), (b.toNat, 10)]]
  | .shl d a b => [pack 0x02000006 [(d.toNat, 20), (a.toNat, 15), (b.toNat, 10)]]
  | .shr d a b => [pack 0x02000007 [(d.toNat, 20), (a.toNat, 15), (b.toNat, 10)]]
  | .sar d a b => [pack 0x02000008 [(d.toNat, 20), (a.toNat, 15), (b.toNat, 10)]]
  | .mul d a b => [pack 0x02000009 [(d.toNat, 20), (a.toNat, 15), (b.toNat, 10)]]
  | .mulh d a b => [pack 0x0200000A [(d.toNat, 20), (a.toNat, 15), (b.toNat, 10)]]
  | .mulhu d a b => [pack 0x0200000B [(d.toNat, 20), (a.toNat, 15), (b.toNat, 10)]]
  | .div d a b => [pack 0x0200000C [(d.toNat, 20), (a.toNat, 15), (b.toNat, 10)]]
  | .divu d a b => [pack 0x0200000D [(d.toNat, 20), (a.toNat, 15), (b.toNat, 10)]]
  | .rem d a b => [pack 0x0200000E [(d.toNat, 20), (a.toNat, 15), (b.toNat, 10)]]
  | .remu d a b => [pack 0x0200000F [(d.toNat, 20), (a.toNat, 15), (b.toNat, 10)]]
  | .min d a b => [pack 0x02000010 [(d.toNat, 20), (a.toNat, 15), (b.toNat, 10)]]
  | .max d a b => [pack 0x02000011 [(d.toNat, 20), (a.toNat, 15), (b.toNat, 10)]]
  | .minu d a b => [pack 0x02000012 [(d.toNat, 20), (a.toNat, 15), (b.toNat, 10)]]
  | .maxu d a b => [pack 0x02000013 [(d.toNat, 20), (a.toNat, 15), (b.toNat, 10)]]
  | .seq d a b => [pack 0x02000014 [(d.toNat, 20), (a.toNat, 15), (b.toNat, 10)]]
  | .sne d a b => [pack 0x02000015 [(d.toNat, 20), (a.toNat, 15), (b.toNat, 10)]]
  | .slt d a b => [pack 0x02000016 [(d.toNat, 20), (a.toNat, 15), (b.toNat, 10)]]
  | .sltu d a b => [pack 0x02000017 [(d.toNat, 20), (a.toNat, 15), (b.toNat, 10)]]
  | .clz d a => [pack 0x02000018 [(d.toNat, 20), (a.toNat, 15)]]
  | .ctz d a => [pack 0x02000019 [(d.toNat, 20), (a.toNat, 15)]]
  | .popc d a => [pack 0x0200001A [(d.toNat, 20), (a.toNat, 15)]]
  | .brev d a => [pack 0x0200001B [(d.toNat, 20), (a.toNat, 15)]]
  | .bswap d a => [pack 0x0200001C [(d.toNat, 20), (a.toNat, 15)]]
  | .sext d a b => [pack 0x0200001D [(d.toNat, 20), (a.toNat, 15), (b.toNat, 10)]]
  | .zext d a b => [pack 0x0200001E [(d.toNat, 20), (a.toNat, 15), (b.toNat, 10)]]
  | .cmov d a b => [pack 0x0200001F [(d.toNat, 20), (a.toNat, 15), (b.toNat, 10)]]
  | .addi d a imm => [pack 0x04000000 [(d.toNat, 20), (a.toNat, 15), (imm.toNat, 0)]]
  | .andi d a imm => [pack 0x06000000 [(d.toNat, 20), (a.toNat, 15), (imm.toNat, 0)]]
  | .ori d a imm => [pack 0x08000000 [(d.toNat, 20), (a.toNat, 15), (imm.toNat, 0)]]
  | .xori d a imm => [pack 0x0A000000 [(d.toNat, 20), (a.toNat, 15), (imm.toNat, 0)]]
  | .shli d a n => [pack 0x0C000000 [(d.toNat, 20), (a.toNat, 15), (n.toNat, 0)]]
  | .shri d a n => [pack 0x0C002000 [(d.toNat, 20), (a.toNat, 15), (n.toNat, 0)]]
  | .sari d a n => [pack 0x0C004000 [(d.toNat, 20), (a.toNat, 15), (n.toNat, 0)]]
  | .slti d a imm => [pack 0x0E000000 [(d.toNat, 20), (a.toNat, 15), (imm.toNat, 0)]]
  | .sltiu d a imm => [pack 0x0E004000 [(d.toNat, 20), (a.toNat, 15), (imm.toNat, 0)]]
  | .movi d imm => [pack 0x10000000 [(d.toNat, 20), (imm.toNat, 0)]]
  | .moviLong d ext => [pack 0x90000000 [(d.toNat, 20)], ext.toNat]
  | .movhi d ext => [pack 0x90008000 [(d.toNat, 20)], ext.toNat]
  | .adrpc d imm => [pack 0x12000000 [(d.toNat, 20), (imm.toNat, 0)]]
  | .adrpcLong d ext => [pack 0x92000000 [(d.toNat, 20)], ext.toNat]
  | .adda d a b => [pack 0x14000000 [(d.toNat, 20), (a.toNat, 15), (b.toNat, 10)]]
  | .suba d a b => [pack 0x14000001 [(d.toNat, 20), (a.toNat, 15), (b.toNat, 10)]]
  | .movas d a => [pack 0x14000002 [(d.toNat, 20), (a.toNat, 15)]]
  | .movsa d a => [pack 0x14000003 [(d.toNat, 20), (a.toNat, 15)]]
  | .movah d a => [pack 0x14000004 [(d.toNat, 20), (a.toNat, 15)]]
  | .movha d a => [pack 0x14000005 [(d.toNat, 20), (a.toNat, 15)]]
  | .aidx d a b => [pack 0x14000006 [(d.toNat, 20), (a.toNat, 15), (b.toNat, 10)]]
  | .slta d a b => [pack 0x14000007 [(d.toNat, 20), (a.toNat, 15), (b.toNat, 10)]]
  | .addai d a imm => [pack 0x16000000 [(d.toNat, 20), (a.toNat, 15), (imm.toNat, 0)]]
  | .addaiLong d a ext => [pack 0x96000000 [(d.toNat, 20), (a.toNat, 15)], ext.toNat]
  | .beq a b off => [pack 0x18000000 [(a.toNat, 20), (b.toNat, 15), (off.toNat, 0)]]
  | .bne a b off => [pack 0x1A000000 [(a.toNat, 20), (b.toNat, 15), (off.toNat, 0)]]
  | .blt a b off => [pack 0x1C000000 [(a.toNat, 20), (b.toNat, 15), (off.toNat, 0)]]
  | .bge a b off => [pack 0x1E000000 [(a.toNat, 20), (b.toNat, 15), (off.toNat, 0)]]
  | .bltu a b off => [pack 0x20000000 [(a.toNat, 20), (b.toNat, 15), (off.toNat, 0)]]
  | .bgeu a b off => [pack 0x22000000 [(a.toNat, 20), (b.toNat, 15), (off.toNat, 0)]]
  | .jmp off => [pack 0x24000000 [(off.toNat, 0)]]
  | .call off => [pack 0x26000000 [(off.toNat, 0)]]
  | .jr a => [pack 0x28000000 [(a.toNat, 15)]]
  | .callr a => [pack 0x28000001 [(a.toNat, 15)]]
  | .loop a len => [pack 0x2A000000 [(a.toNat, 18), (len.toNat, 0)]]
  | .loopi c len => [pack 0x2A800000 [(c.toNat, 12), (len.toNat, 0)]]
  | .realign limit => [pack 0x2C000000 [(limit.toNat, 0)]]
  | .ld k o d a off => [pack 0x2E000000 [(d.toNat, 20), (a.toNat, 17), (k.code, 14), (o.code, 12), (off.toNat, 0)]]
  | .st k o d a off => [pack 0x30000000 [(d.toNat, 20), (a.toNat, 17), (k.code, 14), (o.code, 12), (off.toNat, 0)]]
  | .ldv k o d a off => [pack 0x32000000 [(d.toNat, 20), (a.toNat, 17), (k.code, 14), (o.code, 12), (off.toNat, 0)]]
  | .stv k o d a off => [pack 0x34000000 [(d.toNat, 20), (a.toNat, 17), (k.code, 14), (o.code, 12), (off.toNat, 0)]]
  | .pull k o d a off => [pack 0x36000000 [(d.toNat, 20), (a.toNat, 17), (k.code, 14), (o.code, 12), (off.toNat, 0)]]
  | .pullv o d a off => [pack 0x36010000 [(d.toNat, 20), (a.toNat, 17), (o.code, 12), (off.toNat, 0)]]
  | .pref hint a off => [pack 0x36014000 [(hint.toNat, 20), (a.toNat, 17), (off.toNat, 0)]]
  | .amoadd wide o d a b => [pack 0x38000000 [(d.toNat, 20), (a.toNat, 15), (b.toNat, 10), (o.code, 5), (wide.toNat, 4)]]
  | .amoand wide o d a b => [pack 0x38000001 [(d.toNat, 20), (a.toNat, 15), (b.toNat, 10), (o.code, 5), (wide.toNat, 4)]]
  | .amoor wide o d a b => [pack 0x38000002 [(d.toNat, 20), (a.toNat, 15), (b.toNat, 10), (o.code, 5), (wide.toNat, 4)]]
  | .amoxor wide o d a b => [pack 0x38000003 [(d.toNat, 20), (a.toNat, 15), (b.toNat, 10), (o.code, 5), (wide.toNat, 4)]]
  | .amomin wide o d a b => [pack 0x38000004 [(d.toNat, 20), (a.toNat, 15), (b.toNat, 10), (o.code, 5), (wide.toNat, 4)]]
  | .amomax wide o d a b => [pack 0x38000005 [(d.toNat, 20), (a.toNat, 15), (b.toNat, 10), (o.code, 5), (wide.toNat, 4)]]
  | .amominu wide o d a b => [pack 0x38000006 [(d.toNat, 20), (a.toNat, 15), (b.toNat, 10), (o.code, 5), (wide.toNat, 4)]]
  | .amomaxu wide o d a b => [pack 0x38000007 [(d.toNat, 20), (a.toNat, 15), (b.toNat, 10), (o.code, 5), (wide.toNat, 4)]]
  | .amoswap wide o d a b => [pack 0x38000008 [(d.toNat, 20), (a.toNat, 15), (b.toNat, 10), (o.code, 5), (wide.toNat, 4)]]
  | .amocas wide o d a b => [pack 0x38000009 [(d.toNat, 20), (a.toNat, 15), (b.toNat, 10), (o.code, 5), (wide.toNat, 4)]]
  | .fence k sc => [pack 0x3A000000 [(sc.code, 2), (k.code, 0)]]
  | .seqadvMax sc d a b => [pack 0x3A000100 [(d.toNat, 20), (a.toNat, 15), (b.toNat, 10), (sc.code, 2)]]
  | .seqadvAdd sc d a b => [pack 0x3A000101 [(d.toNat, 20), (a.toNat, 15), (b.toNat, 10), (sc.code, 2)]]
  | .watch sc slot a b => [pack 0x3C000000 [(a.toNat, 15), (b.toNat, 10), (slot.toNat, 3), (sc.code, 0)]]
  | .waitw d slot => [pack 0x3C000040 [(d.toNat, 20), (slot.toNat, 3)]]
  | .waita ge acq d a b => [pack 0x3C000080 [(d.toNat, 20), (a.toNat, 15), (b.toNat, 10), (acq.toNat, 1), (ge.toNat, 0)]]
  | .waitc ldl stl cpl mxl => [pack 0x3C0000C0 [(ldl.toNat, 20), (stl.toNat, 15), (cpl.toNat, 10), (mxl.toNat, 1)]]
  | .barinit d a b => [pack 0x3C000100 [(d.toNat, 20), (a.toNat, 15), (b.toNat, 10)]]
  | .barwait a b => [pack 0x3C000140 [(a.toNat, 15), (b.toNat, 10)]]
  | .baradd a b => [pack 0x3C000180 [(a.toNat, 15), (b.toNat, 10)]]
  | .keygive a b => [pack 0x3E000000 [(a.toNat, 15), (b.toNat, 10)]]
  | .keytake d a => [pack 0x3E000001 [(d.toNat, 20), (a.toNat, 15)]]
  | .keyqry d a => [pack 0x3E000002 [(d.toNat, 20), (a.toNat, 15)]]
  | .stashcfg d a => [pack 0x3E000003 [(d.toNat, 20), (a.toNat, 15)]]
  | .vfadd t d a b m => [pack 0x40000000 [(d.toNat, 20), (a.toNat, 15), (b.toNat, 10), (m.toNat, 7), (t.code, 0)]]
  | .vfsub t d a b m => [pack 0x40000008 [(d.toNat, 20), (a.toNat, 15), (b.toNat, 10), (m.toNat, 7), (t.code, 0)]]
  | .vfmul t d a b m => [pack 0x40000010 [(d.toNat, 20), (a.toNat, 15), (b.toNat, 10), (m.toNat, 7), (t.code, 0)]]
  | .vfma t d a b m => [pack 0x40000018 [(d.toNat, 20), (a.toNat, 15), (b.toNat, 10), (m.toNat, 7), (t.code, 0)]]
  | .vfms t d a b m => [pack 0x40000020 [(d.toNat, 20), (a.toNat, 15), (b.toNat, 10), (m.toNat, 7), (t.code, 0)]]
  | .vfnma t d a b m => [pack 0x40000028 [(d.toNat, 20), (a.toNat, 15), (b.toNat, 10), (m.toNat, 7), (t.code, 0)]]
  | .vfdiv t d a b m => [pack 0x40000030 [(d.toNat, 20), (a.toNat, 15), (b.toNat, 10), (m.toNat, 7), (t.code, 0)]]
  | .vfmin t d a b m => [pack 0x40000038 [(d.toNat, 20), (a.toNat, 15), (b.toNat, 10), (m.toNat, 7), (t.code, 0)]]
  | .vfmax t d a b m => [pack 0x40000040 [(d.toNat, 20), (a.toNat, 15), (b.toNat, 10), (m.toNat, 7), (t.code, 0)]]
  | .vfsqrt t d a m => [pack 0x42000000 [(d.toNat, 20), (a.toNat, 15), (m.toNat, 7), (t.code, 0)]]
  | .vfrcp t d a m => [pack 0x42000008 [(d.toNat, 20), (a.toNat, 15), (m.toNat, 7), (t.code, 0)]]
  | .vfrsq t d a m => [pack 0x42000010 [(d.toNat, 20), (a.toNat, 15), (m.toNat, 7), (t.code, 0)]]
  | .vfabs t d a m => [pack 0x42000018 [(d.toNat, 20), (a.toNat, 15), (m.toNat, 7), (t.code, 0)]]
  | .vfneg t d a m => [pack 0x42000020 [(d.toNat, 20), (a.toNat, 15), (m.toNat, 7), (t.code, 0)]]
  | .vfexp2 t d a m => [pack 0x42000028 [(d.toNat, 20), (a.toNat, 15), (m.toNat, 7), (t.code, 0)]]
  | .vflog2 t d a m => [pack 0x42000030 [(d.toNat, 20), (a.toNat, 15), (m.toNat, 7), (t.code, 0)]]
  | .vftanh t d a m => [pack 0x42000038 [(d.toNat, 20), (a.toNat, 15), (m.toNat, 7), (t.code, 0)]]
  | .vfclass t d a m => [pack 0x42000040 [(d.toNat, 20), (a.toNat, 15), (m.toNat, 7), (t.code, 0)]]
  | .vadd t d a b m => [pack 0x44000000 [(d.toNat, 20), (a.toNat, 15), (b.toNat, 10), (m.toNat, 7), (t.code, 0)]]
  | .vsub t d a b m => [pack 0x44000008 [(d.toNat, 20), (a.toNat, 15), (b.toNat, 10), (m.toNat, 7), (t.code, 0)]]
  | .vmul t d a b m => [pack 0x44000010 [(d.toNat, 20), (a.toNat, 15), (b.toNat, 10), (m.toNat, 7), (t.code, 0)]]
  | .vmulh t d a b m => [pack 0x44000018 [(d.toNat, 20), (a.toNat, 15), (b.toNat, 10), (m.toNat, 7), (t.code, 0)]]
  | .vmin t d a b m => [pack 0x44000020 [(d.toNat, 20), (a.toNat, 15), (b.toNat, 10), (m.toNat, 7), (t.code, 0)]]
  | .vmax t d a b m => [pack 0x44000028 [(d.toNat, 20), (a.toNat, 15), (b.toNat, 10), (m.toNat, 7), (t.code, 0)]]
  | .vabs t d a m => [pack 0x44000030 [(d.toNat, 20), (a.toNat, 15), (m.toNat, 7), (t.code, 0)]]
  | .vsadd t d a b m => [pack 0x44000038 [(d.toNat, 20), (a.toNat, 15), (b.toNat, 10), (m.toNat, 7), (t.code, 0)]]
  | .vssub t d a b m => [pack 0x44000040 [(d.toNat, 20), (a.toNat, 15), (b.toNat, 10), (m.toNat, 7), (t.code, 0)]]
  | .vand t d a b m => [pack 0x46000000 [(d.toNat, 20), (a.toNat, 15), (b.toNat, 10), (m.toNat, 7), (t.code, 0)]]
  | .vor t d a b m => [pack 0x46000008 [(d.toNat, 20), (a.toNat, 15), (b.toNat, 10), (m.toNat, 7), (t.code, 0)]]
  | .vxor t d a b m => [pack 0x46000010 [(d.toNat, 20), (a.toNat, 15), (b.toNat, 10), (m.toNat, 7), (t.code, 0)]]
  | .vnot t d a m => [pack 0x46000018 [(d.toNat, 20), (a.toNat, 15), (m.toNat, 7), (t.code, 0)]]
  | .vshl t d a b m => [pack 0x46000020 [(d.toNat, 20), (a.toNat, 15), (b.toNat, 10), (m.toNat, 7), (t.code, 0)]]
  | .vshr t d a b m => [pack 0x46000028 [(d.toNat, 20), (a.toNat, 15), (b.toNat, 10), (m.toNat, 7), (t.code, 0)]]
  | .vsar t d a b m => [pack 0x46000030 [(d.toNat, 20), (a.toNat, 15), (b.toNat, 10), (m.toNat, 7), (t.code, 0)]]
  | .vfcmpEq t d a b m => [pack 0x48000000 [(d.toNat, 20), (a.toNat, 15), (b.toNat, 10), (m.toNat, 7), (t.code, 0)]]
  | .vfcmpLt t d a b m => [pack 0x48000008 [(d.toNat, 20), (a.toNat, 15), (b.toNat, 10), (m.toNat, 7), (t.code, 0)]]
  | .vfcmpLe t d a b m => [pack 0x48000010 [(d.toNat, 20), (a.toNat, 15), (b.toNat, 10), (m.toNat, 7), (t.code, 0)]]
  | .vfcmpUn t d a b m => [pack 0x48000018 [(d.toNat, 20), (a.toNat, 15), (b.toNat, 10), (m.toNat, 7), (t.code, 0)]]
  | .vcmpEq t d a b m => [pack 0x48000020 [(d.toNat, 20), (a.toNat, 15), (b.toNat, 10), (m.toNat, 7), (t.code, 0)]]
  | .vcmpLt t d a b m => [pack 0x48000028 [(d.toNat, 20), (a.toNat, 15), (b.toNat, 10), (m.toNat, 7), (t.code, 0)]]
  | .vcmpLe t d a b m => [pack 0x48000030 [(d.toNat, 20), (a.toNat, 15), (b.toNat, 10), (m.toNat, 7), (t.code, 0)]]
  | .vcmpLtu t d a b m => [pack 0x48000038 [(d.toNat, 20), (a.toNat, 15), (b.toNat, 10), (m.toNat, 7), (t.code, 0)]]
  | .vcmpLeu t d a b m => [pack 0x48000040 [(d.toNat, 20), (a.toNat, 15), (b.toNat, 10), (m.toNat, 7), (t.code, 0)]]
  | .vsel t d a b m => [pack 0x48000048 [(d.toNat, 20), (a.toNat, 15), (b.toNat, 10), (m.toNat, 7), (t.code, 0)]]
  | .mand d a b => [pack 0x48000050 [(d.toNat, 20), (a.toNat, 15), (b.toNat, 10)]]
  | .mor d a b => [pack 0x48000058 [(d.toNat, 20), (a.toNat, 15), (b.toNat, 10)]]
  | .mnot d a => [pack 0x48000060 [(d.toNat, 20), (a.toNat, 15)]]
  | .mpopc d a => [pack 0x48000068 [(d.toNat, 20), (a.toNat, 15)]]
  | .vbcast t d a m => [pack 0x4A000000 [(d.toNat, 20), (a.toNat, 15), (m.toNat, 7), (t.code, 0)]]
  | .vmovs t d a b => [pack 0x4A000008 [(d.toNat, 20), (a.toNat, 15), (b.toNat, 10), (t.code, 0)]]
  | .vins t d a b => [pack 0x4A000010 [(d.toNat, 20), (a.toNat, 15), (b.toNat, 10), (t.code, 0)]]
  | .vperm t d a b m => [pack 0x4A000018 [(d.toNat, 20), (a.toNat, 15), (b.toNat, 10), (m.toNat, 7), (t.code, 0)]]
  | .vslide t d a b m => [pack 0x4A000020 [(d.toNat, 20), (a.toNat, 15), (b.toNat, 10), (m.toNat, 7), (t.code, 0)]]
  | .viota t d m => [pack 0x4A000028 [(d.toNat, 20), (m.toNat, 7), (t.code, 0)]]
  | .vredadd t d a m => [pack 0x4C000000 [(d.toNat, 20), (a.toNat, 15), (m.toNat, 7), (t.code, 0)]]
  | .vredmax t d a m => [pack 0x4C000008 [(d.toNat, 20), (a.toNat, 15), (m.toNat, 7), (t.code, 0)]]
  | .vredmin t d a m => [pack 0x4C000010 [(d.toNat, 20), (a.toNat, 15), (m.toNat, 7), (t.code, 0)]]
  | .vredmaxi t d a m => [pack 0x4C000018 [(d.toNat, 20), (a.toNat, 15), (m.toNat, 7), (t.code, 0)]]
  | .vredmini t d a m => [pack 0x4C000020 [(d.toNat, 20), (a.toNat, 15), (m.toNat, 7), (t.code, 0)]]
  | .vcvt t src d a m => [pack 0x4C000028 [(d.toNat, 20), (a.toNat, 15), (src.code, 10), (m.toNat, 7), (t.code, 0)]]
  | .vpack t src d a m => [pack 0x4C000030 [(d.toNat, 20), (a.toNat, 15), (src.code, 10), (m.toNat, 7), (t.code, 0)]]
  | .vunpack t src d a m => [pack 0x4C000038 [(d.toNat, 20), (a.toNat, 15), (src.code, 10), (m.toNat, 7), (t.code, 0)]]
  | .vgather t d a b m => [pack 0x4E000000 [(d.toNat, 20), (a.toNat, 15), (b.toNat, 10), (m.toNat, 7), (t.code, 0)]]
  | .vscatter t d a b m => [pack 0x4E000008 [(d.toNat, 20), (a.toNat, 15), (b.toNat, 10), (m.toNat, 7), (t.code, 0)]]
  | .mma acc ba bb sk so => [pack 0x50000000 [(sk.toNat, 20), (so.toNat, 15), (acc.toNat, 11), (ba.toNat, 7), (bb.toNat, 3)]]
  | .mzero acc => [pack 0x52000000 [(acc.toNat, 8)]]
  | .mdrain d acc bank so => [pack 0x52001000 [(d.toNat, 20), (so.toNat, 15), (acc.toNat, 8), (bank.toNat, 4)]]
  | .mload acc bank so => [pack 0x52002000 [(so.toNat, 15), (acc.toNat, 8), (bank.toNat, 4)]]
  | .semsig n => [pack 0x54000000 [(n.toNat, 0)]]
  | .semwait n => [pack 0x54001000 [(n.toNat, 0)]]
  | .mcfg a => [pack 0x56000000 [(a.toNat, 20)]]
  | .bfmt bank a => [pack 0x56001000 [(a.toNat, 20), (bank.toNat, 0)]]
  | .bpull sv asrc adst asig acpl => [pack 0x58000000 [(sv.toNat, 20), (asrc.toNat, 9), (adst.toNat, 6), (asig.toNat, 3), (acpl.toNat, 0)]]
  | .bpulla sv sx asrc asig acpl => [pack 0x58001000 [(sv.toNat, 20), (sx.toNat, 15), (asrc.toNat, 9), (asig.toNat, 3), (acpl.toNat, 0)]]
  | .bcopy sv asrc adst asig acpl => [pack 0x58002000 [(sv.toNat, 20), (asrc.toNat, 9), (adst.toNat, 6), (asig.toNat, 3), (acpl.toNat, 0)]]
  | .ecmd a => [pack 0x58003000 [(a.toNat, 9)]]
  | .mdec sp sl asrc adst asig acpl => [pack 0x58004000 [(sp.toNat, 20), (sl.toNat, 15), (asrc.toNat, 9), (adst.toNat, 6), (asig.toNat, 3), (acpl.toNat, 0)]]
  | .lodge sn sx asrc adst asig acpl => [pack 0x58005000 [(sn.toNat, 20), (sx.toNat, 15), (asrc.toNat, 9), (adst.toNat, 6), (asig.toNat, 3), (acpl.toNat, 0)]]
  | .msend d b => [pack 0x5A000000 [(d.toNat, 20), (b.toNat, 10)]]
  | .msendPost d b => [pack 0x5A000001 [(d.toNat, 20), (b.toNat, 10)]]
  | .msendRetry d => [pack 0x5A000002 [(d.toNat, 20)]]
  | .mrecv d => [pack 0x5A000003 [(d.toNat, 20)]]
  | .mrecvRep d => [pack 0x5A000004 [(d.toNat, 20)]]
  | .mpeek d => [pack 0x5A000005 [(d.toNat, 20)]]
  | .mpeekRep d => [pack 0x5A000006 [(d.toNat, 20)]]
  | .mreply b => [pack 0x5A000007 [(b.toNat, 10)]]
  | .mbind d a => [pack 0x5A000008 [(d.toNat, 20), (a.toNat, 15)]]
  | .coll a => [pack 0x5C000000 [(a.toNat, 9)]]
  | .skinit a sg ss => [pack 0x5E000000 [(sg.toNat, 20), (ss.toNat, 15), (a.toNat, 9)]]
  | .skinitTab a b sg => [pack 0x5E000001 [(sg.toNat, 20), (a.toNat, 9), (b.toNat, 6)]]
  | .skupd f64 a sk sv => [pack 0x5E001000 [(sk.toNat, 20), (sv.toNat, 15), (a.toNat, 9), (f64.toNat, 0)]]
  | .skupdV f64 a vk vv => [pack 0x5E001002 [(vk.toNat, 20), (vv.toNat, 15), (a.toNat, 9), (f64.toNat, 0)]]
  | .skqry d a sk => [pack 0x5E002000 [(d.toNat, 20), (sk.toNat, 15), (a.toNat, 9)]]
  | .skadd a b => [pack 0x5E003000 [(a.toNat, 9), (b.toNat, 6)]]
  | .skscl a sf => [pack 0x5E004000 [(sf.toNat, 20), (a.toNat, 9)]]
  | .skclr a => [pack 0x5E005000 [(a.toNat, 9)]]
  | .sksat d a => [pack 0x5E006000 [(d.toNat, 20), (a.toNat, 9)]]
  | .sksatClr d a => [pack 0x5E006001 [(d.toNat, 20), (a.toNat, 9)]]
  | .xadd d a b => [pack 0x60000000 [(d.toNat, 20), (a.toNat, 15), (b.toNat, 10)]]
  | .xsub d a b => [pack 0x60000001 [(d.toNat, 20), (a.toNat, 15), (b.toNat, 10)]]
  | .xmul d a b => [pack 0x60000002 [(d.toNat, 20), (a.toNat, 15), (b.toNat, 10)]]
  | .xfma d a b => [pack 0x60000003 [(d.toNat, 20), (a.toNat, 15), (b.toNat, 10)]]
  | .xdiv d a b => [pack 0x60000004 [(d.toNat, 20), (a.toNat, 15), (b.toNat, 10)]]
  | .xsqrt d a => [pack 0x60000005 [(d.toNat, 20), (a.toNat, 15)]]
  | .xrnd d a => [pack 0x60000006 [(d.toNat, 20), (a.toNat, 15)]]
  | .xneg d a => [pack 0x60000007 [(d.toNat, 20), (a.toNat, 15)]]
  | .xabs d a => [pack 0x60000008 [(d.toNat, 20), (a.toNat, 15)]]
  | .xmov d a => [pack 0x60000009 [(d.toNat, 20), (a.toNat, 15)]]
  | .xscale d a b => [pack 0x6000000A [(d.toNat, 20), (a.toNat, 15), (b.toNat, 10)]]
  | .xexp d a => [pack 0x6000000B [(d.toNat, 20), (a.toNat, 15)]]
  | .xcmp d a b => [pack 0x62000000 [(d.toNat, 20), (a.toNat, 15), (b.toNat, 10)]]
  | .xlen d a => [pack 0x62000001 [(d.toNat, 20), (a.toNat, 15)]]
  | .xcvtWindowFromInt64 d a => [pack 0x62000010 [(d.toNat, 20), (a.toNat, 15)]]
  | .xcvtWindowFromFp64 d a => [pack 0x62000011 [(d.toNat, 20), (a.toNat, 15)]]
  | .xcvtWindowFromUint64 d a => [pack 0x62000012 [(d.toNat, 20), (a.toNat, 15)]]
  | .xcvtScalarToInt64 d a => [pack 0x62000018 [(d.toNat, 20), (a.toNat, 15)]]
  | .xcvtScalarToFp64 d a => [pack 0x62000019 [(d.toNat, 20), (a.toNat, 15)]]
  | .xcvtScalarToUint64 d a => [pack 0x6200001A [(d.toNat, 20), (a.toNat, 15)]]
  | .xld o d a off => [pack 0x64000000 [(d.toNat, 20), (a.toNat, 17), (o.code, 12), (off.toNat, 0)]]
  | .xst o d a off => [pack 0x64004000 [(d.toNat, 20), (a.toNat, 17), (o.code, 12), (off.toNat, 0)]]
  | .xalloc d base n => [pack 0x66000000 [(d.toNat, 20), (base.toNat, 12), (n.toNat, 3)]]
  | .xfree d => [pack 0x66000100 [(d.toNat, 20)]]
  | .xsetp a => [pack 0x66000200 [(a.toNat, 15)]]
  | .xgetp d => [pack 0x66000300 [(d.toNat, 20)]]
  | .tspawn d a b => [pack 0x68000000 [(d.toNat, 20), (a.toNat, 15), (b.toNat, 10)]]
  | .tjoin d a => [pack 0x68000001 [(d.toNat, 20), (a.toNat, 15)]]
  | .texit (some b) => [pack 0x68000002 [(b.toNat, 10)]]
  | .texit none => [0x68008002]
  | .tpath d a => [pack 0x68000003 [(d.toNat, 20), (a.toNat, 15)]]
  | .cores d a => [pack 0x68000005 [(d.toNat, 20), (a.toNat, 15)]]
  | .tcancel d a b => [pack 0x68000006 [(d.toNat, 20), (a.toNat, 15), (b.toNat, 10)]]
  | .grun d a b => [pack 0x6A000000 [(d.toNat, 20), (a.toNat, 15), (b.toNat, 10)]]
  | .gcond a b => [pack 0x6A000001 [(a.toNat, 15), (b.toNat, 10)]]
  | .gstat d a => [pack 0x6A000002 [(d.toNat, 20), (a.toNat, 15)]]
  | .nop => [pack 0x00000001 []]
  | .idle => [pack 0x00000002 []]
  | .bkpt => [pack 0x00000003 []]
  | .eret => [pack 0x00000004 []]
  | .halt => [pack 0x00000005 []]
  | .ret => [pack 0x28000002 []]
  | .tyield => [pack 0x68000004 []]
  | .ujidxDiscard | .realignLimitExpiry | .idleTimeout | .matrixCompletion
  | .taskDispatch | .preemption | .supervisorRestoreEntry | .quantumExpiry
  | .cancelGraceExpiry | .watchdogExpiry | .asyncTrapEntry | .queueLaunchEntry
  | .queueGraphEntry | .queuePhaseBoundary | .graphLaunchNode | .graphEngineJobNode
  | .graphConditionalNode | .graphWhileNode | .graphSignalNode | .lineRead
  | .lineReply | .loadCompletion | .keyholeRead | .watchRequest
  | .watchAnswer | .storePerformed | .atomicPerformed | .l1WriteThrough
  | .stashEviction | .messageRequest | .messageReply | .postedAcceptance
  | .postedRefusal | .sendQueueAcceptance | .engineJobStart | .enginePayloadPart
  | .engineJobCompletion | .collectiveStep | .collectiveCompletion | .mediaFrame
  | .lodgingCopyCompletion | .powerUp | .mreset | .cxlHotReset
  | .cxlLinkDown | .fwgo | .firmwareVerificationDone | .bar2HostRead
  | .bar2HostWrite | .keyhand | .jobctlEnable | .jobctlEnd
  | .jobctlCancel | .glcmdLoad | .glcmdUnload | .graphLoaderCompletion
  | .qtailWrite | .qctlCancel | .qctlClearError | .queueSwitchOut
  | .queueSwitchOutDone | .queueSwitchIn | .queueSwitchInDone | .powerStateEntry
  | .powerWake | .powerWindow | .thermalLimit | .tokenBucketRefill
  | .htlbcmd | .tlbInvalidationDone | .sropCommit | .sropCommitDone
  | .skopWrite | .skopRead | .skopFree | .sctxSave
  | .sctxRestore | .sprotWrite | .nlctlTrain | .nlctlDown
  | .nlctlClearFailed | .narlorPortUp | .dataFlit | .idleFlit
  | .retryRequest | .narlorPortFailure | .neqpopCreate | .neqpopForceError
  | .neqpopDestroy | .nergopRegister | .nergopDeregister | .deregistrationDone
  | .workDeposit | .workRead | .depositData | .depositLast
  | .readRequest | .readData | .ack | .nak
  | .retransmitTimeout | .depositAbandonTimeout | .lockInterfaceRequest | .startInterfaceRequest
  | .stopInterfaceRequest | .getDeviceInterfaceReport | .ideStreamFailure | .ideKm
  | .getVersion | .getCapabilities | .negotiateAlgorithms | .getDigests
  | .getCertificate | .challenge | .getMeasurements | .keyExchange
  | .finish | .endSession | .preset | .mfence
  | .fencemWrite | .remapWindow | .patrolScrub | .uncorrectableError
  | .tsnap | .registerWrite | .illegalInstruction | .fetchTranslation
  | .firmwareFailure | .keyholePortUp | .keyholePortDown => []

/-- The bytes of an instruction as they stand in memory. -/
def encodeBytes (i : Instr) : List Byte := (encode i).flatMap bytesOfWord

/-- Whether the row has an encoding: the events have none. -/
def Instr.encodable (i : Instr) : Bool := !(encode i).isEmpty

/-- How many bytes the instruction takes (R172). -/
def Instr.size (i : Instr) : Nat := 4 * (encode i).length

/-- The instruction the decoder reads from an instruction whose bits are w, bit 0 being the least significant bit
of the first word; the words above nbits are zero. -/
def decodeTableWord (nbits w : Nat) : Option Instr :=
  let w := w % 2 ^ nbits
  match (decode (bytesOfWord w ++ bytesOfWord (w / 2 ^ 32))).1 with
  | .ok i => some i
  | .bad _ => none

end Sys2Proof
end

