-- ==== Sys2Proof/Machine/Bits.lean ====
section
/-!
DEFINITION. Bit fields, byte order and saturation (00 R4, 08 R188): the helpers every meaning shares.
-/
namespace Sys2Proof.Machine

/-- The little-endian number the bytes hold (00 R4). -/
def natOfBytes : List Byte → Nat
  | [] => 0
  | b :: r => b.toNat + 256 * natOfBytes r

/-- The low n bytes of a number, little-endian (00 R4). -/
def bytesOfNat : Nat → Nat → List Byte
  | 0, _ => []
  | n + 1, x => BitVec.ofNat 8 x :: bytesOfNat n (x / 256)

/-- Bytes lo to lo + n - 1 of a byte string, missing ones zero. -/
def sliceBytes (bs : List Byte) (lo n : Nat) : List Byte :=
  let r := (bs.drop lo).take n
  r ++ List.replicate (n - r.length) 0

/-- The number in bytes lo to lo + n - 1 of a byte string. -/
def natAt (bs : List Byte) (lo n : Nat) : Nat := natOfBytes (sliceBytes bs lo n)

def vecOfBytes (bs : List Byte) : Vec := BitVec.ofNat 512 (natOfBytes bs)
def bytesOfVec (v : Vec) : List Byte := bytesOfNat 64 v.toNat

/-- Whether every byte is zero. -/
def allZero (bs : List Byte) : Bool := bs.all (· == 0)

/-- Sext(x, n) as an integer (08 R188). -/
def sextNat (x n : Nat) : Int :=
  if x % 2 ^ n < 2 ^ (n - 1) then (x % 2 ^ n : Nat) else (x % 2 ^ n : Nat) - (2 ^ n : Nat)

/-- Sext(x, n) as a register value. -/
def sextWord (x n : Nat) : Word := BitVec.ofInt 64 (sextNat x n)

/-- SatS(t, n) (08 R188). -/
def satS (t : Int) (n : Nat) : Int :=
  if t < -(2 ^ (n - 1) : Nat) then -(2 ^ (n - 1) : Nat)
  else if t > (2 ^ (n - 1) : Nat) - 1 then (2 ^ (n - 1) : Nat) - 1 else t

/-- SatU(t, n) (08 R188). -/
def satU (t : Int) (n : Nat) : Int := if t < 0 then 0 else if t > (2 ^ n : Nat) - 1 then (2 ^ n : Nat) - 1 else t

/-- ⌊log2 x⌋ of a positive number. -/
def log2 (x : Nat) : Nat := Nat.log2 x

/-- Replaces element n of a list, if it has one. -/
def setNth {α : Type} : List α → Nat → α → List α
  | [], _, _ => []
  | _ :: r, 0, x => x :: r
  | y :: r, n + 1, x => y :: setNth r n x

/-- Removes element n of a list, if it has one. -/
def dropNth {α : Type} : List α → Nat → List α
  | [], _ => []
  | _ :: r, 0 => r
  | y :: r, n + 1 => y :: dropNth r n

/-- The numbers lo, lo + 1, …, lo + n - 1. -/
def range (lo : Nat) : Nat → List Nat
  | 0 => []
  | n + 1 => lo :: range (lo + 1) n

/-- Whether two byte ranges meet. -/
def overlap (a m b n : Nat) : Bool := a < b + n && b < a + m

/-- Of n bytes at address a, those in the i-th 8-byte word they touch: offset and length (06 R118). -/
def wordSlice (a n i : Nat) : Nat × Nat :=
  let lo := if i = 0 then 0 else 8 * i - a % 8
  (lo, min (8 - (if i = 0 then a % 8 else 0)) (n - lo))

/-- A bit set or cleared in a word. -/
def withBit (w : Word) (i : Nat) (b : Bool) : Word :=
  if b then w ||| (1#64 <<< i) else w &&& ~~~(1#64 <<< i)

/-- Bits [hi - 1 : lo] of a word replaced by x. -/
def withField (w : Word) (lo n : Nat) (x : Nat) : Word :=
  (w &&& ~~~(BitVec.ofNat 64 ((2 ^ n - 1) * 2 ^ lo))) ||| BitVec.ofNat 64 ((x % 2 ^ n) * 2 ^ lo)

/-- Bits of a word as a number. -/
def field (w : Word) (lo n : Nat) : Nat := fld w.toNat lo n

end Sys2Proof.Machine
end

