-- ==== Sys2Proof/Machine/Num.lean ====
section
/-!
DEFINITION. Exact numbers and their one rounding (08 R188, 03 R55, R71–R73, 04 R81): a finite value is a sign, a natural
significand, a binary exponent, and a sticky mark for a positive remainder below the significand's last place. Every
arithmetic function returns the exact value, or enough of it to round, and one of the two rounding functions ends it.
-/
namespace Sys2Proof.Machine

/-- Rounding modes (R188). -/
inductive RMode where
  | even | zero | up | down | away
  deriving DecidableEq, Repr

/-- An exact value. `fin neg m e sticky` is (−1)^neg × (m + δ) × 2^e, with 0 < δ < 1 where sticky and δ = 0 otherwise;
a zero keeps its sign. A NaN is signalling or quiet. -/
inductive Val where
  | nan (signalling : Bool)
  | inf (neg : Bool)
  | fin (neg : Bool) (m : Nat) (e : Int) (sticky : Bool)
  deriving DecidableEq, Repr

/-- Exception flags in the bit order of `VCTL` [4:0] (03 R73); `PREC` [36:32] has the reverse order. -/
def flagNx : Nat := 1
def flagUf : Nat := 2
def flagOf : Nat := 4
def flagDz : Nat := 8
def flagNv : Nat := 16

/-- A value and the flags that forming it raises. -/
abbrev Flagged := Val × Nat

def Val.zero (neg : Bool) : Val := .fin neg 0 0 false
def Val.ofInt (x : Int) : Val := .fin (x < 0) x.natAbs 0 false
def Val.isZero : Val → Bool
  | .fin _ 0 _ false => true
  | _ => false
def Val.neg : Val → Val
  | .nan q => .nan q
  | .inf s => .inf !s
  | .fin s m e k => .fin (!s) m e k
def Val.sign : Val → Bool
  | .nan _ => false
  | .inf s => s
  | .fin s _ _ _ => s

/-- ⌊log2 |x|⌋ of a nonzero finite value. -/
def Val.exp : Val → Int
  | .fin _ m e _ => (Nat.log2 m : Int) + e
  | _ => 0

/-! ### Rounding (R188) -/

/-- Whether a magnitude rounds up: `f` its floor, `half` how the rest compares with one half, `rest` whether there is
a rest. -/
def roundsUp (rm : RMode) (neg : Bool) (f : Nat) (half : Ordering) (rest : Bool) : Bool :=
  match rm with
  | .even => half == .gt || (half == .eq && f % 2 == 1)
  | .away => half != .lt
  | .up => rest && !neg
  | .down => rest && neg
  | .zero => false

/-- RoundAt (R188) with unit 2^u: the multiple of the unit, and whether the value changed. -/
def roundAt (neg : Bool) (m : Nat) (e : Int) (sticky : Bool) (u : Int) (rm : RMode) : Nat × Bool :=
  if u ≤ e then
    let f := m * 2 ^ (e - u).toNat
    (if sticky && (rm == .up && !neg || rm == .down && neg) then f + 1 else f, sticky)
  else
    let d := (u - e).toNat
    if Nat.log2 m + 1 < d then
      let rest := m != 0 || sticky
      (if roundsUp rm neg 0 .lt rest then 1 else 0, rest)
    else
      let f := m / 2 ^ d
      let r := m % 2 ^ d
      let h := 2 ^ (d - 1)
      let half : Ordering := if r < h then .lt else if r = h && !sticky then .eq else .gt
      let rest := r != 0 || sticky
      (if roundsUp rm neg f half rest then f + 1 else f, rest)

/-- A binary format: significand bits with the hidden bit, least normal exponent, and the largest finite value as a
significand of P bits and the exponent of its first bit. -/
structure Fmt where
  ebits : Nat
  mbits : Nat
  /-- Largest finite significand, mbits + 1 bits. -/
  top : Nat
  /-- Exponent of the largest finite value. -/
  emax : Int
  infinity : Bool
  deriving DecidableEq, Repr

def Fmt.bias (f : Fmt) : Int := 2 ^ (f.ebits - 1) - 1
def Fmt.emin (f : Fmt) : Int := 1 - f.bias
def Fmt.p (f : Fmt) : Nat := f.mbits + 1
def Fmt.bits (f : Fmt) : Nat := f.ebits + f.mbits + 1

/-- A format with IEEE infinities and NaNs. -/
def ieee (e m : Nat) : Fmt :=
  { ebits := e, mbits := m, top := 2 ^ (m + 1) - 1, emax := 2 ^ (e - 1) - 1, infinity := true }

def fp64 : Fmt := ieee 11 52
def fp32 : Fmt := ieee 8 23
def n19 : Fmt := ieee 8 10
def fp16 : Fmt := ieee 5 10
def bf16 : Fmt := ieee 8 7
def e5m2 : Fmt := ieee 5 2
/-- R56: the all-ones exponent holds normal values but for the all-ones fraction. -/
def e4m3 : Fmt := { ebits := 4, mbits := 3, top := 14, emax := 8, infinity := false }
def e3m4 : Fmt := { ebits := 3, mbits := 4, top := 30, emax := 4, infinity := false }
/-- R56: every encoding is finite. -/
def e3m2 : Fmt := { ebits := 3, mbits := 2, top := 7, emax := 4, infinity := false }
def e2m3 : Fmt := { ebits := 2, mbits := 3, top := 15, emax := 2, infinity := false }
def e2m1 : Fmt := { ebits := 2, mbits := 1, top := 3, emax := 2, infinity := false }

/-- Whether f × 2^u exceeds the format's largest finite value. -/
def Fmt.exceeds (fm : Fmt) (f : Nat) (u : Int) : Bool :=
  if f = 0 then false
  else
    let k := (Nat.log2 f : Int) + u
    if k = fm.emax then f * 2 ^ fm.mbits > fm.top * 2 ^ Nat.log2 f else k > fm.emax

/-- What RoundIEEE delivers: a multiple f of 2^u, or an overflow. -/
inductive Rounded where
  | num (neg : Bool) (f : Nat) (u : Int)
  | over (neg : Bool) (toInf : Bool)
  deriving DecidableEq, Repr

/-- Whether an overflow goes to infinity (R188). -/
def overInf (rm : RMode) (neg : Bool) : Bool :=
  match rm with
  | .even | .away => true
  | .up => !neg
  | .down => neg
  | .zero => false

/-- RoundIEEE of a finite nonzero value (R188), with its flags: tininess is detected after rounding (R71). -/
def roundIEEE (fm : Fmt) (rm : RMode) (neg : Bool) (m : Nat) (e : Int) (sticky : Bool) : Rounded × Nat :=
  let k := (Nat.log2 m : Int) + e
  if k > fm.emax + 1 then (.over neg (overInf rm neg), flagOf + flagNx)
  else
    let u := (if k < fm.emin then fm.emin else k) - fm.mbits
    let r := roundAt neg m e sticky u rm
    if fm.exceeds r.1 u then (.over neg (overInf rm neg), flagOf + flagNx)
    else
      let w := roundAt neg m e sticky (k - fm.mbits) rm
      let tiny := (Nat.log2 w.1 : Int) + (k - fm.mbits) < fm.emin
      (.num neg r.1 u, (if r.2 then flagNx else 0) + (if r.2 && tiny then flagUf else 0))

/-! ### Encoding and decoding (R55, R56) -/

def Fmt.signBit (fm : Fmt) (neg : Bool) : Nat := if neg then 2 ^ (fm.ebits + fm.mbits) else 0
def Fmt.infBits (fm : Fmt) (neg : Bool) : Nat := fm.signBit neg + (2 ^ fm.ebits - 1) * 2 ^ fm.mbits
/-- The canonical NaN of an IEEE format (R56). -/
def Fmt.nanBits (fm : Fmt) : Nat := (2 ^ fm.ebits - 1) * 2 ^ fm.mbits + 2 ^ (fm.mbits - 1)
def Fmt.maxBits (fm : Fmt) (neg : Bool) : Nat :=
  fm.signBit neg + (fm.emax + fm.bias).toNat * 2 ^ fm.mbits + (fm.top - 2 ^ fm.mbits)

/-- The encoding of f × 2^u, a value of the format. -/
def Fmt.encode (fm : Fmt) (neg : Bool) (f : Nat) (u : Int) : Nat :=
  if f = 0 then fm.signBit neg
  else
    let l := Nat.log2 f
    let k := (l : Int) + u
    if k < fm.emin then fm.signBit neg + f * 2 ^ (u - (fm.emin - fm.mbits)).toNat
    else
      let frac := if l ≤ fm.mbits then f * 2 ^ (fm.mbits - l) else f / 2 ^ (l - fm.mbits)
      fm.signBit neg + (k + fm.bias).toNat * 2 ^ fm.mbits + (frac - 2 ^ fm.mbits)

/-- Whether the encoding is a subnormal number. -/
def Fmt.subnormal (fm : Fmt) (x : Nat) : Bool := fld x fm.mbits fm.ebits == 0 && fld x 0 fm.mbits != 0

/-- The value of an encoding (R55, R56). -/
def Fmt.decode (fm : Fmt) (x : Nat) : Val :=
  let neg := fld x (fm.ebits + fm.mbits) 1 == 1
  let e := fld x fm.mbits fm.ebits
  let f := fld x 0 fm.mbits
  if fm.infinity && e = 2 ^ fm.ebits - 1 then
    if f = 0 then .inf neg else .nan (fld f (fm.mbits - 1) 1 == 0)
  else if !fm.infinity && (fm = e4m3 || fm = e3m4) && e = 2 ^ fm.ebits - 1 && f = 2 ^ fm.mbits - 1 then .nan false
  else if e = 0 then .fin neg f (fm.emin - fm.mbits) false
  else .fin neg (2 ^ fm.mbits + f) ((e : Int) - fm.bias - fm.mbits) false

/-- The bits of a rounded value in an IEEE format. -/
def Fmt.ofRounded (fm : Fmt) : Rounded → Nat
  | .num neg f u => fm.encode neg f u
  | .over neg toInf => if toInf then fm.infBits neg else fm.maxBits neg

/-- A value written in an IEEE format: rounded once, a NaN canonical; with `ftz` a subnormal result becomes a zero of
its sign with `uf` and `nx` (R73). -/
def Fmt.finish (fm : Fmt) (rm : RMode) (ftz : Bool) (v : Val) : Nat × Nat :=
  match v with
  | .nan _ => (fm.nanBits, 0)
  | .inf neg => (fm.infBits neg, 0)
  | .fin neg m e sticky =>
    if m = 0 && !sticky then (fm.signBit neg, 0)
    else
      let r := roundIEEE fm rm neg m e sticky
      let x := fm.ofRounded r.1
      if ftz && fm.subnormal x then (fm.signBit neg, r.2 ||| (flagUf + flagNx)) else (x, r.2)

/-! ### Exact arithmetic -/

/-- A finite value as an integer multiple of 2^e. -/
def scaled (neg : Bool) (m : Nat) (e lo : Int) : Int :=
  let x : Int := m * 2 ^ (e - lo).toNat
  if neg then -x else x

/-- a + b (IEEE 754-2019, R81): an exact zero sum of operands of opposite sign is negative only toward −∞. -/
def addVal (rm : RMode) (a b : Val) : Flagged :=
  match a, b with
  | .nan _, _ | _, .nan _ => (.nan false, 0)
  | .inf s, .inf t => if s = t then (.inf s, 0) else (.nan false, flagNv)
  | .inf s, _ => (.inf s, 0)
  | _, .inf t => (.inf t, 0)
  | .fin s m e j, .fin t n f k =>
    if m = 0 && n = 0 && !j && !k then (.zero (if s = t then s else rm == .down), 0)
    else
      let lo := if e < f then e else f
      let x := scaled s m e lo + scaled t n f lo
      if x = 0 then (.zero (rm == .down), 0) else (.fin (x < 0) x.natAbs lo (j || k), 0)

/-- a × b. -/
def mulVal (a b : Val) : Flagged :=
  match a, b with
  | .nan _, _ | _, .nan _ => (.nan false, 0)
  | .inf s, x => if x.isZero then (.nan false, flagNv) else (.inf (s != x.sign), 0)
  | x, .inf t => if x.isZero then (.nan false, flagNv) else (.inf (x.sign != t), 0)
  | .fin s m e j, .fin t n f k => (.fin (s != t) (m * n) (e + f) (j || k), 0)

/-- a / b to at least p + 3 significant bits with a sticky rest. -/
def divVal (p : Nat) (a b : Val) : Flagged :=
  match a, b with
  | .nan _, _ | _, .nan _ => (.nan false, 0)
  | .inf _, .inf _ => (.nan false, flagNv)
  | .inf s, x => (.inf (s != x.sign), 0)
  | x, .inf t => (.zero (x.sign != t), 0)
  | .fin s m e _, .fin t n f _ =>
    if n = 0 then if m = 0 then (.nan false, flagNv) else (.inf (s != t), flagDz)
    else if m = 0 then (.zero (s != t), 0)
    else
      let k := p + 3 + Nat.log2 n - Nat.log2 m
      (.fin (s != t) (m * 2 ^ k / n) (e - f - k) (m * 2 ^ k % n != 0), 0)

/-- ⌊√x⌋, by the bits of the root from bit n - 1 down. -/
def isqrt : Nat → Nat → Nat → Nat
  | 0, r, _ => r
  | n + 1, r, x => isqrt n (if (r + 2 ^ n) * (r + 2 ^ n) ≤ x then r + 2 ^ n else r) x

/-- ⌊√x⌋. -/
def sqrtNat (x : Nat) : Nat := isqrt (Nat.log2 x / 2 + 1) 0 x

/-- √a to at least p + 3 significant bits. -/
def sqrtVal (p : Nat) (a : Val) : Flagged :=
  match a with
  | .nan _ => (.nan false, 0)
  | .inf s => if s then (.nan false, flagNv) else (.inf false, 0)
  | .fin s m e _ =>
    if m = 0 then (.zero s, 0)
    else if s then (.nan false, flagNv)
    else
      let k := 2 * (p + 4) + (if e % 2 = 0 then 0 else 1)
      let x := m * 2 ^ k
      let r := sqrtNat x
      (.fin false r ((e - k) / 2) (r * r != x), 0)

/-- 1 / √a to at least p + 3 significant bits. -/
def rsqrtVal (p : Nat) (a : Val) : Flagged :=
  match a with
  | .nan _ => (.nan false, 0)
  | .inf s => if s then (.nan false, flagNv) else (.zero false, 0)
  | .fin s m e _ =>
    if m = 0 then (.inf s, flagDz)
    else if s then (.nan false, flagNv)
    else
      let odd := e % 2 ≠ 0
      let n := if odd then 2 * m else m
      let h := (if odd then e - 1 else e) / 2
      let t := p + 4 + Nat.log2 n
      let r := sqrtNat (2 ^ (2 * t) / n)
      (.fin false r (-h - t) (r * r * n != 2 ^ (2 * t)), 0)

/-- Compares finite or infinite values; none where one is a NaN. −0 equals +0. -/
def cmpVal (a b : Val) : Option Ordering :=
  match a, b with
  | .nan _, _ | _, .nan _ => none
  | .inf s, .inf t => some (if s = t then .eq else if s then .lt else .gt)
  | .inf s, _ => some (if s then .lt else .gt)
  | _, .inf t => some (if t then .gt else .lt)
  | .fin s m e _, .fin t n f _ =>
    let lo := if e < f then e else f
    some (compare (scaled s m e lo) (scaled t n f lo))

/-- The same with −0 below +0 (R71). -/
def cmpTotal (a b : Val) : Option Ordering :=
  match cmpVal a b with
  | some .eq => some (if a.sign = b.sign then .eq else if a.sign then .lt else .gt)
  | x => x

/-! ### Transcendental functions

Each is evaluated in fixed point with W fraction bits. The sum of all truncations and of the constants' errors stays
below 2^64 units of the last place; where the interval this leaves does not fix the first p + 5 bits, evaluations with twice
the bits follow, far beyond what any operand's length can need (log entry 19). The exact cases are taken out first; every
other value is irrational, so its rest is never zero. -/

/-- ln 2 × 2^w, from below: 2 atanh(1/3). -/
def ln2Fix (w : Nat) : Nat := ((range 0 (w / 3 + 2)).foldl (fun acc i => acc + 2 ^ (w + 1) / ((2 * i + 1) * 3 ^ (2 * i + 1))) 0)

/-- e^r × 2^w for 0 ≤ r < 1 given as r × 2^w: the Taylor series. -/
def expSum (w r : Nat) : Nat → Nat → Nat → Nat → Nat
  | 0, _, _, acc => acc
  | n + 1, i, term, acc =>
    let t := term * r / 2 ^ w / i
    if t = 0 then acc else expSum w r n (i + 1) t (acc + t)

/-- e^x for x × 2^w an integer: a significand with w fraction bits in [1, 4) and an exponent. -/
def expFix (w : Nat) (x : Int) : Nat × Int :=
  let l : Int := ln2Fix w
  let k := x / l
  let r := (x - k * l).toNat
  (expSum w r (w + 8) 1 (2 ^ w) (2 ^ w), k)

/-- 2 atanh(z) × 2^w for 0 ≤ z < 1/4 given as z × 2^w. -/
def atanhSum (w z2 : Nat) : Nat → Nat → Nat → Nat → Nat
  | 0, _, _, acc => acc
  | n + 1, i, pow, acc =>
    let t := pow / (2 * i + 1)
    if pow = 0 then acc else atanhSum w z2 n (i + 1) (pow * z2 / 2 ^ w) (acc + 2 * t)

/-- The first p + 5 bits of a value between a - 2^64 and a + 2^64 units of 2^-w, where they are fixed. -/
def fixed (p w : Nat) (neg : Bool) (a : Nat) (e : Int) : Option Val :=
  let s := Nat.log2 a - (p + 5)
  let lo := (a - 2 ^ 64) / 2 ^ s
  if 2 ^ 65 < a ∧ lo = (a + 2 ^ 64) / 2 ^ s then some (.fin neg lo ((s : Int) - w + e) true) else none

/-- A finite value × 2^w, rounded down. -/
def toFix (w : Nat) (neg : Bool) (m : Nat) (e : Int) : Int :=
  let x : Int := if 0 ≤ e + w then (m * 2 ^ (e + w).toNat : Nat) else (m / 2 ^ (-(e + w)).toNat : Nat)
  if neg then -x else x

/-- The first evaluation that fixes the result, each with twice the bits of the one before. -/
def untilFixed (attempt : Nat → Option Val) : Nat → Nat → Option Val
  | 0, _ => none
  | n + 1, w => (attempt w).orElse fun _ => untilFixed attempt n (2 * w)

/-- e^a for finite nonzero a with W fraction bits. -/
def expTry (p w : Nat) (neg : Bool) (m : Nat) (e : Int) : Option Val :=
  let r := expFix w (toFix w neg m e)
  fixed p w false r.1 r.2

/-- A fall-through of the evaluation: a free significand of p + 6 bits and a free exponent, with the result's sign. -/
def openVal (fn p : Nat) (neg : Bool) (m : Nat) (e : Int) (out : Bool) : Val :=
  let f := 4 * fn + (if neg then 2 else 0) + (if e < 0 then 1 else 0)
  .fin out (2 ^ (p + 5) + Config.roundedSignificand f m e.natAbs p % 2 ^ (p + 5)) (Config.roundedExponent f m e.natAbs p) true

/-- e^a (13 R272). -/
def expVal (p : Nat) (a : Val) : Flagged :=
  match a with
  | .nan _ => (.nan false, 0)
  | .inf s => (if s then .zero false else .inf false, 0)
  | .fin s m e _ =>
    if m = 0 then (.fin false 1 0 false, 0)
    else
      let k := (Nat.log2 m : Int) + e
      if k > 40 then (.fin false (2 ^ (p + 5)) (if s then -(2 ^ 40) else 2 ^ 40) true, 0)
      else if k < -(p + 12 : Int) then
        (if s then .fin false (2 ^ (p + 8) - 1) (-(p + 8 : Int)) true else .fin false (2 ^ (p + 8)) (-(p + 8 : Int)) true, 0)
      else ((untilFixed (fun w => expTry p w s m e) 13 (p + 160)).getD (openVal 0 p s m e false), 0)

/-- 2^a (R234): exact where a is an integer. -/
def exp2Val (p : Nat) (a : Val) : Flagged :=
  match a with
  | .nan _ => (.nan false, 0)
  | .inf s => (if s then .zero false else .inf false, 0)
  | .fin s m e _ =>
    if m = 0 then (.fin false 1 0 false, 0)
    else
      let k := (Nat.log2 m : Int) + e
      if k > 40 then (.fin false (2 ^ (p + 5)) (if s then -(2 ^ 40) else 2 ^ 40) true, 0)
      else if k < -(p + 12 : Int) then
        (if s then .fin false (2 ^ (p + 8) - 1) (-(p + 8 : Int)) true else .fin false (2 ^ (p + 8)) (-(p + 8 : Int)) true, 0)
      else
        let x := toFix 0 s m e
        if 0 ≤ e ∨ m % 2 ^ (-e).toNat = 0 then (.fin false 1 x false, 0)
        else
          let attempt := fun (w : Nat) =>
            let y := toFix w s m e
            let n := y / 2 ^ w
            let f := (y - n * 2 ^ w).toNat
            let r := f * ln2Fix w / 2 ^ w
            fixed p w false (expSum w r (w + 8) 1 (2 ^ w) (2 ^ w)) n
          ((untilFixed attempt 13 (p + 160)).getD (openVal 1 p s m e false), 0)

/-- log2 a (R234): exact where a is a power of two. The significand is taken in [√½, √2). -/
def log2Val (p : Nat) (a : Val) : Flagged :=
  match a with
  | .nan _ => (.nan false, 0)
  | .inf s => if s then (.nan false, flagNv) else (.inf false, 0)
  | .fin s m e _ =>
    if m = 0 then (.inf true, flagDz)
    else if s then (.nan false, flagNv)
    else
      let l := Nat.log2 m
      let k := (l : Int) + e
      if m = 2 ^ l then (if k = 0 then .zero false else .fin (k < 0) k.natAbs 0 false, 0)
      else
        let high := 2 * m * m > 2 ^ (2 * l + 2)
        let k := if high then k + 1 else k
        let one := if high then 2 ^ (l + 1) else 2 ^ l
        let attempt := fun (w : Nat) =>
          let z := (if m < one then one - m else m - one) * 2 ^ w / (m + one)
          let ln := atanhSum w (z * z / 2 ^ w) w 0 z 0
          let frac : Int := (ln * 2 ^ w / ln2Fix w : Nat)
          let y := k * 2 ^ w + (if m < one then -frac else frac)
          fixed p w (y < 0) y.natAbs 0
        ((untilFixed attempt 13 (p + 300)).getD (openVal 2 p s m e (k < 0)), 0)

/-- tanh a (R234). -/
def tanhVal (p : Nat) (a : Val) : Flagged :=
  match a with
  | .nan _ => (.nan false, 0)
  | .inf s => (.fin s 1 0 false, 0)
  | .fin s m e _ =>
    if m = 0 then (.zero s, 0)
    else
      let k := (Nat.log2 m : Int) + e
      if k ≥ 1 + (Nat.log2 (p + 10) : Int) then (.fin s (2 ^ (p + 8) - 1) (-(p + 8 : Int)) true, 0)
      else if 2 * k < -(p + 20 : Int) then (.fin s (m * 2 ^ (p + 10) - 1) (e - (p + 10 : Int)) true, 0)
      else
        let attempt := fun (w : Nat) =>
          let r := expFix w (toFix w false m (e + 1))
          let x := r.1 * 2 ^ r.2.toNat
          fixed p w s ((x - 2 ^ w) * 2 ^ w / (x + 2 ^ w)) 0
        ((untilFixed attempt 13 (3 * p + 400)).getD (openVal 3 p s m e s), 0)

end Sys2Proof.Machine
end

