-- ==== Sys2Proof/Machine/Assoc.lean ====
section
/-!
DEFINITION. Sparse tables: lists of (number, value) pairs with rising numbers, read with a default.
-/
namespace Sys2Proof.Machine

/-- A sparse table from numbers to values: keys strictly rising. -/
abbrev Assoc (α : Type) := List (Nat × α)

/-- The value under a key, if the table lists one. -/
def Assoc.find? {α : Type} : Assoc α → Nat → Option α
  | [], _ => none
  | (k, x) :: r, n => if k == n then some x else if n < k then none else Assoc.find? r n

/-- The value under a key, or the default. -/
def Assoc.get {α : Type} (t : Assoc α) (d : α) (n : Nat) : α := (t.find? n).getD d

/-- Puts a value under a key, keeping keys rising. -/
def Assoc.put {α : Type} : Assoc α → Nat → α → Assoc α
  | [], n, x => [(n, x)]
  | (k, y) :: r, n, x =>
    if k == n then (k, x) :: r
    else if n < k then (n, x) :: (k, y) :: r
    else (k, y) :: Assoc.put r n x

/-- Removes a key. -/
def Assoc.drop {α : Type} : Assoc α → Nat → Assoc α
  | [], _ => []
  | (k, y) :: r, n =>
    if k == n then r else if n < k then (k, y) :: r else (k, y) :: Assoc.drop r n

/-- Puts a value under a key, or removes the key when the value is the one an unlisted key reads as: equal tables
are then equal lists. -/
def Assoc.putC {α : Type} [DecidableEq α] (t : Assoc α) (d : α) (n : Nat) (x : α) : Assoc α :=
  if x = d then t.drop n else t.put n x

/-- Keys strictly rising. -/
def Assoc.rising {α : Type} : Assoc α → Bool
  | [] => true
  | [_] => true
  | (k, _) :: (l, y) :: r => k < l && Assoc.rising ((l, y) :: r)

end Sys2Proof.Machine
end

