-- ==== Sys2Proof/Machine/State.lean ====
section
/-!
DEFINITION. The state of one module, as plain data: every piece of state the manual gives it, the requests in
flight between its units, and the moves still to come (`inputs`). The comments name the rule that gives each piece;
a reset value no rule gives is the model's (log entries 1 to 5).
-/
namespace Sys2Proof.Machine

/-! ### What events carry -/

/-- A line that arrives from another module: its 64 bytes, or poison (20 R356 type 3). -/
inductive LineData where
  | poison
  | data (v : Vec)
  deriving DecidableEq, Repr

/-- What a collective engine pulled from one peer in another module at a step (07 R150, R151). -/
structure PeerData where
  rank : Nat
  mismatch : Bool
  unreachable : Bool
  data : List Byte
  deriving DecidableEq, Repr

/-- A link packet: route beat and body (20 R356). -/
structure LinkPacket where
  typ : Nat
  net : Nat
  src : Nat
  dst : Nat
  tag : Nat
  status : Nat
  body : List Byte
  /-- The port it came in by, whose buffer it lies in. -/
  via : Option Nat := none
  deriving DecidableEq, Repr

/-- A flit (20 R355): its header fields, whether its reserved bytes are zero and its tag verifies, and the packets its payload
completes. -/
structure Flit where
  seq : Nat
  ack : Nat
  kind : Nat
  reqCredits : Nat
  repCredits : Nat
  good : Bool
  packets : List LinkPacket
  deriving DecidableEq, Repr

/-- A packet of the deposit transport (20 R363). The header has no place for the sequence word that a deposit's last
packet raises, so its offset and value go beside it. -/
structure NetPacket where
  version : Nat
  opcode : Nat
  qp : Nat
  psn : Nat
  region : Nat
  offset : Nat
  len : Nat
  ackPsn : Nat
  nak : Nat
  data : List Byte
  advance : Option (Nat × Word) := none
  deriving DecidableEq, Repr

/-- A frame on an Ethernet port (20 R360, R361): the next hop, the peer's address, the UDP ports, and the transport packet. -/
structure NetFrame where
  port : Nat
  mac : List Byte
  ipv6 : Bool
  ip : List Byte
  srcPort : Nat
  dstPort : Nat
  packet : NetPacket
  deriving DecidableEq, Repr

/-- Where an error strikes (21 R378): a byte of memory, a word of a scalar, address, vector or mask register, a limb of a window
file, an accumulator of a tile, a 4-byte word of L1 by its local address, an 8-byte word of a line that an L1, the remote-line buffer or
the read-only part of a cluster's stash holds, by the line's global address, or a line of a tile's instruction cache. -/
inductive ErrSite where
  | mem (addr : Nat)
  | sreg (tid : Nat) (r : SReg)
  | areg (tid : Nat) (r : AReg)
  | vreg (tid : Nat) (r : VReg) (w : BitVec 3)
  | mreg (tid : Nat) (r : MReg)
  | limb (tid : Nat) (i : Nat)
  | acc (tile : Nat) (k : BitVec 4)
  | l1 (core : Nat) (word : Nat)
  | l1Line (core : Nat) (line : Nat) (w : BitVec 3)
  | remote (c : Nat) (line : Nat) (w : BitVec 3)
  | shared (c : Nat) (line : Nat) (w : BitVec 3)
  | code (tile : Nat) (line : Nat)
  deriving DecidableEq, Repr

/-- The arguments of an event row: the numbers say which unit, thread, launch, queue, request or register value the
event concerns (each event's meaning says which it reads); the rest is what arrives with it from outside. -/
structure EvArgs where
  a : Nat := 0
  b : Nat := 0
  c : Nat := 0
  v : Word := 0
  flag : Bool := false
  bytes : List Byte := []
  nats : List Nat := []
  slot : Option Nat := none
  line : Option LineData := none
  peers : List PeerData := []
  packet : Option LinkPacket := none
  flit : Option Flit := none
  net : Option NetPacket := none
  site : Option ErrSite := none
  deriving DecidableEq, Repr

/-- A move still to come: an event with its arguments, or the core that issues from now on. -/
inductive Move where
  | event (i : Instr) (x : EvArgs)
  | core (n : Nat)
  deriving DecidableEq, Repr

/-! ### Hardware threads (08 R165) -/

/-- A live window: its first limb in the window file and its length in limbs (04 R84). -/
structure Win where
  base : Nat
  len : Nat
  deriving DecidableEq, Repr

/-- One level of hardware loop (08 R165, 09 R204). -/
structure Loop where
  first : Addr := 0
  last : Addr := 0
  remaining : Word := 0
  armed : Bool := false
  deriving DecidableEq, Repr

/-- Status of a watch answer (05 R110). -/
inductive AnswerStatus where
  | normal | full | poison
  deriving DecidableEq, Repr

/-- A watch slot: free, placed (its request number), or answered (05 R108, R109). -/
inductive WatchSlot where
  | free
  | placed (va : Addr) (scope : Scope) (serial : Nat)
  | answered (va : Addr) (scope : Scope) (gpa : Nat) (value : Word) (status : AnswerStatus)
  deriving DecidableEq, Repr

/-- A reply slot (07 R137): free, reserved by a request (its packet, the hardware thread that sent it, which byte [9]
names, and the request's number), or holding a reply and its arrival number. -/
inductive ReplySlot where
  | free
  | reserved (msg : Vec) (tid serial : Nat)
  | reply (msg : Vec) (order : Nat)
  deriving DecidableEq, Repr

/-- An entry of the posted-request journal (07 R141): a message sent by a hardware thread under a number, or refused. -/
inductive JournalEntry where
  | free
  | sent (msg : Vec) (tid serial : Nat)
  | refused (msg : Vec) (status : Nat) (order : Nat)
  deriving DecidableEq, Repr

/-- A pending asynchronous cause (08 R187). -/
structure Pending where
  code : Nat
  sub : Nat := 0
  detail : Nat := 0
  fva : Addr := 0
  deriving DecidableEq, Repr

/-- Where one element of an access lies: own cluster, host memory, another cluster of this module, or a cluster of another
module (05 R97). -/
inductive Place where
  | own
  | host
  | cluster (c : Nat)
  | remote (m c : Nat)
  deriving DecidableEq, Repr

/-- One element of an access: its virtual and global physical address, size in bytes, lane or limb, place, and the
bytes a store carries or a read has returned (a whole line where another cluster's port served it); `got` says the
read was performed, `home` that its data has reached the core, `poison` that it returned poison; `nofill` that an
acquire or an `IFLUSH` has come between the request and its reply, so that the reply fills no copy (06 R123, R134);
`sent` that the request has left for another module's port (06 R129); `page` the size of the page its translation
maps (19 R344). -/
structure Elem where
  va : Addr
  pa : Nat
  size : Nat
  page : Nat := 0x10000
  lane : Nat := 0
  place : Place := .own
  bytes : List Byte := []
  got : Bool := false
  home : Bool := false
  poison : Bool := false
  readOnly : Bool := false
  nofill : Bool := false
  sent : Bool := false
  deriving DecidableEq, Repr

/-- What a returned load is written to. -/
inductive Dest where
  | sreg (d : SReg) (size : Nat) (signed : Bool)
  | vreg (d : VReg)
  | lanes (d : VReg) (width : Nat)
  | window (d : WReg)
  | prefetch (remote : Bool)
  /-- A sketch's flags byte, or an estimate (07 R162, R163): the scale exponent and whether each row's sign is −1; the elements are the flags byte
  and one counter of each row. -/
  | flags (d : SReg)
  | query (d : SReg) (e : Int) (signs : List Bool)
  /-- Kept for the instruction that waits for it before it completes. -/
  | keep
  deriving DecidableEq, Repr

/-- Operations of the atomics (10 R216). -/
inductive AmoOp where
  | add | and | or | xor | min | max | minu | maxu | swap | cas
  deriving DecidableEq, Repr

/-- An outstanding operation (10 R210): a load or pull, a store, an atomic, a sequence advance, or a release. -/
inductive OutKind where
  | load (dest : Dest) (order : MOrder) (counted : Bool)
  | store (release : Option Scope) (counted : Bool)
  | amo (op : AmoOp) (order : AOrder) (d : SReg) (y expected : Word)
  | seqadv (add : Bool) (scope : Scope) (d : SReg) (y : Word)
  | baradd (y : Word)
  | fence (scope : Scope)
  deriving DecidableEq, Repr

structure Out where
  serial : Nat
  kind : OutKind
  elems : List Elem := []
  /-- The virtual address of the access. -/
  va : Addr := 0
  /-- Its addresses are local physical: issued by a supervisor handler (19 R341). -/
  phys : Bool := false
  deriving DecidableEq, Repr

/-- A stall of `REALIGN` (09 R207) or a wait of `IDLE` (13 R287) in progress, or one that has ended. -/
inductive Hold where
  | idle
  | realign
  | done
  deriving DecidableEq, Repr

/-- A register word an uncorrectable error has struck (21 R379): of a vector register one of its eight. -/
inductive BadReg where
  | s (r : SReg)
  | a (r : AReg)
  | v (r : VReg) (w : BitVec 3)
  | m (r : MReg)
  | limb (i : Nat)
  deriving DecidableEq, Repr

/-- Supervisor registers of one thread (19 R347). -/
structure Sup where
  act : Bool := false
  lat : Bool := false
  why : Nat := 0
  cause : Word := 0
  epc : Addr := 0
  fva : Addr := 0
  sav0 : Word := 0
  sav1 : Word := 0
  sava : Addr := 0
  ctxa : Addr := 0
  kidx : Nat := 0
  klo : Word := 0
  khi : Word := 0
  kst : Nat := 0
  ridx : Word := 0
  rlo : Word := 0
  rhi : Word := 0
  rbusy : Bool := false
  /-- Whether the handler has saved the interrupted context (R348). -/
  saved : Bool := false
  /-- One more than the highest priority that has asked for the thread since the entry (R352). -/
  req : Nat := 0
  /-- Which of the interrupted context's `s30`, `s31` and `a6` an error has struck (21 R379). -/
  savBad : List BadReg := []
  deriving DecidableEq, Repr

/-- One hardware thread (08 R165). The defaults are the values before any task: where the manual gives none they
are the model's (log entry 2). -/
structure Thread where
  pc : Addr := 0
  s : Vector Word 32 := Vector.replicate 32 0
  a : Vector Addr 8 := Vector.replicate 8 0
  v : Vector Vec 32 := Vector.replicate 32 0
  m : Vector Mask 8 := Vector.replicate 8 0
  win : Vector (Option Win) 32 := Vector.replicate 32 none
  wfile : Assoc Word := []
  /-- PREC, reset 53 (04 R79). -/
  prec : Word := 53
  vctl : Word := 0
  utvec : Addr := 0
  ucause : Word := 0
  uepc : Addr := 0
  ufva : Addr := 0
  ujV : Bool := false
  ujIdx : Nat := 0
  ujSt : Nat := 0
  sqTrap : Bool := false
  sqDepth : Nat := 16
  /-- EGEOM: rows 1, row bytes 1 (08 R171). -/
  egeom : Word := 0x0000000100000001
  /-- ECARD: scope 2 (08 R171). -/
  ecard : Word := 0x200
  esstr : Word := 0
  edstr : Word := 0
  ld : Nat := 0
  st : Nat := 0
  cp : Nat := 0
  mx : Nat := 0
  /-- The two loop levels: outer first (09 R204). -/
  loop0 : Loop := {}
  loop1 : Loop := {}
  slots : Vector WatchSlot 8 := Vector.replicate 8 .free
  /-- Fill tag: the sequence word's global physical address and value (05 R105). -/
  fill : Option (Nat × Word) := none
  reps : Vector ReplySlot 16 := Vector.replicate 16 .free
  journal : Vector JournalEntry 16 := Vector.replicate 16 .free
  sq : List Vec := []
  inbox : Option Nat := none
  /-- Requests presented first after a restore (07 R142). -/
  spill : List Vec := []
  pend : List Pending := []
  outs : List Out := []
  hold : Option Hold := none
  bad : List BadReg := []
  sup : Sup := {}
  /-- The task the thread runs. -/
  task : Option Nat := none
  /-- Whether this thread of a pair has executed `TEXIT` and waits for the other (13 R277). -/
  exited : Bool := false
  /-- Halted by a trap inside the supervisor (19 R347). -/
  halted : Bool := false
  deriving DecidableEq, Repr

/-! ### Cores and tiles -/

/-- How a dirty 4-byte word stands to the other half of its 8-byte word (06 R118, R119): it may be performed by
itself, only after the other half where that is dirty, or only together with it, since one store wrote both. -/
inductive HalfLink
  | free | after | whole
  deriving DecidableEq, Repr

/-- A dirty 4-byte word of an L1 (05 R106), under key physical address / 4: its bytes, the thread that wrote it last and
those that wrote it since it became dirty, the address space, virtual address and page size of its translation (19 R344),
and how it stands to the other half of its word. -/
structure DirtyWord where
  val : BitVec 32
  tid : Nat
  wrote : List Nat := []
  asid : Nat
  va : Addr
  page : Nat := 0x10000
  link : HalfLink := .free
  deriving DecidableEq, Repr

/-- A clean copy of a line, under key global physical address / 64: bytes, poison marks of its eight words, whether its page
is marked read-only, the sequence tag a pull gave it (05 R105, R106), and the threads of the core that have written the
line since and whose writes it does not show (06 R120, R133): it serves none of their loads. -/
structure CopyLine where
  data : Vec
  poison : BitVec 8 := 0
  readOnly : Bool := false
  asid : Nat := 0
  va : Addr := 0
  tag : Option (Nat × Word) := none
  lacks : List Nat := []
  deriving DecidableEq, Repr

/-- One core: which of its threads runs (02 R40) and its L1 (05 R106). -/
structure Core where
  running : Nat := 0
  dirty : Assoc DirtyWord := []
  /-- Dirty words an uncorrectable error has struck (21 R378). -/
  dirtyBad : List Nat := []
  lines : Assoc CopyLine := []
  deriving DecidableEq, Repr

/-- One accumulator (12 R250): its elements by row * 64 + column (unlisted 0) and its flags. -/
structure Accum where
  data : Assoc (BitVec 32) := []
  sat : Bool := false
  tinv : Bool := false
  poison : Bool := false
  paired : Bool := false
  deriving DecidableEq, Repr

/-- A matrix instruction accepted and not yet complete (12 R251): the scalar operands read at issue, the formats of
its banks, and the bytes of the banks it reads and writes (address and length). -/
structure MxOp where
  serial : Nat
  instr : Instr
  tid : Nat
  x : Word := 0
  y : Word := 0
  fmtA : Word := 0
  fmtB : Word := 0
  spans : List (Nat × Nat) := []
  /-- Words of memory that a drain has written, by address / 8 (06 R118). -/
  landed : List Nat := []
  deriving DecidableEq, Repr

/-- One tile (12 R250). -/
structure Tile where
  /-- Bank format words (64 bits each), unlisted 0. -/
  fmt : Assoc Word := []
  cfg : BitVec 3 := 0
  acc : Assoc Accum := []
  /-- The redundant shadow elements: those that differ from the primary (12 R259). -/
  shadow : Assoc Accum := []
  sems : Vector Nat 8 := Vector.replicate 8 0
  queue : List MxOp := []
  /-- The task of the active pair (02 R48). -/
  pair : Option Nat := none
  /-- Job slot of the last pair that held the matrix state (20 R368). -/
  lastJob : Option Nat := none
  /-- Instruction-cache lines that may differ from memory, by physical address / 64 (06 R134). -/
  icache : Assoc Vec := []
  deriving DecidableEq, Repr

/-! ### Clusters -/

/-- A live key-table entry (10 R224). Base and length are in 4 KiB units. -/
structure KeyEntry where
  base : Nat
  len : Nat
  holder : Nat
  pending : Nat := 0xFF
  lender : Nat := 0xFF
  job : Nat := 0
  deriving DecidableEq, Repr

/-- A watch-table entry (05 R108). -/
structure WatchEntry where
  word : Nat
  threshold : Word
  /-- The waiter: the number of a thread's or an engine's watch, or the request that came over a link. -/
  tid : Nat
  serial : Nat
  link : Option LinkPacket := none
  deriving DecidableEq, Repr

/-- An inbox (07 R138): the task that holds it and whether by its striker, the job slot of the last binding, and the
waiting requests. -/
structure Inbox where
  bound : Option (Nat × Bool) := none
  job : Nat := 0
  msgs : List Vec := []
  deriving DecidableEq, Repr

/-- A stash range (05 R102): virtual base, units of 64 KiB, address space, and the job slot that set it. -/
structure StashRange where
  base : Addr
  len : Nat
  asid : Nat
  job : Nat
  deriving DecidableEq, Repr

/-- A stash line, under key local physical address / 64, or `roKey` of the global one where it is read-only. -/
structure StashLine where
  data : Vec
  poison : BitVec 8 := 0
  dirty : Bool := false
  owned : Bool := true
  tag : Option (Nat × Word) := none
  job : Nat := 0
  deriving DecidableEq, Repr

/-- What a sketch job does (07 R161, R163), on the sketch whose descriptor was read at issue. -/
inductive SkOp where
  | init (desc : List Byte)
  | update (f64 : Bool) (pairs : List (Word × Word))
  | add (src : Nat) (flags : BitVec 8)
  | scale (f : Word)
  | clear
  /-- Clears the flags once outstanding operation n of the thread has their value. -/
  | satClear (n : Nat)
  deriving DecidableEq, Repr

/-- A sketch descriptor as an instruction read it (07 R159). -/
structure Sketch where
  base : Nat
  d : Nat
  logw : Nat
  e : Int
  mulA : List Word
  mulC : List Word
  flags : BitVec 8 := 0
  deriving DecidableEq, Repr

inductive JobKind where
  | card
  /-- The copy of another cluster's region, under its lodging handle (05 R114). -/
  | lodgeCopy (owner handle : Nat)
  | sketch (sk : Sketch) (op : SkOp)
  | coll (members : List Nat) (rank : Nat)
  deriving DecidableEq, Repr

/-- An accepted engine job (07 R145). -/
structure Job where
  id : Nat
  kind : JobKind
  tid : Nat
  task : Option Nat := none
  /-- The cluster whose engine it is. -/
  cluster : Nat := 0
  asid : Nat := 0
  slot : Nat := 0
  graph : Option (Nat × Nat) := none
  /-- Holder code of the engine that runs it. -/
  engine : Nat
  card : List Byte := []
  reads : List Nat := []
  writes : List Nat := []
  started : Bool := false
  partsDone : List Nat := []
  /-- Parts whose line reads have been sent to another module: the address of each line and the size of its page. -/
  asked : Assoc (List (Nat × Nat)) := []
  /-- Words of its source that the engine has read before the rest of it: byte and mark of each, by address / 8 (06 R118). -/
  ahead : Assoc (List (Byte × Nat)) := []
  /-- Of parts that have landed in part: the 8-byte words that have, and whether a read of the part has failed (06 R118). -/
  landed : Assoc (List Nat × Bool) := []
  /-- Words of its destination, by address / 8, that its rows have left poisoned (07 R146). -/
  spoilt : List Nat := []
  /-- Watches a collective engine has placed on its peers' words, by rank: the request's number and its answer (07 R153). -/
  watches : Assoc (Nat × Option AnswerStatus) := []
  steps : Nat := 0
  /-- Key-table entries lent to it. -/
  loans : List Nat := []
  cancelled : Bool := false
  status : Nat := 0
  serial : Nat := 0
  /-- Addresses are local physical: issued by a supervisor handler (19 R341). -/
  phys : Bool := false
  /-- A conversion copy's source and destination formats and the source bank's address (03 R70). -/
  conv : Option (Word × Word × Nat) := none
  /-- A decoder's bitstream; a lodge card's receipt once its lodging has been decided. -/
  data : List Byte := []
  deriving DecidableEq, Repr

/-- The lines of other modules a job has asked for and not had, each with the size of its page: those of the parts that have not landed, of a
decoder's bitstream until it starts. -/
def Job.unanswered (j : Job) : List (Nat × Nat) :=
  let past := j.kind == .card && j.card.headD 0 == 4 && j.started
  if !past then (j.asked.filter fun a => !j.partsDone.contains a.1).flatMap (·.2) else []

/-- A lodging of the cluster (05 R114). -/
structure Lodging where
  copyBase : Nat
  neighbour : Nat
  word : Nat
  value : Word
  len : Nat
  src : Nat
  job : Nat
  complete : Bool := false
  deriving DecidableEq, Repr

/-- One cluster. -/
structure Cluster where
  keys : Assoc KeyEntry := []
  watches : List WatchEntry := []
  inboxes : Assoc Inbox := []
  /-- Ways of scratch, stash and protected roles (05 R100); protected ways before firmware: log entry 3. -/
  scratch : Nat := 23
  stash : Nat := 0
  prot : Nat := 1
  ranges : List StashRange := []
  stashLines : Assoc StashLine := []
  remote : Assoc CopyLine := []
  /-- Sequence words the remote-line buffer tracks, longest tracked first (05 R105). -/
  tracked : List Nat := []
  jobs : List Job := []
  lodgings : Assoc Lodging := []
  /-- Tier-two bytes lodged here by other clusters: base and length. -/
  lodged : List (Nat × Nat) := []
  svec : Addr := 0
  sgrace : Nat := 50
  /-- REMAP (21 R376). -/
  remapEn : Bool := true
  remapThr : Nat := 15
  remapSwaps : Nat := 0
  /-- Channel of each 2 MiB region, where it differs from r mod 4. -/
  remapTable : Assoc Nat := []
  /-- Consecutive windows in which each channel was over the threshold, and windows since the last swap. -/
  remapRuns : Assoc Nat := []
  remapSince : Nat := 10
  /-- Tokens held: cluster store and HBM, by job slot (07 R154). -/
  tokCs : Assoc Nat := []
  tokHb : Assoc Nat := []
  /-- Rates in force since the last refill, in MB/s, by job slot (18 R337). -/
  rateCs : Assoc Nat := []
  rateHb : Assoc Nat := []
  deriving DecidableEq, Repr

/-! ### Work (02 R27) -/

inductive WorkState where
  | running | complete | cancelled | refused
  deriving DecidableEq, Repr

/-- A launch (02 R32, R33). -/
structure Launch where
  handle : Nat
  slot : Nat
  tile : Bool
  windows : Nat
  split : List Nat
  watchdog : Nat
  spillCap : Nat
  header : Addr
  entry : Addr := 0
  spillBase : Addr := 0
  spillStride : Int := 0
  mask : Word
  id : Word
  root : Nat := 0
  state : WorkState := .running
  cause : Nat := 0
  /-- Tasks not yet ended. -/
  count : Nat := 0
  cancel : Bool := false
  /-- Its cancellation was asked for by software (21 R381). -/
  asked : Bool := false
  /-- Queue and entry, or graph run and node, it belongs to. -/
  queue : Option (Nat × Nat) := none
  node : Option (Nat × Nat) := none
  /-- Places of the overflow areas that hold descriptors, by cluster (02 R38). -/
  spilled : Assoc (List Nat) := []
  deriving DecidableEq, Repr

/-- A task parked in `TJOIN` (02 R35): the context of the thread that joins, that of a pair's other thread with the
tile state, and the hardware thread left. -/
structure Parked where
  th : Thread
  other : Option Thread := none
  tile : Option Tile := none
  tid : Nat
  deriving DecidableEq, Repr

inductive TaskState where
  | ready
  /-- Queued; its first instruction waits for the release of its `TSPAWN`, operation `serial` of thread `tid` (13 R278). -/
  | held (tid serial : Nat)
  | running
  | parked (p : Parked)
  /-- Its contexts lie in images (19 R349). -/
  | saved
  | ended (cancelled : Bool) (record : Vec)
  deriving DecidableEq, Repr

/-- Where a queued task's descriptor lies (02 R38): in the dispatcher's queue on chip, at a place of the launch's overflow
area, or at the launch unit, which holds a root task the queue has no room for. -/
inductive DescPlace where
  | chip
  | area (i : Nat)
  | launchUnit
  deriving DecidableEq, Repr

/-- A task (02 R34). -/
structure Task where
  id : Nat
  launch : Nat
  parent : Option Nat
  path : List Nat
  entry : Addr
  args : Vec
  spawned : Nat := 0
  joined : Nat := 0
  state : TaskState := .ready
  cancel : Bool := false
  /-- Placement (02 R36, R37): package core or package tile, and the canonical one of deterministic mode. -/
  unit : Nat := 0
  canon : Nat := 0
  desc : DescPlace := .chip
  /-- Threads it runs on (two for a pair: stager, striker). -/
  threads : List Nat := []
  /-- The stager's record of a pair (13 R277). -/
  record : Vec := 0
  deriving DecidableEq, Repr

/-- A graph node (18 R329). -/
structure Node where
  kind : Nat
  selector : Nat
  succs : List Nat
  word : Addr
  v : Word
  command : List Byte
  /-- Regions of each successor edge: virtual base and length in units. -/
  edges : List (List (Addr × Nat))
  deriving DecidableEq, Repr

inductive NodeState where
  | idle | started | complete | cancelled
  deriving DecidableEq, Repr

/-- A run of a resident graph. -/
structure GraphRun where
  handle : Nat
  states : List NodeState
  /-- Nodes named by a completed predecessor and due to start. -/
  due : List Nat
  queue : Option (Nat × Nat) := none
  cancel : Bool := false
  cause : Nat := 0
  deriving DecidableEq, Repr

/-- A resident graph, under key die * 64 + index. -/
structure Graph where
  slot : Nat
  nodes : List Node
  run : Option GraphRun := none
  deriving DecidableEq, Repr

/-- The outcome of a graph that has ended, under its handle (13 R284). -/
structure GraphEnd where
  slot : Nat
  state : WorkState
  cause : Nat
  deriving DecidableEq, Repr

/-- What a host queue's started entry is (18 R331). -/
inductive EntryWork where
  | launch (h : Nat)
  | graph (g h : Nat)
  | phase
  | refused
  deriving DecidableEq, Repr

structure QEntry where
  idx : Nat
  work : EntryWork
  done : Bool := false
  deriving DecidableEq, Repr

inductive Residency where
  | resident | switchingOut | saved | switchingIn
  deriving DecidableEq, Repr

/-- A host queue (18 R331–R333). -/
structure Queue where
  base : Nat := 0
  k : Nat := 0
  slot : Nat := 0
  enable : Bool := false
  msix : Bool := false
  tail : Nat := 0
  savedTail : Option Nat := none
  prog : Nat := 0
  sig : Nat := 0
  err : Bool := false
  cause : Nat := 0
  started : Nat := 0
  entries : List QEntry := []
  where_ : Residency := .resident
  /-- QPROG as it was when a switch began: what a read returns meanwhile (18 R333). -/
  shown : Word := 0
  /-- Lines 0 and 1 of the next entry that the launch unit has read ahead (18 R332). -/
  ahead : Assoc (List Byte) := []
  deriving DecidableEq, Repr

/-- TDI states (20 R365). -/
inductive TdiState where
  | unlocked | locked | run | error
  deriving DecidableEq, Repr

/-- What a job slot's job is ending for (20 R365, R368; 21 R371): its interface left RUN by an error, `JOBCTL.en` was
cleared, its interface stops, or its partition is reset. -/
inductive Ending where
  | error | off | stop | reset
  deriving DecidableEq, Repr

/-- A job slot (18 R327, R328; 19 R342; 20 R365; 21 R370). -/
structure Slot where
  en : Bool := false
  prio : Nat := 0
  det : Bool := false
  prog : Word := 0
  asid : Nat := 0
  ptb : Nat := 0
  part : Nat := 0
  grpt : Nat := 0
  grpn : Nat := 0
  tdi : TdiState := .unlocked
  /-- Keys of the TDI are live (20 R367, R368). -/
  keysLive : Bool := false
  ending : Option Ending := none
  /-- IDE stream keys programmed (20 R366). -/
  ide : Option Nat := none
  /-- Token buckets by cluster: TBCS and TBHB (18 R337). -/
  tbcs : Assoc Word := []
  tbhb : Assoc Word := []
  deriving DecidableEq, Repr

/-- A saved context (19 R349): where its image lies and the bytes written there. -/
structure Image where
  addr : Nat
  cluster : Nat
  tid : Nat
  tile : Nat
  demand : Nat
  slot : Nat
  task : Option Nat
  th : Thread
  tileState : Option Tile := none
  bytes : List Byte := []
  deriving DecidableEq, Repr

/-! ### Requests in flight -/

/-- A watch request on its way to the owner (05 R108). -/
structure WatchReq where
  tid : Nat
  /-- Its address is local physical: placed by a supervisor handler (19 R341). -/
  phys : Bool := false
  serial : Nat
  va : Addr
  page : Nat := 0x10000
  asid : Nat
  pa : Nat
  place : Place
  threshold : Word
  scope : Scope
  link : Option LinkPacket := none
  deriving DecidableEq, Repr

/-- A watch answer on its way to its slot (05 R109). -/
structure WatchAns where
  tid : Nat
  serial : Nat
  gpa : Nat
  value : Word
  status : AnswerStatus
  deriving DecidableEq, Repr

/-- A request message on its way to a cluster of this module (07 R136), and its sender's job slot. -/
structure Flight where
  msg : Vec
  slot : Nat
  deriving DecidableEq, Repr

/-- The acceptance or refusal of a posted request on its way back to the hardware thread and entry its byte [9] names (07 R141). -/
structure PostFlight where
  tid : Nat
  entry : Nat
  status : Nat := 0
  /-- The port that answers, and the number of its answer (06 R129). -/
  port : Nat := 0
  order : Nat := 0
  deriving DecidableEq, Repr

/-! ### Links and network (chapter 20) -/

inductive PortState where
  | down | training | up | failed
  deriving DecidableEq, Repr

/-- A Narlor port (20 R355, R358). -/
structure Port where
  en : Bool := false
  state : PortState := .down
  peer : Nat := 0
  sw : Bool := false
  retry : Nat := 0
  txSeq : Nat := 0
  rxSeq : Nat := 0
  reqCredits : Nat := 512
  repCredits : Nat := 512
  /-- Sent flits not yet acknowledged, oldest first: sequence, packets, attempts. -/
  unacked : List (Nat × List LinkPacket × Nat) := []
  /-- A retry request, or an acknowledgement of data, is owed to the far end. -/
  wantRetry : Bool := false
  owesAck : Bool := false
  /-- Beats of its request and reply buffers freed since its last flit. -/
  reqFreed : Nat := 0
  repFreed : Nat := 0
  /-- The flits it has sent, oldest first. -/
  sent : List Flit := []
  deriving DecidableEq, Repr

/-- A receive or send in progress on a queue pair (20 R361, R363). -/
structure Transfer where
  read : Bool := false
  base : Nat := 0
  cluster : Nat := 0
  va : Addr := 0
  region : Nat := 0
  offset : Nat := 0
  len : Nat := 0
  doneBytes : Nat := 0
  firstPsn : Nat := 0
  flags : Nat := 0
  seqOff : Nat := 0
  seqVal : Word := 0
  tag : Word := 0
  idx : Nat := 0
  /-- Of the packet that arrives, the lines of a deposit's or the 8-byte words of a read's that have landed before the rest. -/
  landed : List Nat := []
  deriving DecidableEq, Repr

/-- A queue pair of the network engine (20 R361). -/
structure QPair where
  ready : Bool := true
  error : Bool := false
  port : Nat := 0
  cluster : Nat := 0
  slot : Nat := 0
  domain : Nat := 0
  remoteQp : Nat := 0
  k : Nat := 4
  ring : Addr := 0
  bell : Addr := 0
  cring : Addr := 0
  cseq : Addr := 0
  /-- Next PSN to send, first PSN not acknowledged, next PSN expected. -/
  txPsn : Nat := 0
  ackPsn : Nat := 0
  rxPsn : Nat := 0
  resends : Nat := 0
  taken : Nat := 0
  finished : Nat := 0
  /-- Work entries taken and not complete, in index order, and the packets sent and not acknowledged. -/
  sends : List Transfer := []
  unacked : List NetPacket := []
  /-- The deposit that arrives. -/
  recv : Option Transfer := none
  /-- The engine's watch on the doorbell word, by its number, until it hears the answer (R361). -/
  watch : Option Nat := none
  /-- Peer addresses: entry bytes [103:80], and whether they are of IPv6. -/
  peer : List Byte := []
  ipv6 : Bool := false
  deriving DecidableEq, Repr

/-- A registered region of the network engine (20 R362). -/
structure Region where
  valid : Bool := false
  gen : Nat := 0
  cluster : Nat := 0
  slot : Nat := 0
  access : Nat := 0
  domain : Nat := 0
  base : Addr := 0
  len : Nat := 0
  ret : Nat := 0xFF
  closing : Bool := false
  deriving DecidableEq, Repr

/-- Registers and tables of the network engine (20 R360). -/
structure Net where
  cfg : Word := 0
  qpt : Nat := 0
  rgt : Nat := 0
  qpIdx : Nat := 0
  qpStatus : Nat := 0
  qpBusy : Bool := false
  rgIdx : Nat := 0
  rgStatus : Nat := 0
  rgBusy : Bool := false
  qps : Assoc QPair := []
  regions : Assoc Region := []
  /-- Frames put on the Ethernet ports, oldest first. -/
  sent : List NetFrame := []
  deriving DecidableEq, Repr

/-- The algorithms of the SPDM responder (20 R369). -/
inductive SpdmAlg where
  | ecdsaP384 | sha512 | secp384r1 | aes256Gcm
  deriving DecidableEq, Repr

/-- The requests the SPDM responder supports (20 R369). -/
inductive SpdmRequest where
  | getVersion | getCapabilities | negotiateAlgorithms | getDigests | getCertificate | challenge | getMeasurements | keyExchange
  | finish | endSession | vendorDefined
  deriving DecidableEq, Repr

/-- An SPDM response (20 R369). -/
inductive Response where
  | none
  | error (code : Nat)
  | notReady
  | version (major minor : Nat)
  | capabilities (requests : List SpdmRequest)
  | algorithms (signature hash exchange session : SpdmAlg)
  | digests (d : List Byte)
  | certificate (part : List Byte)
  | challenge (sig : List Byte)
  | measurements (blocks : List (Nat × List Byte)) (sig : List Byte)
  | keyExchange (share : List Byte)
  | finished
  | ended
  | tdi (state : TdiState)
  | report (slot : Nat) (dies : List Nat) (asid ptb : Nat) (bar : List (Nat × Nat)) (regions : List Nat)
  | ideKm
  deriving DecidableEq, Repr

/-- The SPDM responder's session (20 R369). -/
structure Spdm where
  versioned : Bool := false
  capable : Bool := false
  negotiated : Bool := false
  secret : Option (List Byte) := none
  open_ : Bool := false
  resp : Response := .none
  deriving DecidableEq, Repr

/-! ### Module-wide registers -/

/-- Fused data: the variant, harvested package tiles, cores whose window file was repaired to 192 limbs, and the
fused firmware key digest and minimum security version (01 R11, R25; 04 R85; 18 R326; 21 R374). -/
structure Fuse where
  lite : Bool := false
  harvested : List Nat := []
  repaired : List Nat := []
  keyDigest : List Byte := []
  minSvn : Nat := 0
  deriving DecidableEq, Repr

/-- Host and fleet registers in BAR0 (18, 20, 21). -/
structure Regs where
  /-- MSTAT.state: 1 awaiting image, 2 running, 3 failed (18 R325). -/
  mstate : Nat := 1
  /-- MSTAT.state has read 2 since reset (20 R369). -/
  ran : Bool := false
  svn : Nat := 0
  fwaddr : Word := 0
  fwlen : Word := 0
  fwbusy : Bool := false
  fwcode : Nat := 0
  /-- The image under verification: address and length taken by `FWGO`. -/
  fwAt : Word := 0
  fwBytes : Word := 0
  herrV : Bool := false
  herrOvf : Bool := false
  herrCause : Nat := 0
  herrAddr : Word := 0
  ltol : Vector (BitVec 32) 2 := Vector.replicate 2 0
  pstate : Vector Nat 2 := Vector.replicate 2 0
  plim : Word := 2800
  /-- Arithmetic clock in MHz, 1,800 unthrottled (00 R2, 18 R336). -/
  clock : Nat := 1800
  htlbva : Word := 0
  htlbvh : Word := 0
  htlbBusy : Bool := false
  htlbDone : Nat := 0
  modnum : Nat := 0
  pcfg : Bool := false
  glAddr : Vector Nat 2 := Vector.replicate 2 0
  glBusy : Vector Bool 2 := Vector.replicate 2 false
  glStatus : Vector Nat 2 := Vector.replicate 2 0
  glNode : Vector Nat 2 := Vector.replicate 2 0
  /-- The command a graph loader is performing. -/
  glCmd : Vector Nat 2 := Vector.replicate 2 0
  evbase : Nat := 0
  evk : Nat := 0
  even_ : Bool := false
  evirq : Bool := false
  evhead : Nat := 0
  evtail : Nat := 0
  evlost : Nat := 0
  /-- NLROUTE, unlisted 0 (20 R358). -/
  nlroute : Assoc Nat := []
  /-- Keyhole ports whose link is up. -/
  keyhole : List Nat := []
  /-- FENCEM words, unlisted 0 (21 R373). -/
  fencem : Assoc Word := []
  /-- Key handovers that wait for an engine's jobs (18 R334). -/
  keyhands : List Word := []
  /-- Measurement digests taken at verification (18 R326). -/
  imageDigest : List Byte := []
  svnDigest : List Byte := []
  deriving DecidableEq, Repr

/-! ### The module -/

/-- An invalidation in progress (19 R344): its operand and whose it is (a thread, or the host port). -/
structure Invalidation where
  va : Nat
  operand : Word
  tid : Option Nat
  deriving DecidableEq, Repr

/-- A translation that a TLB, walk cache or ingress cache may hold (19 R340): its address space, the virtual base and size of its page, the
global physical address of the page, and its permissions. -/
structure CachedLeaf where
  asid : Nat
  va : Nat
  page : Nat
  pa : Nat
  w : Bool
  x : Bool
  deriving DecidableEq, Repr

/-- The state of one module. -/
structure State where
  threads : Assoc Thread := []
  cores : Assoc Core := []
  tiles : Assoc Tile := []
  clusters : Assoc Cluster := []
  /-- Memory bytes by physical address: device memory and the host aperture (05 R96); an unlisted byte reads 0. -/
  mem : List Host.Cell := []
  /-- Poison marks: physical address / 8 of the marked words, rising (21 R378). -/
  poison : List Nat := []
  slots : Vector Slot 16 := Vector.replicate 16 {}
  launches : Assoc Launch := []
  tasks : Assoc Task := []
  graphs : Assoc Graph := []
  graphEnds : Assoc GraphEnd := []
  queues : Assoc Queue := []
  images : Assoc Image := []
  nextHandle : Nat := 1
  nextTask : Nat := 0
  /-- Requests in flight. -/
  watchReqs : List WatchReq := []
  watchAnss : List WatchAns := []
  requests : List Flight := []
  replies : List Vec := []
  accepts : List PostFlight := []
  refusals : List PostFlight := []
  /-- Requests that arrived over the fabric and replies and requests due to leave. -/
  ingress : List LinkPacket := []
  egress : List LinkPacket := []
  /-- Replies a keyhole port has given, oldest first: stack and packet (20 R359). -/
  keyholeOut : List (Nat × LinkPacket) := []
  /-- Packets in the keyhole ports' buffers, oldest first, and replies that wait to leave in a flit: stack and packet. -/
  keyholeIn : List (Nat × LinkPacket) := []
  keyholeSend : List (Nat × LinkPacket) := []
  /-- Line reads sent to other modules' keyhole ports, oldest first (20 R359). -/
  keyholeAsks : List LinkPacket := []
  ports : Vector Port 18 := Vector.replicate 18 {}
  /-- The flit layers of the keyhole ports, by stack (20 R359); `Regs.keyhole` says which are up. -/
  keyPorts : Vector Port 8 := Vector.replicate 8 {}
  net : Net := {}
  regs : Regs := {}
  fuse : Fuse := {}
  spdm : Spdm := {}
  /-- Attachment map: 2 MiB unit to TDI (20 R367). -/
  attach : Assoc Nat := []
  /-- 2 MiB units whose keys were zeroised (20 R368): every word reads as poison but those listed, written since. -/
  stale : Assoc (List Nat) := []
  /-- Ranges by source module * 16 + index: base and length in 4 KiB units, and keyhole (19 R346). -/
  ranges : Assoc (Nat × Nat × Bool) := []
  invalidations : List Invalidation := []
  /-- Translations that accesses have used since their last invalidation (19 R340). -/
  tlb : List CachedLeaf := []
  /-- MSI-X vectors signalled, oldest first (18 R322). -/
  msix : List Nat := []
  counters : Assoc Word := []
  snapshot : Assoc Word := []
  /-- The number of the last snapshot; 0 before the first (21 R382). -/
  snapAt : Nat := 0
  /-- Bytes that 2 MiB region r of cluster c's HBM slice has served in the window, under key 4,096c + r (21 R376). -/
  served : Assoc Nat := []
  /-- Cancellation requests whose grace period runs: tasks (02 R43). -/
  grace : List Nat := []
  /-- Data returned to the host by its last BAR2 or BAR0 read (18 R323). -/
  hostData : List Byte := []
  hostPoison : Bool := false
  /-- Arguments of the event being executed. -/
  ev : EvArgs := {}
  /-- The model's own: moves to come, the issuing core, and the counter of fresh values and request numbers
  (log entry 5). -/
  inputs : List Move := []
  cur : Nat := 0
  serial : Nat := 0
  /-- The last issue stalled or waited: with no move to come, the step lets an owed event happen next. -/
  stalled : Bool := false
  deriving DecidableEq, Repr

/-- Why the machine stops. No architectural situation does so. -/
inductive Fault where
  /-- `cur` names no core of 01 R10; raised by `step` alone. Safe: no run from reset reaches it, since a move that
  names no core is ignored. -/
  | noSuchCore
  deriving DecidableEq, Repr

/-- Why an instruction has no meaning. -/
inductive Refusal where
  /-- The instruction has no meaning in this model, by its mnemonic; raised by `exec`'s refused arms alone. Safe. -/
  | notModelled (mnemonic : String)
  deriving DecidableEq, Repr

/-- The module right after power-up or a module reset (00 R7, 05 R98, 18 R325): it awaits a firmware image, with
every queue, job slot and partition disabled and nothing in memory. -/
def State.reset : State := {}

end Sys2Proof.Machine
end

