-- ==== Sys2Proof/Machine/Memory.lean ====
section
/-!
DEFINITION. The physical memories: where each space lies (05 R96), bytes and poison marks at the point of truth
(06 R118, 21 R378), and the evaluation of watches after a write (05 R108). Local physical addresses here; the
module number of a global address is its bits [53:44] (00 R6).
-/
namespace Sys2Proof.Machine

/-! ### The address map (05 R96) -/

/-- Where a local physical address lies, with the owning cluster and the offset within the part. -/
inductive Space where
  | hbm (c off : Nat)
  | tier2 (c off : Nat)
  | store (c off : Nat)
  | bank (c t b off : Nat)
  | host (off : Nat)
  | hole
  deriving DecidableEq, Repr

def localOf (gpa : Nat) : Nat := gpa % 2 ^ 44
def moduleOf (gpa : Nat) : Nat := gpa / 2 ^ 44 % 2 ^ 10

def hbmBase (c : Nat) : Nat := c * 0x200000000
def tier2Base (c : Nat) : Nat := 0x20000000000 + c * 0x800000000
def storeBase (c : Nat) : Nat := 0x40000000000 + c * 0x800000
def bankBase (c t b : Nat) : Nat := 0x40100000000 + c * 0x1000000 + t * 0x200000 + b * 0x20000
def hostBase : Nat := 0x80000000000

/-- 05 R96: the space of a local physical address, backed or not. -/
def spaceOf (a : Nat) : Space :=
  if a < 0x8000000000 then .hbm (a / 0x200000000) (a % 0x200000000)
  else if a < 0x20000000000 then .hole
  else if a < 0x20000000000 + 64 * 0x800000000 then
    .tier2 ((a - 0x20000000000) / 0x800000000) ((a - 0x20000000000) % 0x800000000)
  else if a < 0x40000000000 then .hole
  else if a < 0x40000000000 + 64 * 0x800000 then
    .store ((a - 0x40000000000) / 0x800000) ((a - 0x40000000000) % 0x800000)
  else if a < 0x40100000000 then .hole
  else if a < 0x40100000000 + 64 * 0x1000000 then
    let o := a - 0x40100000000
    .bank (o / 0x1000000) (o % 0x1000000 / 0x200000) (o % 0x200000 / 0x20000) (o % 0x20000)
  else if a < hostBase then .hole
  else if a < 2 ^ 44 then .host (a - hostBase)
  else .hole

def Space.cluster? : Space → Option Nat
  | .hbm c _ | .tier2 c _ | .store c _ | .bank c _ _ _ => some c
  | .host _ | .hole => none

/-- Bytes of a tier-two slice (00 R2, R3). -/
def tier2Size (s : State) : Nat := if s.fuse.lite then 0x300000000 else 0x600000000

/-- Whether package tile n is present (01 R11). -/
def tilePresent (s : State) (n : Nat) : Bool := n < Config.tiles && !s.fuse.harvested.contains n

def State.cluster (s : State) (c : Nat) : Cluster := s.clusters.get {} c
def State.setCluster (s : State) (c : Nat) (x : Cluster) : State := { s with clusters := s.clusters.put c x }
def State.updCluster (s : State) (c : Nat) (f : Cluster → Cluster) : State := s.setCluster c (f (s.cluster c))

/-- Whether a byte of a space exists (05 R96, R101; 01 R11). -/
def Space.backed (s : State) : Space → Bool
  | .hbm _ _ => true
  | .tier2 _ o => o < tier2Size s
  | .store c o => o < (s.cluster c).scratch * 0x40000
  | .bank c t _ _ => t < 6 && tilePresent s (c * 6 + t)
  | .host _ => true
  | .hole => false

def backed (s : State) (a : Nat) : Bool := (spaceOf a).backed s

/-- Whether some byte of an aligned page exists (05 R96): a leaf whose whole page is unbacked is invalid. -/
def pageBacked (s : State) (a size : Nat) : Bool :=
  if size ≤ 0x200000 then
    match spaceOf a with
    | .store c o => o < (s.cluster c).scratch * 0x40000
    | x => x.backed s
  else if a = 0x40000000000 then
    (List.range 64).any fun c => (s.cluster c).scratch > 0 || (List.range 6).any fun t => tilePresent s (c * 6 + t)
  else backed s a

/-! ### Bytes and poison -/

/-- The byte of memory at a local physical address: an unlisted one reads 0 (log entry 1). -/
def State.byte (s : State) (a : Nat) : Byte := Assoc.get s.mem 0 a

/-- Memory with one byte written, in canonical form. -/
def memPut (m : List Host.Cell) (a : Nat) (b : Byte) : List Host.Cell := Assoc.putC m 0 a b

/-- Memory with consecutive bytes written. -/
def memPuts (m : List Host.Cell) (a : Nat) : List Byte → List Host.Cell
  | [] => m
  | b :: r => memPuts (memPut m a b) (a + 1) r

/-- Every byte of memory has one canonical listing: addresses rise and no listed byte is 0. -/
def Memory.wf (m : List Host.Cell) : Bool := Assoc.rising m && m.all fun c => c.2 != 0

/-- The stash line of an owned range that holds an address, if any: the point of truth (06 R118). -/
def ownedLine (s : State) (a : Nat) : Option StashLine :=
  match (spaceOf a).cluster? with
  | none => none
  | some c =>
    match (s.cluster c).stashLines.find? (a / 64) with
    | some l => if l.owned then some l else none
    | none => none

/-- Byte i of a 64-byte line. -/
def lineByte (v : Vec) (i : Nat) : Byte := BitVec.ofNat 8 (v.toNat / 2 ^ (8 * (i % 64)))

/-- A 64-byte line with byte i replaced. -/
def setLineByte (v : Vec) (i : Nat) (b : Byte) : Vec :=
  let k := 8 * (i % 64)
  BitVec.ofNat 512 (v.toNat - v.toNat / 2 ^ k % 256 * 2 ^ k + b.toNat * 2 ^ k)

/-- A byte at the point of truth. -/
def truthByte (s : State) (a : Nat) : Byte :=
  match ownedLine s a with
  | some l => lineByte l.data a
  | none => s.byte a

/-- A poison mark of the memory itself: a listed mark, or a word of a unit whose keys were zeroised. -/
def memPoisoned (s : State) (a : Nat) : Bool :=
  s.poison.contains (a / 8) ||
    match s.stale.find? (a / 0x200000) with
    | some ws => !ws.contains (a / 8)
    | none => false

/-- Whether the word of an address reads as poisoned at the point of truth. -/
def truthPoison (s : State) (a : Nat) : Bool :=
  match ownedLine s a with
  | some l => l.poison.getLsbD (a % 64 / 8)
  | none => memPoisoned s a

/-- n bytes at the point of truth. -/
def truthRead (s : State) (a : Nat) : Nat → List Byte
  | 0 => []
  | n + 1 => truthByte s a :: truthRead s (a + 1) n

/-- Whether any of n bytes reads as poisoned. -/
def truthBad (s : State) (a n : Nat) : Bool := (range (a / 8) ((a + n - 1) / 8 - a / 8 + 1)).any fun w => truthPoison s (w * 8)

/-- The 8-byte word at the point of truth. -/
def truthWord (s : State) (a : Nat) : Word := BitVec.ofNat 64 (natOfBytes (truthRead s a 8))

def insertMark : List Nat → Nat → List Nat
  | [], w => [w]
  | x :: r, w => if w = x then x :: r else if w < x then w :: x :: r else x :: insertMark r w

/-- Marks a word of memory poisoned, or clears its mark. -/
def markWord (s : State) (w : Nat) (bad : Bool) : State :=
  let s := { s with poison := if bad then insertMark s.poison w else s.poison.filter (· != w) }
  match s.stale.find? (w * 8 / 0x200000) with
  | none => s
  | some ws =>
    { s with stale := s.stale.put (w * 8 / 0x200000) (if bad then ws.filter (· != w) else insertMark ws w) }

/-- Whether a write to an address is discarded: an attached region whose keys are gone (20 R368). -/
def writeDiscarded (s : State) (a : Nat) : Bool :=
  match s.stale.find? (a / 0x200000) with
  | none => false
  | some _ =>
    match s.attach.find? (a / 0x200000) with
    | some t => !(s.slots[t % 16]'(by omega)).keysLive
    | none => true

/-- The words that n bytes at a cover whole. -/
def wholeWords (a n : Nat) : List Nat := (range (a / 8) (n / 8 + 1)).filter fun w => a ≤ w * 8 && w * 8 + 8 ≤ a + n

/-- The words that n bytes at a touch. -/
def touchedWords (a n : Nat) : List Nat := if n = 0 then [] else range (a / 8) ((a + n - 1) / 8 - a / 8 + 1)

/-- Adds n to a telemetry counter (21 R382). -/
def State.count (s : State) (k n : Nat) : State :=
  { s with counters := s.counters.put k (s.counters.get 0 k + BitVec.ofNat 64 n) }

/-- Adds to a telemetry counter n bytes and what the manual does not give of the bytes moved: the free choice says how many (log
entry 121). -/
def State.countBytes (s : State) (k n : Nat) : State := s.count k (n + Config.traffic k (s.counters.get 0 k).toNat)

/-- A cluster's HBM or tier two serves n bytes, written or read: they count in its telemetry (21 R382), and of HBM among those of their
region in the window (21 R376). -/
def State.serve (s : State) (written : Bool) (a n : Nat) : State :=
  match spaceOf a with
  | .hbm c o =>
    let k := 4096 * c + o / 0x200000
    { s.countBytes (16 * c + if written then 4 else 3) n with served := s.served.put k (s.served.get 0 k + n) }
  | .tier2 c _ => s.countBytes (16 * c + if written then 6 else 5) n
  | _ => s

/-- Writes bytes into memory: a word written whole stops being poisoned (10 R213). -/
def rawWrite (s : State) (a : Nat) (bs : List Byte) : State :=
  if writeDiscarded s a then s
  else (wholeWords a bs.length).foldl (fun s w => if memPoisoned s (w * 8) then markWord s w false else s)
    ({ s with mem := memPuts s.mem a bs }.serve true a bs.length)

/-- Marks the words that n bytes at a touch as poisoned, in memory. -/
def rawPoison (s : State) (a n : Nat) : State := (touchedWords a n).foldl (fun s w => markWord s w true) s

/-! ### The stash (05 R102) -/

/-- The owned stash range of cluster c that holds an address of its own memory, if any. -/
def ownedRange (s : State) (c asid : Nat) (va : Addr) (a : Nat) : Option StashRange :=
  match spaceOf a with
  | .hbm d _ | .tier2 d _ =>
    if d = c then
      (s.cluster c).ranges.find? fun r => r.asid == asid && r.base.toNat ≤ va.toNat && va.toNat < r.base.toNat + r.len * 0x10000
    else none
  | _ => none

/-- Writes a dirty line back to memory (05 R102): it is clean then. -/
def writeBackLine (s : State) (c line : Nat) : State :=
  match (s.cluster c).stashLines.find? line with
  | some l =>
    if l.owned && l.dirty then
      let s := rawWrite s (line * 64) (bytesOfVec l.data)
      let s := (range 0 8).foldl (fun s i => if l.poison.getLsbD i then markWord s (line * 8 + i) true else s) s
      s.updCluster c fun cl => { cl with stashLines := cl.stashLines.put line { l with dirty := false } }
    else s
  | none => s

/-- Lines the stash part of a cluster's store holds (05 R100): none without stash ways. -/
def stashCapacity (cl : Cluster) : Nat := cl.stash * 4096

/-- Makes room for a stash line: where the part is full its first line leaves, written back if it is dirty (log entry 129). -/
def stashRoom (s : State) (c : Nat) : State :=
  if (s.cluster c).stashLines.length < stashCapacity (s.cluster c) then s
  else
    match (s.cluster c).stashLines with
    | [] => s
    | l :: _ => (writeBackLine s c l.1).updCluster c fun cl => { cl with stashLines := cl.stashLines.drop l.1 }

/-- A stash line filled from memory, where the cluster has stash ways. -/
def fillOwned (s : State) (c line job : Nat) : State :=
  if stashCapacity (s.cluster c) = 0 then s
  else
    match (s.cluster c).stashLines.find? line with
    | some _ => s
    | none =>
      let s := (stashRoom s c).serve false (line * 64) 64
      let l : StashLine :=
        { data := vecOfBytes (truthRead s (line * 64) 64)
          poison := BitVec.ofNat 8 ((range 0 8).foldl (fun x i => if memPoisoned s (line * 64 + 8 * i) then x + 2 ^ i else x) 0)
          job := job }
      s.updCluster c fun cl => { cl with stashLines := cl.stashLines.put line l }

/-- The first touch of an address of an owned range by its cluster fills the line (05 R102). -/
def touchOwned (s : State) (c asid : Nat) (va : Addr) (a : Nat) : State :=
  match ownedRange s c asid va a with
  | some r => fillOwned s c (a / 64) r.job
  | none => s

/-- A read of an address by a cluster: the first touch of an owned range fills its line, and a line the stash does not hold is served by
the memory (21 R376, R382). -/
def touchRead (s : State) (c asid : Nat) (va : Addr) (a : Nat) : State :=
  let s := touchOwned s c asid va a
  if (ownedLine s a).isSome then s else s.serve false (a / 64 * 64) 64

/-- Bytes written into a present stash line; bytes beyond the line are the caller's. -/
def stashWrite (l : StashLine) (a : Nat) (bs : List Byte) : StashLine :=
  let d := (bs.foldl (fun (p : Vec × Nat) b => (setLineByte p.1 p.2 b, p.2 + 1)) (l.data, a)).1
  let p := (wholeWords a bs.length).foldl (fun (p : BitVec 8) w => p &&& ~~~(1#8 <<< (w % 8))) l.poison
  { l with data := d, poison := p, dirty := true }

/-- Writes every dirty stash line of a cluster back. -/
def writeBackStash (s : State) (c : Nat) : State :=
  ((s.cluster c).stashLines.map (·.1)).foldl (fun s l => writeBackLine s c l) s

/-! ### Watches (05 R108) -/

/-- The answer to a watch: to a thread's slot, or over the link it came by. -/
def answerWatch (s : State) (e : WatchEntry) (gpa : Nat) (value : Word) (st : AnswerStatus) : State :=
  match e.link with
  | none => { s with watchAnss := s.watchAnss ++ [⟨e.tid, e.serial, gpa, value, st⟩] }
  | some p =>
    let code := match st with | .normal => 0 | .full => 1 | .poison => 2
    { s with egress := s.egress ++ [{ typ := 5, net := 1, src := p.dst, dst := p.src, tag := p.tag, status := code,
                                      body := bytesOfNat 16 value.toNat }] }

/-- The global physical address of a local one. -/
def State.gpa (s : State) (a : Nat) : Nat := s.regs.modnum * 2 ^ 44 + a

/-- Evaluates the watches on a word after a write to it (05 R108): the first evaluation that finds it at or above
the threshold answers, a poisoned word answers with poison (R110). -/
def evalWatches (s : State) (w : Nat) : State :=
  match (spaceOf (w * 8)).cluster? with
  | none => s
  | some c =>
    let x := truthWord s (w * 8)
    let bad := truthPoison s (w * 8)
    let met := fun (e : WatchEntry) => e.word == w * 8 && (bad || e.threshold.toNat ≤ x.toNat)
    let hits := (s.cluster c).watches.filter met
    if hits.isEmpty then s
    else
      let s := s.updCluster c fun cl => { cl with watches := cl.watches.filter fun e => !met e }
      hits.foldl (fun s e => answerWatch s e (s.gpa (w * 8)) x (if bad then .poison else .normal)) s

def evalAll (s : State) (a n : Nat) : State := (touchedWords a n).foldl evalWatches s

/-! ### Writes at the point of truth -/

/-- Splits bytes at 64-byte lines. -/
def splitLines : Nat → Nat → List Byte → List (Nat × List Byte)
  | 0, _, _ => []
  | fuel + 1, a, bs =>
    if bs.isEmpty then []
    else
      let n := 64 - a % 64
      (a, bs.take n) :: splitLines fuel (a + n) (bs.drop n)

/-- One piece of a write, within one line, before watches are evaluated. -/
def writePiece (s : State) (asid : Nat) (va : Addr) (a : Nat) (bs : List Byte) : State :=
  match (spaceOf a).cluster? with
  | none => rawWrite s a bs
  | some c =>
    let s := touchOwned s c asid va a
    match ownedLine s a with
    | some l => s.updCluster c fun cl => { cl with stashLines := cl.stashLines.put (a / 64) (stashWrite l a bs) }
    | none => rawWrite s a bs

/-- The address space of a write that no job's translation gave: no ASID has this number. -/
def physAsid : Nat := 2 ^ 20

/-- A write performed at the point of truth (06 R118): the owned stash line if there is one or the address lies in
an owned range, the memory otherwise; then every watch on the words is evaluated. -/
def truthWrite (s : State) (asid : Nat) (va : Addr) (a : Nat) (bs : List Byte) : State :=
  let s := (splitLines (bs.length + 1) a bs).foldl
    (fun s p => writePiece s asid (va + BitVec.ofNat 80 (p.1 - a)) p.1 p.2) s
  evalAll s a bs.length

/-- Poison written over n bytes at the point of truth. -/
def truthPoisonWrite (s : State) (a n : Nat) : State :=
  (touchedWords a n).foldl (fun s w =>
    match ownedLine s (w * 8), (spaceOf (w * 8)).cluster? with
    | some l, some c => s.updCluster c fun cl =>
        { cl with stashLines := cl.stashLines.put (w * 8 / 64) { l with poison := l.poison ||| (1#8 <<< (w % 8)), dirty := true } }
    | _, _ => markWord s w true) s |> fun s => evalAll s a n

/-- Zeroes n bytes of SRAM. -/
def zeroBytes (s : State) (a n : Nat) : State :=
  { s with mem := s.mem.filter fun (p : Nat × Byte) => !(a ≤ p.1 && p.1 < a + n)
           poison := s.poison.filter fun w => !(a ≤ w * 8 && w * 8 < a + n) }

end Sys2Proof.Machine
end

