-- ==== Sys2Proof/Machine/Units.lean ====
section
/-!
DEFINITION. Named reads and updates of the parts of the state: threads, cores, tiles, job slots, registers (01 R10,
08 R165). A hardware thread's number here is cluster * 144 + cluster thread index; a core's and a tile's are their
package numbers.
-/
namespace Sys2Proof.Machine

/-! ### Numbers of parts (01 R10) -/

def coreOf (tid : Nat) : Nat := tid / 4
def tileOf (tid : Nat) : Nat := tid / 24
def clusterOf (tid : Nat) : Nat := tid / 144
def dieOf (c : Nat) : Nat := c / 32
/-- Core in tile: 0 the stager, 1 the striker, 2–5 lane cores. -/
def roleOf (tid : Nat) : Nat := tid / 4 % 6
/-- Holder code of a thread: its cluster thread index (01 R18). -/
def codeOf (tid : Nat) : Nat := tid % 144

/-- Endpoint ID of unit u of cluster c of this module (00 R6). -/
def endpointOf (s : State) (c u : Nat) : Nat := s.regs.modnum % 1024 * 2 ^ 14 + c % 64 * 2 ^ 8 + u

/-! ### Reading and updating parts -/

def State.thread (s : State) (t : Nat) : Thread := s.threads.get {} t
def State.setThread (s : State) (t : Nat) (x : Thread) : State := { s with threads := s.threads.put t x }
def State.updThread (s : State) (t : Nat) (f : Thread → Thread) : State := s.setThread t (f (s.thread t))
def State.core (s : State) (n : Nat) : Core := s.cores.get {} n
def State.setCore (s : State) (n : Nat) (x : Core) : State := { s with cores := s.cores.put n x }
def State.updCore (s : State) (n : Nat) (f : Core → Core) : State := s.setCore n (f (s.core n))
def State.tile (s : State) (n : Nat) : Tile := s.tiles.get {} n
def State.setTile (s : State) (n : Nat) (x : Tile) : State := { s with tiles := s.tiles.put n x }
def State.updTile (s : State) (n : Nat) (f : Tile → Tile) : State := s.setTile n (f (s.tile n))
def State.slot (s : State) (j : Nat) : Slot := s.slots[j % 16]'(by omega)
def State.setSlot (s : State) (j : Nat) (x : Slot) : State := { s with slots := s.slots.set (j % 16) x (by omega) }
def State.updSlot (s : State) (j : Nat) (f : Slot → Slot) : State := s.setSlot j (f (s.slot j))
def State.queue (s : State) (q : Nat) : Queue := s.queues.get {} q
def State.setQueue (s : State) (q : Nat) (x : Queue) : State := { s with queues := s.queues.put q x }
def State.updQueue (s : State) (q : Nat) (f : Queue → Queue) : State := s.setQueue q (f (s.queue q))
def State.updTask (s : State) (k : Nat) (f : Task → Task) : State :=
  match s.tasks.find? k with
  | some t => { s with tasks := s.tasks.put k (f t) }
  | none => s
def State.updLaunch (s : State) (h : Nat) (f : Launch → Launch) : State :=
  match s.launches.find? h with
  | some l => { s with launches := s.launches.put h (f l) }
  | none => s
def State.updGraph (s : State) (g : Nat) (f : Graph → Graph) : State :=
  match s.graphs.find? g with
  | some x => { s with graphs := s.graphs.put g (f x) }
  | none => s

/-- The thread that issues: the running thread of the current core (02 R40). -/
def State.tid (s : State) : Nat := s.cur * 4 + (s.core s.cur).running % 4
def State.th (s : State) : Thread := s.thread s.tid
def State.upd (s : State) (f : Thread → Thread) : State := s.updThread s.tid f

/-- Takes the counter's value and advances it. -/
def State.bump (s : State) : State := { s with serial := s.serial + 1 }

/-- Signals an MSI-X vector (18 R322). -/
def State.signal (s : State) (v : Nat) : State := { s with msix := s.msix ++ [v] }

/-- Event arguments and the number of the module's job slots an event names. -/
def State.clusterPart (s : State) (c : Nat) : Nat := if s.regs.pcfg then dieOf c else 0

/-- An access that arrives at a gated partition wakes it (18 R335). -/
def wakePart (s : State) (p : Nat) : State := { s with regs := { s.regs with pstate := s.regs.pstate.set! (p % 2) 0 } }

/-- Wakes the partition of a cluster. -/
def wakeCluster (s : State) (c : Nat) : State := wakePart s (s.clusterPart c)

/-- Wakes the partition that owns an address (18 R335). -/
def wakeAt (s : State) (a : Nat) : State :=
  match (spaceOf a).cluster? with
  | some c => wakeCluster s c
  | none => s

/-! ### Registers (08 R165) -/

/-- `s0` reads zero. -/
def Thread.rs (t : Thread) (r : SReg) : Word := if r = 0 then 0 else t.s[r.toNat]'(r.isLt)
/-- Writes to `s0` are discarded; a word written is no longer one an error has struck (21 R379). -/
def Thread.ws (t : Thread) (r : SReg) (x : Word) : Thread :=
  if r = 0 then t else { t with s := t.s.set r.toNat x r.isLt, bad := t.bad.filter fun b => b != .s r }
/-- A scalar result of an operation issued earlier; under a supervisor handler that the interrupted context's instruction did
not issue, it belongs to the context, whose `s30` and `s31` the entry has saved (19 R347, R348). -/
def Thread.wsLate (t : Thread) (phys : Bool) (d : SReg) (x : Word) : Thread :=
  if t.sup.act && !phys && (d == 30 || d == 31) then
    { t with sup := { (if d = 30 then { t.sup with sav0 := x } else { t.sup with sav1 := x }) with
        savBad := t.sup.savBad.filter fun b => b != .s d } }
  else t.ws d x
def Thread.ra (t : Thread) (r : AReg) : Addr := t.a[r.toNat]'(r.isLt)
def Thread.wa (t : Thread) (r : AReg) (x : Addr) : Thread :=
  { t with a := t.a.set r.toNat x r.isLt, bad := t.bad.filter fun b => b != .a r }
def Thread.rv (t : Thread) (r : VReg) : Vec := t.v[r.toNat]'(r.isLt)
def Thread.wv (t : Thread) (r : VReg) (x : Vec) : Thread :=
  { t with v := t.v.set r.toNat x r.isLt, bad := t.bad.filter fun b => match b with | .v q _ => q != r | _ => true }
def Thread.rm (t : Thread) (r : MReg) : Mask := t.m[r.toNat]'(r.isLt)
def Thread.wm (t : Thread) (r : MReg) (x : Mask) : Thread := 
  { t with m := t.m.set r.toNat x r.isLt, bad := t.bad.filter fun b => b != .m r }
def Thread.rw (t : Thread) (r : WReg) : Option Win := t.win[r.toNat]'(r.isLt)
def Thread.ww (t : Thread) (r : WReg) (x : Option Win) : Thread := { t with win := t.win.set r.toNat x r.isLt }
def Thread.slotAt (t : Thread) (n : BitVec 3) : WatchSlot := t.slots[n.toNat]'(n.isLt)
def Thread.setSlotAt (t : Thread) (n : BitVec 3) (x : WatchSlot) : Thread :=
  { t with slots := t.slots.set n.toNat x n.isLt }

/-- WCAP: 256 limbs, or 192 on a repaired core (04 R85). -/
def wcap (s : State) (tid : Nat) : Nat := if s.fuse.repaired.contains (coreOf tid) then 192 else 256

/-! ### The work a thread runs -/

def taskOf (s : State) (tid : Nat) : Option Task := (s.thread tid).task.bind s.tasks.find?
def launchOf (s : State) (tid : Nat) : Option Launch := (taskOf s tid).bind fun k => s.launches.find? k.launch
/-- The job slot of the thread's task. -/
def slotOf (s : State) (tid : Nat) : Nat := ((launchOf s tid).map (·.slot)).getD 0
/-- Whether the thread's job is deterministic; a thread that runs no task has no job. -/
def detOf (s : State) (tid : Nat) : Bool := match launchOf s tid with | some l => (s.slot l.slot).det | none => false
def asidOf (s : State) (tid : Nat) : Nat := (s.slot (slotOf s tid)).asid

/-- Whether a thread runs a task that has been cancelled (02 R43); a supervisor handler reaches no cancellation point. -/
def cancelled (s : State) (tid : Nat) : Bool := !(s.thread tid).sup.act && ((taskOf s tid).map (·.cancel)).getD false

/-! ### The program counter and hardware loops (09 R204, R205) -/

/-- Whether an instruction of the given size at pc covers a word: its first or extension word lies there. -/
def covers (pc : Addr) (size : Nat) (w : Addr) : Bool := pc == w || (size == 8 && pc + 4 == w)

/-- Step 2 of R205 for one loop: the new loop, and whether it loops back. -/
def loopStep (pc : Addr) (size : Nat) (l : Loop) : Loop × Bool :=
  if l.armed && covers pc size l.last then
    if l.remaining.toNat > 1 then ({ l with remaining := l.remaining - 1 }, true)
    else ({ l with armed := false }, false)
  else (l, false)

/-- The thread after an instruction that does not transfer: PC at `dflt`, or back at the first word of the youngest
armed loop whose last word the instruction covers (R205 step 2). `loop1` is the younger loop. -/
def Thread.nextAt (t : Thread) (size : Nat) (dflt : Addr) : Thread :=
  let r1 := loopStep t.pc size t.loop1
  if r1.2 then { t with loop1 := r1.1, pc := t.loop1.first }
  else
    let r0 := loopStep t.pc size t.loop0
    if r0.2 then { t with loop1 := r1.1, loop0 := r0.1, pc := t.loop0.first }
    else { t with loop1 := r1.1, loop0 := r0.1, pc := dflt }

/-- The same with PC past the instruction. -/
def Thread.next (t : Thread) (size : Nat) : Thread := t.nextAt size (t.pc + BitVec.ofNat 80 size)

/-- Whether an address lies in a loop's body, as 80-bit numbers: a body that would wrap past address 2^80 holds no address (DESIGN CHOICE:
log entry 135). -/
def Loop.holds (l : Loop) (x : Addr) : Bool := l.first.toNat ≤ x.toNat && x.toNat ≤ l.last.toNat

/-- Step 1 of R205 for one loop. -/
def leaveLoop (pc target : Addr) (l : Loop) : Loop :=
  if l.armed && l.holds pc && !l.holds target then { l with armed := false } else l

/-- The thread after a transfer other than a call: bodies it leaves are disarmed (R205 step 1). -/
def Thread.jump (t : Thread) (target : Addr) : Thread :=
  { t with loop1 := leaveLoop t.pc target t.loop1, loop0 := leaveLoop t.pc target t.loop0, pc := target }

/-- The state after the current instruction completes with an update of its thread. -/
def State.done (s : State) (size : Nat) (f : Thread → Thread) : State := s.upd fun t => (f t).next size

/-! ### Events (21 R381) -/

/-- Writes an event into the host ring, or drops it where the ring is full; nothing while the ring is disabled. -/
def logEvent (s : State) (typ cause slot endpoint addr handle : Nat) : State :=
  let r := s.regs
  if !r.even_ then s
  else if (r.evhead + 2 ^ 64 - r.evtail) % 2 ^ 64 = 2 ^ r.evk then
    { s with regs := { r with evlost := min (r.evlost + 1) (2 ^ 64 - 1) } }
  else
    let e := bytesOfNat 8 (Config.nanoseconds s.serial).toNat ++ bytesOfNat 1 typ ++ bytesOfNat 1 cause ++
      bytesOfNat 1 slot ++ [0] ++ bytesOfNat 3 endpoint ++ [0] ++ bytesOfNat 10 addr ++ bytesOfNat 6 handle
    let s := rawWrite s.bump (hostBase + r.evbase % 2 ^ 43 + 32 * (r.evhead % 2 ^ r.evk)) e
    let s := { s with regs := { s.regs with evhead := (s.regs.evhead + 1) % 2 ^ 64 } }
    if r.evirq then s.signal 66 else s

abbrev Result := Host.Outcome State Fault Refusal

end Sys2Proof.Machine
end

