-- ==== Sys2Proof/Machine/Translate.lean ====
section
/-!
DEFINITION. Page tables and the walk (19 R338–R341, R343; 21 R370).
-/
namespace Sys2Proof.Machine

/-- A leaf the walk reached: the global physical address the address has, the size of the page, and its permissions. -/
structure Leaf where
  pa : Nat
  page : Nat := 0x10000
  w : Bool
  x : Bool
  deriving DecidableEq, Repr

/-- Whether a pointer's target lies in the module's own HBM or tier two, backed (R339). -/
def tableOk (s : State) (gpa : Nat) : Bool :=
  moduleOf gpa == s.regs.modnum &&
    match spaceOf (localOf gpa) with
    | .hbm _ _ => true
    | .tier2 c o => (Space.tier2 c o).backed s
    | _ => false

/-- Whether a leaf's page may be mapped: backed in part (R96), and owned inside the job's partition (21 R370). -/
def leafOk (s : State) (part gpa size : Nat) : Bool :=
  if moduleOf gpa == s.regs.modnum then
    pageBacked s (localOf gpa) size &&
      match (spaceOf (localOf gpa)).cluster? with
      | some c => !s.regs.pcfg || dieOf c == part
      | none => true
  else true

/-- Reads one entry with a strong read: none where it is poisoned (R340). -/
def readEntry (s : State) (a : Nat) : Option Nat :=
  if truthBad s a 8 then none else some (truthWord s a).toNat

/-- The leaf an entry holds, where R339 lets it stand: page size in bytes and address within the page. -/
def leafOf (s : State) (part e size off : Nat) : Option Leaf :=
  let a := e / 2 ^ 8 % 2 ^ 46 * 2 ^ 8
  if e % 2 = 1 && fld e 6 2 = 0 && e / 2 ^ 54 = 0 && fld e 3 1 = 1 && a % size = 0 && leafOk s part a size then
    some { pa := a + off, page := size, w := fld e 4 1 == 1, x := fld e 5 1 == 1 }
  else none

/-- The table an entry points to, where R339 lets it stand: type t and alignment of the next table. -/
def tableOf (s : State) (e align : Nat) : Option Nat :=
  let a := e / 2 ^ 8 % 2 ^ 46 * 2 ^ 8
  if e % 2 = 1 && fld e 6 2 = 0 && e / 2 ^ 54 = 0 && fld e 3 3 = 0 && a % align = 0 && tableOk s a then some (localOf a)
  else none

/-- The levels below level 0: lowest VA bit indexed, alignment of the table the level's pointer leads to, and
whether a leaf may stand there (R338, R339). -/
def levels : List (Nat × Nat × Bool) :=
  [(57, 0x8000, false), (45, 0x8000, false), (33, 0x8000, true), (21, 0x100, true)]

/-- The walk from a level's table (R338): `table` is its local physical address. -/
def walkFrom (s : State) (part va table : Nat) : List (Nat × Nat × Bool) → Option Leaf
  | [] =>
    match readEntry s (table + fld va 16 5 * 8) with
    | some e => if fld e 1 2 = 1 then leafOf s part e 0x10000 (va % 0x10000) else none
    | none => none
  | (lo, align, leafy) :: rest =>
    match readEntry s (table + fld va lo 12 * 8) with
    | none => none
    | some e =>
      match fld e 1 2 with
      | 0 => if lo = 21 then none else
          match tableOf s e align with
          | some t => walkFrom s part va t rest
          | none => none
      | 1 => if leafy then leafOf s part e (2 ^ lo) (va % 2 ^ lo) else none
      | 2 => if lo = 21 then
          match tableOf s e align with
          | some t => walkFrom s part va t rest
          | none => none
          else none
      | _ => none

/-- The walk of a virtual address from the root table (R338). Level 0 indexes [79:69]. -/
def walk (s : State) (root part va : Nat) : Option Leaf :=
  match readEntry s (root + fld va 69 11 * 8) with
  | none => none
  | some e =>
    if fld e 1 2 = 0 then
      match tableOf s e 0x8000 with
      | some t => walkFrom s part va t levels
      | none => none
    else none

/-- The walk in a job slot's address space, of the tables as they are. -/
def walkTables (s : State) (j : Nat) (va : Addr) : Option Leaf :=
  let sl := s.slot j
  walk s sl.ptb sl.part va.toNat

/-- The translations of an address space that are held for a virtual address (R340). -/
def heldLeaves (s : State) (asid va : Nat) : List CachedLeaf := s.tlb.filter fun c => c.asid == asid && c.va ≤ va && va < c.va + c.page

/-- The translation of a virtual address in a job slot's address space: one used before and not invalidated since, or that of the
tables as they are, as the free choice says (R340). -/
def walkSlot (s : State) (j : Nat) (va : Addr) : Option Leaf :=
  match heldLeaves s (s.slot j).asid va.toNat with
  | [] => walkTables s j va
  | cs =>
    match Config.staleLeaf s.serial va.toNat with
    | 0 => walkTables s j va
    | n + 1 =>
      match cs[n]? with
      | some c => some { pa := c.pa + (va.toNat - c.va), page := c.page, w := c.w, x := c.x }
      | none => walkTables s j va

/-- The translation an access uses may be held from now on (R340). -/
def State.holdLeaf (s : State) (j : Nat) (va : Addr) : State :=
  match walkSlot s j va with
  | none => s
  | some l =>
    let off := va.toNat % l.page
    let c : CachedLeaf := { asid := (s.slot j).asid, va := va.toNat - off, page := l.page, pa := l.pa - off, w := l.w, x := l.x }
    if s.tlb.contains c then s else { s with tlb := s.tlb ++ [c] }

/-- The translations of a thread's accesses at these addresses may be held from now on; a supervisor handler's have none (19 R341). -/
def State.holdLeaves (s : State) (tid : Nat) (vas : List Addr) : State :=
  if (s.thread tid).sup.act then s else vas.foldl (fun s va => s.holdLeaf (slotOf s tid) va) s

/-- The enabled slot with an ASID, whose tables an ingress walks (R343). -/
def slotOfAsid (s : State) (asid : Nat) : Option Nat :=
  (List.range 16).find? fun j => (s.slot j).en && (s.slot j).asid == asid

/-- Whether a local physical address exists for a supervisor handler: it also reaches the protected ways, which end
at way 23 (05 R100, 19 R347). -/
def supBacked (s : State) (a : Nat) : Bool :=
  match spaceOf a with
  | .store c o => o < (s.cluster c).scratch * 0x40000 || ((24 - (s.cluster c).prot) * 0x40000 ≤ o && o < 24 * 0x40000)
  | x => x.backed s

/-- Where an access of cluster c lies (05 R97). -/
def placeOf (s : State) (c gpa : Nat) : Place :=
  if moduleOf gpa == s.regs.modnum then
    match spaceOf (localOf gpa) with
    | .host _ => .host
    | x => match x.cluster? with | some d => if d == c then .own else .cluster d | none => .own
  else .remote (moduleOf gpa) (((spaceOf (localOf gpa)).cluster?).getD 0)

/-- What a translation asks for. -/
inductive Want where
  | read | write | amo | fetch
  deriving DecidableEq, Repr

/-- Whether an address that cluster c translates itself does not exist (05 R96): one of another cluster of the module is
translated again at the target, which answers with poison. -/
def unbackedFor (s : State) (c gpa : Nat) : Bool :=
  match placeOf s c gpa with
  | .own | .host => !backed s (localOf gpa)
  | _ => false

/-- The translation of a thread's access (R341): a failed walk and an unbacked address of its own side are cause 0x05 (0x04
on a fetch, of any unbacked address of the module), a missing permission 0x06 (0x04 on a fetch). A supervisor handler's
addresses are local physical. -/
def translate (s : State) (tid : Nat) (va : Addr) (want : Want) : Except Nat Leaf :=
  let fetchCode := fun (n : Nat) => if want = .fetch then 0x04 else n
  if (s.thread tid).sup.act then
    if va.toNat < 2 ^ 44 && supBacked s va.toNat then
      .ok { pa := s.regs.modnum * 2 ^ 44 + va.toNat, w := true, x := true }
    else .error (fetchCode 0x05)
  else
    match walkSlot s (slotOf s tid) va with
    | none => .error (fetchCode 0x05)
    | some l =>
      if unbackedFor s (clusterOf tid) l.pa || (want = .fetch && moduleOf l.pa == s.regs.modnum && !backed s (localOf l.pa)) then
        .error (fetchCode 0x05)
      else
        match want with
        | .read => .ok l
        | .write | .amo => if l.w then .ok l else .error 0x06
        | .fetch => if l.x then .ok l else .error 0x04

/-- The address a port of this module reads for an access that named a virtual address and the issuer's address space (R343):
that of its own walk, which must allow reading and end in backed memory. Where the walk now ends outside the module's memory
the port uses the translation of the issue, which it holds until an invalidation is done (R340; log entry 130). -/
def portAddr (s : State) (phys : Bool) (slot : Option Nat) (va : Addr) (pa : Nat) : Option Nat :=
  if phys then some pa
  else
    match slot.bind fun j => walkSlot s j va with
    | none => none
    | some l =>
      if moduleOf l.pa == s.regs.modnum && (spaceOf (localOf l.pa)).cluster?.isSome then
        (if backed s (localOf l.pa) then some l.pa else none)
      else some pa

end Sys2Proof.Machine
end

