-- ==== Sys2Proof/Machine/Caches.lean ====
section
/-!
DEFINITION. The copies: L1 data caches (05 R106), the remote-line buffer and read-only stash lines (05 R102, R105),
and the mechanical work of releases and acquires (06 R117).
-/
namespace Sys2Proof.Machine

/-! ### Dirty L1 words (05 R106) -/

/-- Puts bytes into a held clean line at an address, if the core holds the line; words written whole lose their poison
mark there too (10 R213). -/
def patchLine (k : Core) (a : Nat) (gline : Nat) (bs : List Byte) : Core :=
  match k.lines.find? gline with
  | none => k
  | some l =>
    let d := (bs.foldl (fun (p : Vec × Nat) b => (setLineByte p.1 p.2 b, p.2 + 1)) (l.data, a)).1
    let x := (wholeWords a bs.length).foldl (fun (p : BitVec 8) w => p &&& ~~~(1#8 <<< (w % 8))) l.poison
    { k with lines := k.lines.put gline { l with data := d, poison := x } }

/-- A held clean line of a core does not show a write of some threads: it serves them no more. -/
def hideLine (k : Core) (gline : Nat) (tids : List Nat) : Core :=
  match k.lines.find? gline with
  | none => k
  | some l => { k with lines := k.lines.put gline { l with lacks := l.lacks ++ tids.filter fun t => !l.lacks.contains t } }

/-- The L1 copies of a core take bytes that one of its threads has written. -/
def patchCore (s : State) (core a : Nat) (bs : List Byte) : State :=
  (splitLines (bs.length + 1) a bs).foldl
    (fun s p => s.updCore core fun k => patchLine k p.1 (s.gpa p.1 / 64) p.2) s

/-- The L1 copies of a core after a write of some of its threads: they take it, or go on showing the other threads what they held, as
the free choice says (06 R120, R133). -/
def showWrite (s : State) (core : Nat) (tids : List Nat) (a : Nat) (bs : List Byte) : State :=
  if Config.showsWrite s.serial then patchCore s.bump core a bs
  else (splitLines (bs.length + 1) a bs).foldl (fun s p => s.updCore core fun k => hideLine k (s.gpa p.1 / 64) tids) s.bump

/-- The threads whose writes a dirty word holds or has covered. -/
def wroteAt (k : Core) (w : Nat) : List Nat := match k.dirty.find? w with | some d => d.tid :: d.wrote | none => []

/-- The other half of a 4-byte word's 8-byte word. -/
def otherHalf (w : Nat) : Nat := if w % 2 = 0 then w + 1 else w - 1

/-- Writes n dirty words from w through in one write (05 R106): performed at the point of truth, clean afterwards. -/
def flushHalves (s : State) (core w n : Nat) : State :=
  match (s.core core).dirty.find? w with
  | none => s
  | some d =>
    let ws := range w n
    let bs := ws.flatMap fun x => bytesOfNat 4 (((s.core core).dirty.find? x).getD d).val.toNat
    let bad := ws.filter (s.core core).dirtyBad.contains
    let mine := ws.flatMap (wroteAt (s.core core))
    let s := s.updCore core fun k =>
      { k with dirty := ws.foldl (fun l x => l.drop x) k.dirty, dirtyBad := k.dirtyBad.filter fun x => !ws.contains x }
    let s := truthWrite s d.asid d.va (w * 4) bs
    let s := bad.foldl (fun s x => truthPoisonWrite s (x * 4) 4) s
    showWrite s core mine (w * 4) bs

/-- Writes a dirty word through: together with its other half where one store wrote both, since the aligned 8-byte
store is single-copy atomic (06 R118), and after it where its thread wrote that one before (06 R119). -/
def flushWord (s : State) (core w : Nat) : State :=
  match (s.core core).dirty.find? w, (s.core core).dirty.find? (otherHalf w) with
  | some d, some _ =>
    match d.link with
    | .free => flushHalves s core w 1
    | .after => flushHalves (flushHalves s core (otherHalf w) 1) core w 1
    | .whole => flushHalves s core (w / 2 * 2) 2
  | _, _ => flushHalves s core w 1

def flushWords (s : State) (core : Nat) (ws : List Nat) : State := ws.foldl (fun s w => flushWord s core w) s

/-- Writes every dirty word of a core through. -/
def flushCore (s : State) (core : Nat) : State := flushWords s core ((s.core core).dirty.map (·.1))

/-- The dirty words of a core that meet n bytes at a local address. -/
def dirtyIn (s : State) (core a n : Nat) : List Nat :=
  ((s.core core).dirty.map (·.1)).filter fun w => overlap (w * 4) 4 a n

/-- The dirty words of a core in the 8-byte words that n bytes at a local address meet (06 R119). -/
def dirtyNear (s : State) (core a n : Nat) : List Nat := dirtyIn s core (a / 8 * 8) ((a % 8 + n + 7) / 8 * 8)

/-- Lines one L1 holds (64 KiB; 01 R10). -/
def l1Lines : Nat := 1024

/-- The lines a core's L1 holds, clean or with dirty words. -/
def l1Held (s : State) (core : Nat) : List Nat :=
  ((s.core core).lines.map (·.1) ++ (s.core core).dirty.map fun w => s.gpa (w.1 * 4) / 64).eraseDups

/-- Makes room in an L1 for a line: where the cache is full, another line leaves, its dirty words written through (05 R106; log
entry 129). -/
def l1Room (s : State) (core gline : Nat) : State :=
  let k := s.core core
  if k.lines.length + k.dirty.length < l1Lines then s
  else
    let held := l1Held s core
    if held.contains gline || held.length < l1Lines then s
    else
      match held with
      | [] => s
      | x :: _ =>
        let s := flushWords s core ((k.dirty.map (·.1)).filter fun w => s.gpa (w * 4) / 64 == x)
        s.updCore core fun k => { k with lines := k.lines.drop x }

/-- A word becomes dirty, or is written again; a struck one stays struck unless its 8-byte word is written whole (10 R213). -/
def putDirty (s : State) (core w : Nat) (d : DirtyWord) (whole : Bool) : State :=
  (l1Room s core (s.gpa (w * 4) / 64)).updCore core fun k =>
    { k with dirty := k.dirty.put w { d with wrote := (wroteAt k w).filter (· != d.tid) }
             dirtyBad := if whole then k.dirtyBad.filter (· != w) else k.dirtyBad }

/-- The dirty words of a core that a thread has written, in n bytes at a local address. -/
def dirtyMine (s : State) (tid a n : Nat) : List Nat :=
  (dirtyIn s (coreOf tid) a n).filter fun w => (wroteAt (s.core (coreOf tid)) w).contains tid

/-- How a word that a 4-byte store of a thread writes stands to its other half: as before where one store wrote both,
after it where that is dirty and the thread's own (06 R119). -/
def linkOf (k : Core) (w tid : Nat) : HalfLink :=
  match k.dirty.find? (otherHalf w), k.dirty.find? w with
  | none, _ => .free
  | some p, some d => if d.link = .whole then .whole else if p.tid = tid then .after else .free
  | some p, none => if p.tid = tid then .after else .free

/-- The other half no longer waits for the value that a word held before it was written again. -/
def freeHalf (s : State) (core w : Nat) : State :=
  match (s.core core).dirty.find? (otherHalf w) with
  | some p =>
    if p.link = .after then s.updCore core fun k => { k with dirty := k.dirty.put (otherHalf w) { p with link := .free } } else s
  | none => s

/-- Writes through the core's dirty words in the 8-byte words of an element (06 R119, R128, 05 R106). -/
def flushElems (s : State) (tid : Nat) (es : List Elem) : State :=
  es.foldl (fun s e => flushWords s (coreOf tid) (dirtyNear s (coreOf tid) (localOf e.pa) e.size)) s

/-- A weak store of whole 4-byte words into L1 (05 R106); `second` says that the word before is the first half of an
8-byte word that the same store writes. -/
def weakStoreWords (s : State) (tid asid page : Nat) (va : Addr) (a : Nat) (second : Bool) : List Byte → State
  | b0 :: b1 :: b2 :: b3 :: r =>
    let v := BitVec.ofNat 32 (natOfBytes [b0, b1, b2, b3])
    let first := a % 8 == 0 && r.length ≥ 4
    if first || second then
      weakStoreWords (putDirty s (coreOf tid) (a / 4) { val := v, tid := tid, asid := asid, va := va, page := page, link := .whole } true)
        tid asid page (va + 4) (a + 4) first r
    else
      weakStoreWords (putDirty (freeHalf s (coreOf tid) (a / 4)) (coreOf tid) (a / 4)
        { val := v, tid := tid, asid := asid, va := va, page := page, link := linkOf (s.core (coreOf tid)) (a / 4) tid } false)
        tid asid page (va + 4) (a + 4) false r
  | _ => s

/-! ### Reading through L1 -/

/-- Adds a clean line. -/
def fillL1 (s : State) (core gline : Nat) (l : CopyLine) : State :=
  (l1Room s core gline).updCore core fun k => { k with lines := k.lines.put gline l }

/-- The poison marks of the eight words of a line at the point of truth. -/
def linePoison (s : State) (line : Nat) : BitVec 8 :=
  BitVec.ofNat 8 ((range 0 8).foldl (fun x i => if truthPoison s (line * 64 + 8 * i) then x + 2 ^ i else x) 0)

/-- A line at the point of truth. -/
def truthLine (s : State) (line : Nat) : Vec := vecOfBytes (truthRead s (line * 64) 64)

/-- Whether a thread's read of an address meets the core's dirty halves of the 8-byte word there, both or neither (06 R118): one holds
a write of its own, or the free choice says that it meets other threads' (06 R120). -/
def meetsDirty (k : Core) (tid : Nat) (mates : Bool) (a : Nat) : Bool :=
  mates || (wroteAt k (a / 4)).contains tid || (wroteAt k (otherHalf (a / 4))).contains tid

/-- The dirty word of a core that a thread's read of an address meets. -/
def seenWord (k : Core) (tid : Nat) (mates : Bool) (a : Nat) : Option DirtyWord :=
  if meetsDirty k tid mates a then k.dirty.find? (a / 4) else none

/-- A byte of an access as a core's L1 shows it: a dirty word first, then the line read. -/
def overlayByte (k : Core) (tid : Nat) (mates : Bool) (line : Vec) (a : Nat) : Byte :=
  match seenWord k tid mates a with
  | some d => BitVec.ofNat 8 (d.val.toNat / 2 ^ (8 * (a % 4)))
  | none => lineByte line a

def overlayBytes (k : Core) (tid : Nat) (mates : Bool) (line : Vec) (a : Nat) : Nat → List Byte
  | 0 => []
  | n + 1 => overlayByte k tid mates line a :: overlayBytes k tid mates line (a + 1) n

/-- Whether a byte of the access is poisoned: a clean byte of a poisoned word, or a struck dirty word. -/
def overlayBad (k : Core) (tid : Nat) (mates : Bool) (poison : BitVec 8) (a n : Nat) : Bool :=
  (range a n).any fun x =>
    match seenWord k tid mates x with
    | some _ => k.dirtyBad.contains (x / 4) || k.dirtyBad.contains (otherHalf (x / 4))
    | none => poison.getLsbD (x % 64 / 8)

/-- Whether an address may have copies in L1 (05 R97, R106): every space but the scratchpad banks. -/
def cacheable (gpa : Nat) : Bool := match spaceOf (localOf gpa) with | .bank _ _ _ _ => false | _ => true

/-- The clean line of a thread's core that may serve its loads. -/
def l1Line (s : State) (tid gline : Nat) : Option CopyLine :=
  match (s.core (coreOf tid)).lines.find? gline with
  | some l => if l.lacks.contains tid then none else some l
  | none => none

/-- The bytes of a line that a copy serves to a thread: where the copy does not show a write of some thread of the core, the rest of an
8-byte word of which the thread meets a dirty half comes from the point of truth, not from before that write (06 R118). -/
def copyBytes (s : State) (tid : Nat) (mates : Bool) (l : CopyLine) (a : Nat) : Vec :=
  if l.lacks.isEmpty then l.data
  else
    let k := s.core (coreOf tid)
    vecOfBytes ((range (a / 64 * 64) 64).map fun x =>
      if (seenWord k tid mates x).isSome || (seenWord k tid mates (otherHalf (x / 4) * 4)).isSome then truthByte s x else lineByte l.data x)

/-- A weak read of own or host memory by a thread in an address space, within one line (06 R116, R125): from the copy a core
holds or from the point of truth, as the free choice says where both are allowed, under the core's dirty words. A read below
fills L1. Returns the bytes and whether they are poisoned. -/
def weakRead (s : State) (tid asid : Nat) (e : Elem) : State × List Byte × Bool :=
  let core := coreOf tid
  let a := localOf e.pa
  let k := s.core core
  let mates := Config.seesMate s.serial
  if cacheable e.pa then
    match (if Config.takesCopy s.serial then l1Line s tid (e.pa / 64) else none) with
    | some l => (s.bump, overlayBytes k tid mates (copyBytes s tid mates l a) a e.size, overlayBad k tid mates l.poison a e.size)
    | none =>
      let s := touchRead s.bump (clusterOf tid) asid e.va a
      let d := truthLine s (a / 64)
      let p := linePoison s (a / 64)
      (fillL1 s core (e.pa / 64) { data := d, poison := p, readOnly := e.readOnly, asid := asid, va := e.va },
        overlayBytes k tid mates d a e.size, overlayBad k tid mates p a e.size)
  else (s, truthRead s a e.size, truthBad s a e.size)

/-- A strong read of own or host memory (06 R125): the dirty words of it the thread has written are performed first, and the
point of truth is read. -/
def strongRead (s : State) (tid asid : Nat) (e : Elem) : State × List Byte × Bool :=
  let a := localOf e.pa
  let s := touchRead (flushWords s (coreOf tid) (dirtyMine s tid a e.size)) (clusterOf tid) asid e.va a
  (s, truthRead s a e.size, truthBad s a e.size)

/-- The address space of a thread's accesses: that of its job, or none inside a supervisor handler (19 R341). -/
def spaceAsid (s : State) (tid : Nat) (phys : Bool) : Nat := if phys then physAsid else asidOf s tid

/-! ### Remote lines (05 R105) -/

/-- Lines the remote-line buffer of a cluster can hold: the ways left over (05 R100). -/
def remoteCapacity (cl : Cluster) : Nat := (24 - cl.scratch - cl.stash - cl.prot) * 4096

/-- Drops the remote and read-only stash lines whose tag meets a condition. -/
def dropRemote (cl : Cluster) (p : Option (Nat × Word) → Bool) : Cluster :=
  { cl with remote := cl.remote.filter fun l => !p l.2.tag
            stashLines := cl.stashLines.filter fun l => l.2.owned || !p l.2.tag }

/-- Tracks a sequence word a line is filled under; the 65th word first drops the lines of the word tracked longest
(05 R105). A word goes on counting among the 64 after its last line has been dropped (DESIGN CHOICE: log entry 129). -/
def trackWord (cl : Cluster) (w : Nat) : Cluster :=
  if cl.tracked.contains w then cl
  else
    match cl.tracked with
    | old :: rest =>
      if Config.tagWords ≤ cl.tracked.length then
        let cl := dropRemote cl fun t => match t with | some (x, _) => x == old | none => false
        { cl with tracked := rest ++ [w] }
      else { cl with tracked := cl.tracked ++ [w] }
    | [] => { cl with tracked := [w] }

/-- The key of a read-only stash line: apart from those of the cluster's own lines. -/
def roKey (gline : Nat) : Nat := gline + 2 ^ 60

/-- The stash range of a cluster that holds a virtual address of an address space. -/
def rangeAt (cl : Cluster) (asid : Nat) (va : Addr) : Option StashRange :=
  cl.ranges.find? fun r => r.asid == asid && r.base.toNat ≤ va.toNat && va.toNat < r.base.toNat + r.len * 0x10000

/-- A line filled into a cluster's copies under a tag (05 R102, R104, R105): a read-only stash range that covers it, else the
remote-line buffer. -/
def fillTagged (s : State) (c asid : Nat) (va : Addr) (gline : Nat) (tag : Option (Nat × Word)) (data : Vec) (p : BitVec 8) : State :=
  let s := match tag with | some (w, _) => s.updCluster c fun cl => trackWord cl w | none => s
  match (if stashCapacity (s.cluster c) = 0 then none else rangeAt (s.cluster c) asid va) with
  | some r =>
    let s := if ((s.cluster c).stashLines.find? (roKey gline)).isSome then s else stashRoom s c
    s.updCluster c fun cl =>
      { cl with stashLines := cl.stashLines.put (roKey gline) { data := data, poison := p, owned := false, tag := tag, job := r.job } }
  | none =>
    s.updCluster c fun cl =>
      if remoteCapacity cl = 0 then cl
      else
        let ls := if remoteCapacity cl ≤ cl.remote.length && (cl.remote.find? gline).isNone then List.drop 1 cl.remote else cl.remote
        { cl with remote := Assoc.put ls gline { data := data, poison := p, tag := tag } }

/-- A line pulled by a thread fills its cluster's copies under its fill tag (05 R105). -/
def fillRemote (s : State) (tid asid : Nat) (va : Addr) (gline : Nat) (data : Vec) (bad : BitVec 8) : State :=
  fillTagged s (clusterOf tid) asid va gline (s.thread tid).fill data bad

/-- The copy that may serve a weak pull (05 R104): L1, a read-only stash line, or the remote-line buffer. -/
def heldCopy (s : State) (tid gline : Nat) : Option CopyLine :=
  match l1Line s tid gline with
  | some l => some l
  | none =>
    let cl := s.cluster (clusterOf tid)
    match cl.stashLines.find? (roKey gline) with
    | some l => some { data := l.data, poison := l.poison, tag := l.tag }
    | none => cl.remote.find? gline

/-! ### Releases and acquires (06 R117) -/

/-- The work of a release once every earlier access is performed: the core's dirty L1 words are written through,
and at domain scope the cluster's dirty stash lines are written back. -/
def releaseWork (s : State) (tid : Nat) (sc : Scope) : State :=
  let s := flushCore s (coreOf tid)
  match sc with
  | .domain => writeBackStash s (clusterOf tid)
  | _ => s

/-- The drops of an acquire: from tile scope the core's clean lines but those of read-only pages, from module scope
the cluster's untagged remote lines (05 R105, R106). -/
def acquireWork (s : State) (tid : Nat) (sc : Scope) : State :=
  let s := if sc = .thread then s else
    s.updCore (coreOf tid) fun k => { k with lines := k.lines.filter fun l => l.2.readOnly }
  if sc = .module ∨ sc = .domain then
    s.updCluster (clusterOf tid) fun cl => dropRemote cl fun t => t.isNone
  else s

/-- An acquire that reads all 8 bytes of a sequence word observes it: lines tagged with it under a lower value are
dropped (05 R105). -/
def observeWord (s : State) (c gpa : Nat) (v : Word) : State :=
  s.updCluster c fun cl => dropRemote cl fun t => match t with | some (w, x) => w == gpa && x.toNat < v.toNat | none => false

/-! ### What a thread's operations write -/

/-- A write by a thread reaches the point of truth (06 R118). -/
def threadPut (s : State) (tid : Nat) (phys : Bool) (e : Elem) (bs : List Byte) : State :=
  truthWrite s (spaceAsid s tid phys) e.va (localOf e.pa) bs

/-- A write by a thread, and the core's copies after it. -/
def threadWrite (s : State) (tid : Nat) (phys : Bool) (e : Elem) (bs : List Byte) : State :=
  showWrite (threadPut s tid phys e bs) (coreOf tid) [tid] (localOf e.pa) bs

/-- New memory value of an atomic (R216): w the access width in bits, x the old value, y the operand, d the expected
value; none where an `AMOCAS` does not write. -/
def amoValue (op : AmoOp) (w : Nat) (x y d : Nat) : Option Nat :=
  let lt := sextNat x w < sextNat y w
  match op with
  | .add => some ((x + y) % 2 ^ w)
  | .and => some (x &&& y)
  | .or => some (x ||| y)
  | .xor => some (x ^^^ y)
  | .min => some (if lt then x else y)
  | .max => some (if lt then y else x)
  | .minu => some (min x y)
  | .maxu => some (max x y)
  | .swap => some y
  | .cas => if x = d then some y else none

/-- The memory an atomic on an element leaves where its word is not poisoned: y the operand, x the expected value. The core's
copy is equal to the result (06 R128). -/
def amoWrite (s : State) (tid : Nat) (phys : Bool) (op : AmoOp) (y x : Word) (e : Elem) : State :=
  let w := 8 * e.size
  match amoValue op w (natOfBytes (truthRead s (localOf e.pa) e.size)) (y.toNat % 2 ^ w) (x.toNat % 2 ^ w) with
  | some v => patchCore (threadPut s tid phys e (bytesOfNat e.size v)) (coreOf tid) (localOf e.pa) (bytesOfNat e.size v)
  | none => s

/-- The memory a sequence advance leaves (R218). -/
def seqadvWrite (s : State) (tid : Nat) (phys add : Bool) (y : Word) (e : Elem) : State :=
  let x := truthWord s (localOf e.pa)
  threadWrite s tid phys e (bytesOfNat 8 (if add then min (x.toNat + y.toNat) (2 ^ 64 - 1) else max x.toNat y.toNat))

/-- The barrier object a `BARADD` leaves (R223). -/
def baraddWrite (s : State) (tid : Nat) (phys : Bool) (y : Word) (e : Elem) : State :=
  let a := localOf e.pa
  let s := threadWrite s tid phys e (bytesOfNat 8 (BitVec.ofInt 64 (satS ((truthWord s a).toInt - y.toInt) 64)).toNat)
  threadWrite s tid phys { e with va := e.va + 24, pa := e.pa + 24 } (bytesOfNat 8 (truthWord s (a + 24) + 1).toNat)

/-- What is left of an outstanding operation that writes takes its effect on memory: its instruction was executed before its
task ends (02 R43). -/
def landOut (s : State) (tid : Nat) (o : Out) : State :=
  match o.kind with
  | .store _ _ => o.elems.foldl (fun s e => threadWrite s tid o.phys e e.bytes) s
  | .amo op _ _ y x => o.elems.foldl (fun s e =>
      let s := flushElems s tid [e]
      if truthBad s (localOf e.pa) e.size then s else amoWrite s tid o.phys op y x e) s
  | .seqadv add _ _ y => o.elems.foldl (fun s e => if truthBad s (localOf e.pa) 8 then s else seqadvWrite s tid o.phys add y e) s
  | .baradd y => o.elems.foldl (fun s e => if truthBad s (localOf e.pa) 32 then s else baraddWrite s tid o.phys y e) s
  | .load _ _ _ | .fence _ => s

end Sys2Proof.Machine
end

