-- ==== Sys2Proof/Machine/Keys.lean ====
section
/-!
DEFINITION. Writer keys (01 R17–R20, 10 R224). A job's tag is its slot number (log entry 6).
-/
namespace Sys2Proof.Machine

def keyNone : Nat := 0xFF
def keyOpen : Nat := 0xFE
def keySup : Nat := 0xF0
def keyHost : Nat := 0xA5
def keyNet : Nat := 0xA6

/-- The 4 KiB unit of a local physical address, as key entries count it. -/
def unitOf (a : Nat) : Nat := a / 4096

/-- The live entry of a key table that covers a unit, with its index. -/
def keyAt (cl : Cluster) (u : Nat) : Option (Nat × KeyEntry) :=
  List.find? (fun e => e.2.base ≤ u && u < e.2.base + e.2.len) cl.keys

/-- The cluster that keys an address for a party of cluster c: the owner, or c itself for a host region (01 R17). -/
def keyCluster (c a : Nat) : Nat := ((spaceOf a).cluster?).getD c

/-- Whether a holder of a cluster's table, working for a job slot, may store to a unit (01 R17, R20); cluster-open regions serve
no deterministic job. -/
def mayStore (s : State) (c code slot u : Nat) : Bool :=
  match keyAt (s.cluster c) u with
  | none => false
  | some (_, e) =>
    e.holder == code ||
      (e.holder == keyOpen && e.job == slot && !(s.slot slot).det && code != keyHost && code != keyNet && code != keySup)

/-- Whether a thread may store to n bytes at a local address of its cluster. -/
def threadMayStore (s : State) (tid a n : Nat) : Bool :=
  let code := if (s.thread tid).sup.act then keySup else codeOf tid
  (range (unitOf a) (unitOf (a + n - 1) - unitOf a + 1)).all fun u =>
    mayStore s (clusterOf tid) code (slotOf s tid) u ||
      ((s.thread tid).sup.act && match spaceOf a with
        | .store c o => c == clusterOf tid && (24 - (s.cluster c).prot) * 0x40000 ≤ o
        | _ => false)

/-- Whether a code names a part the table accepts as holder (01 R18, R26): threads of present tiles, engines,
interfaces, network engine and decoders where present, the supervisor, cluster-open and no holder. -/
def codeOk (s : State) (c code : Nat) : Bool :=
  (code < 0x90 && tilePresent s (c * 6 + code / 24)) ||
  (0xA0 ≤ code && code ≤ 0xA5) ||
  (!s.fuse.lite && (code == 0xA6 || (0xA8 ≤ code && code ≤ 0xAF))) ||
  code == keySup || code == keyOpen || code == keyNone

/-- An entry after `KEYGIVE` of a code by a thread whose own code is `me` (10 R225). -/
def giveEntry (e : KeyEntry) (me code : Nat) : KeyEntry :=
  if code = me then e
  else if code < 0x90 then { e with holder := keyNone, pending := code }
  else { e with holder := code, pending := keyNone }

/-- When a thread's task ends (02 R43, 13 R280): keys it holds and entries that name it as pending go to the
supervisor, and lender fields that name it become 0xF0 (01 R19). -/
def endEntry (code : Nat) (e : KeyEntry) : KeyEntry :=
  let e := if e.holder = code then { e with holder := keySup } else e
  let e := if e.pending = code then { e with holder := keySup, pending := keyNone } else e
  if e.lender = code then { e with lender := keySup } else e

/-- Keys and pending names of a thread code of a cluster move with a context to another thread (01 R19, 10 R226). -/
def moveEntry (old new : Nat) (e : KeyEntry) : KeyEntry :=
  { e with holder := if e.holder = old then new else e.holder
           pending := if e.pending = old then new else e.pending
           lender := if e.lender = old then new else e.lender }

/-- How a key table names a context that is not on a hardware thread: `KEYQRY` shows the code of the thread it left,
its low byte, and no thread that takes its place has its keys (log entry 8). -/
def ctxCode (task : Nat) (striker : Bool) (code : Nat) : Nat := (2 * task + (if striker then 1 else 0) + 1) * 256 + code

def mapKeys (s : State) (c : Nat) (f : KeyEntry → KeyEntry) : State :=
  s.updCluster c fun cl => { cl with keys := cl.keys.map fun e => (e.1, f e.2) }

/-- Lends the keys of written units to an engine (01 R19): the entries of a cluster's table that cover a unit and
are held by the lender become the engine's, with the lender named. Returns the entries lent. -/
def lendKeys (s : State) (c lender engine : Nat) (units : List Nat) : State × List Nat :=
  let ks := ((s.cluster c).keys.filter fun e =>
    e.2.holder == lender && units.any fun u => e.2.base ≤ u && u < e.2.base + e.2.len).map (·.1)
  (s.updCluster c fun cl =>
    { cl with keys := cl.keys.map fun e =>
        if ks.contains e.1 then (e.1, { e.2 with holder := engine, lender := lender }) else e }, ks)

/-- Ends a loan: each entry returns to the holder its lender field names (01 R19). -/
def returnKeys (s : State) (c engine : Nat) (ks : List Nat) : State :=
  s.updCluster c fun cl =>
    { cl with keys := cl.keys.map fun e =>
        if ks.contains e.1 && e.2.lender != keyNone && e.2.holder == engine then
          (e.1, { e.2 with holder := e.2.lender, lender := keyNone }) else e }

end Sys2Proof.Machine
end

