-- ==== Sys2Proof/Machine/MatrixUnit.lean ====
section
/-!
DEFINITION. What the matrix engine does with an accepted instruction (03 R53–R69, 12 R250–R259): element formats, the
accumulation of products, the conversions of `MDRAIN` and `MLOAD`, and the effect of each instruction on the tile.
-/
namespace Sys2Proof.Machine

/-! ### Formats (03 R53–R60) -/

def fmtCode (w : Word) : Nat := field w 0 5
def scaleOff (w : Word) : Nat := field w 16 17
def scaleBlocks (w : Word) : Nat := field w 40 7

inductive FmtClass where
  | float | int | tern | bin
  deriving DecidableEq, Repr

def codeClass (c : Nat) : FmtClass :=
  if c ≤ 9 ∨ 0x12 ≤ c then .float else if c ≤ 0x0F then .int else if c = 0x10 then .tern else .bin

def codeScaled (c : Nat) : Bool := 0x12 ≤ c

/-- The unscaled element format of a code. -/
def baseCode (c : Nat) : Nat :=
  if c < 0x12 then c else ([4, 5, 7, 8, 9, 0x0D][c - 0x12]?).getD 0

/-- Bits an element occupies; an N19 element fills a 32-bit container. -/
def codeWidth (c : Nat) : Nat :=
  ([32, 32, 16, 16, 8, 8, 8, 6, 6, 4, 16, 8, 8, 4, 4, 2, 2, 1, 8, 8, 6, 6, 4, 4][c]?).getD 32

def codeFmt (c : Nat) : Option Fmt := [fp32, n19, fp16, bf16, e5m2, e4m3, e3m4, e3m2, e2m3, e2m1][c]?

/-- The integer an element of an integer, ternary or binary format stands for (R57). -/
def elemInt (c x : Nat) : Int :=
  match c with
  | 0x0C | 0x0E => x
  | 0x10 => if x = 1 then 1 else if x = 3 then -1 else 0
  | 0x11 => if x = 0 then 1 else -1
  | _ => sextNat x (codeWidth c)

/-- The exact value of an element, without its scale word; `flush` reads BF16 subnormals as zero (R63). -/
def elemVal (flush : Bool) (c x : Nat) : Val :=
  match codeFmt (baseCode c) with
  | some fm =>
    let x := if c = 1 then x / 2 ^ 13 else x
    if flush && c == 3 && fm.subnormal x then .zero (fld x 15 1 == 1) else fm.decode x
  | none => .ofInt (elemInt (baseCode c) x)

/-- Bytes that n packed elements occupy, the last packing unit included (R58). -/
def rowBytes (c n : Nat) : Nat := if codeWidth c = 6 then (n + 3) / 4 * 3 else (n * codeWidth c + 7) / 8

/-- The same rounded up to a multiple of 64 (R254). -/
def pitchOf (c n : Nat) : Nat := (rowBytes c n + 63) / 64 * 64

/-- The codes of n packed elements at a bank address. -/
def readElems (s : State) (a c n : Nat) : List Nat :=
  let x := natOfBytes (truthRead s a (rowBytes c n))
  (range 0 n).map fun i => x / 2 ^ (codeWidth c * i) % 2 ^ codeWidth c

/-- Packed elements as bytes (R58). -/
def packElems (c : Nat) (xs : List Nat) : List Byte :=
  bytesOfNat (rowBytes c xs.length) (xs.foldr (fun x acc => x % 2 ^ codeWidth c + acc * 2 ^ codeWidth c) 0)

/-- The scale word of row or column i in block b of a bank (R60). -/
def scaleWord (s : State) (bank : Nat) (fmt : Word) (b i : Nat) : Nat :=
  natOfBytes (truthRead s (bank + scaleOff fmt + 2 * (64 * b + i)) 2)

/-- The value of a scale word as a significand and an exponent: none where the block contributes zero (R59). -/
def scaleVal (fmt : Word) (x : Nat) : Option (Nat × Int) :=
  if codeScaled (fmtCode fmt) then
    let e := sextNat (x / 256) 8
    if e = -128 then none else some (256 + x % 256, e - 8)
  else some (1, 0)

def scaleBy (v : Val) (x : Nat × Int) : Val :=
  match v with
  | .fin s m e k => .fin s (m * x.1) (e + x.2) k
  | w => w

/-! ### Accumulation (R64–R67) -/

/-- RoundFP32 of acc + x, for an accumulator given as FP32 bits. -/
def addFp32 (acc : Nat) (x : Val) : Nat := (fp32.finish .even false (addVal .even (fp32.decode acc) x).1).1

/-- Products kept at most w bits wide below the leading exponent e, and summed (R64). -/
def groupSum (w : Nat) (e : Int) : List Val → Int
  | [] => 0
  | .fin s m f _ :: r =>
    let d := f - (e - w + 1)
    let q : Nat := if 0 ≤ d then m * 2 ^ d.toNat else m / 2 ^ (-d).toNat
    (if s then -(q : Int) else q) + groupSum w e r
  | _ :: r => groupSum w e r

/-- The largest exponent among nonzero products. -/
def groupExp (ps : List Val) : Int :=
  ((ps.filter fun p => !p.isZero).map Val.exp).foldl max (-100000)

/-- One group of float-class products into an accumulator (R64). -/
def floatGroup (w : Nat) (sa sb : Option (Nat × Int)) (ps : List Val) (acc : Nat) : Nat :=
  match sa, sb with
  | some x, some y =>
    let isNan := fun (p : Val) => match p with | .nan _ => true | _ => false
    if ps.any isNan || (ps.contains (.inf false) && ps.contains (.inf true)) then 0x7FC00000
    else if ps.contains (.inf false) then addFp32 acc (.inf false)
    else if ps.contains (.inf true) then addFp32 acc (.inf true)
    else if ps.all Val.isZero then acc
    else
      let e := groupExp ps
      let t := groupSum w e ps
      if t = 0 then acc else addFp32 acc (.fin (t < 0) (t.natAbs * x.1 * y.1) (e - w + 1 + x.2 + y.2) false)
  | _, _ => acc

/-- The products of a row and a column. -/
def products : List Val → List Val → List Val
  | a :: r, b :: t => (mulVal a b).1 :: products r t
  | _, _ => []

/-- The groups of a K range, from its first index k (R64): n products each, under their block's scale words. -/
def floatGroups (n w : Nat) (sa sb : List (Option (Nat × Int))) : Nat → Nat → List Val → Nat → Nat
  | 0, _, _, acc => acc
  | fuel + 1, k, ps, acc =>
    if ps.isEmpty then acc
    else
      floatGroups n w sa sb fuel (k + n) (ps.drop n)
        (floatGroup w ((sa[k / 64]?).getD none) ((sb[k / 64]?).getD none) (ps.take n) acc)

/-- The FP32 path (R65): one rounding for each product. -/
def fp32Path (sa sb : List (Option (Nat × Int))) : Nat → List Val → Nat → Nat
  | _, [], acc => acc
  | k, p :: r, acc =>
    fp32Path sa sb (k + 1) r
      (match (sa[k / 64]?).getD none, (sb[k / 64]?).getD none with
      | some x, some y => if p.isZero then acc else addFp32 acc (scaleBy (scaleBy p x) y)
      | _, _ => acc)

/-- The sum of one integer group (R66). -/
def intDot : List Int → List Int → Int
  | a :: r, b :: t => a * b + intDot r t
  | _, _ => 0

/-- Integer groups (R66): the accumulator's value, and whether it has saturated. -/
def intGroups (n : Nat) : Nat → List Int → List Int → Int × Bool → Int × Bool
  | 0, _, _, acc => acc
  | fuel + 1, a, b, acc =>
    if a.isEmpty then acc
    else
      let t := acc.1 + intDot (a.take n) (b.take n)
      intGroups n fuel (a.drop n) (b.drop n) (satS t 32, acc.2 || satS t 32 != t)

/-- Whether a pairing is one of R61. -/
def pairs (ca cb : Nat) : Bool :=
  match codeClass ca, codeClass cb with
  | .float, .float | .int, .int | .bin, .bin => true
  | .tern, .int => cb == 0x0B || cb == 0x0C
  | .int, .tern => ca == 0x0B || ca == 0x0C
  | .bin, .int => cb == 0x0B
  | .int, .bin => ca == 0x0B
  | _, _ => false

/-- An operand of `MMA` as read (R254): 64 rows of element codes, and 64 lists of scale words. -/
structure Operand where
  fmt : Word
  rows : List (List Nat)
  scales : List (List (Option (Nat × Int)))
  deriving DecidableEq, Repr

def readOperand (s : State) (bank : Nat) (fmt : Word) (off k : Nat) : Operand :=
  let c := fmtCode fmt
  { fmt := fmt
    rows := (range 0 64).map fun i => readElems s (bank + off + i * pitchOf c k) c k
    scales := (range 0 64).map fun i => (range 0 ((k + 63) / 64)).map fun b => scaleVal fmt (scaleWord s bank fmt b i) }

/-- Whether a word an operand consists of reads as poisoned. -/
def operandBad (s : State) (bank : Nat) (fmt : Word) (off k : Nat) : Bool :=
  let c := fmtCode fmt
  ((range 0 64).any fun i => truthBad s (bank + off + i * pitchOf c k) (rowBytes c k)) ||
    (codeScaled c && truthBad s (bank + scaleOff fmt) (128 * ((k + 63) / 64)))

/-- What `MMA` makes of the element in row i and column j of an accumulator: its new bits, and whether it saturated. -/
def mmaElement (a b : Operand) (i j : Nat) (x : BitVec 32) : BitVec 32 × Bool :=
  let ca := fmtCode a.fmt
  let cb := fmtCode b.fmt
  let ra := (a.rows[i]?).getD []
  let rb := (b.rows[j]?).getD []
  if codeClass ca = .float then
    let ps := products (ra.map (elemVal true ca)) (rb.map (elemVal true cb))
    let sa := (a.scales[i]?).getD []
    let sb := (b.scales[j]?).getD []
    if ca = 0 ∨ cb = 0 then (BitVec.ofNat 32 (fp32Path sa sb 0 ps x.toNat), false)
    else if codeWidth ca > 8 ∨ codeWidth cb > 8 then (BitVec.ofNat 32 (floatGroups 16 40 sa sb ps.length 0 ps x.toNat), false)
    else (BitVec.ofNat 32 (floatGroups 32 24 sa sb ps.length 0 ps x.toNat), false)
  else
    let n := if ca = 0x0A ∨ cb = 0x0A then 16 else 32
    let r := intGroups n ra.length (ra.map (elemInt ca)) (rb.map (elemInt cb)) (x.toInt, false)
    (BitVec.ofInt 32 r.1, r.2)

/-! ### Drain and load (R68, R69, R258) -/

/-- A value written into a float format by `MDRAIN` or a conversion copy: bits, saturated, NaN dropped (R68). -/
def drainFloat (c : Nat) (clamp : Bool) (v : Val) : Nat × Bool × Bool :=
  match codeFmt c with
  | none => (0, false, false)
  | some fm =>
    let put := fun (x : Nat) => if c = 1 then x * 2 ^ 13 else x
    if fm.infinity then (put (fm.finish .even (c == 3) v).1, false, false)
    else
      let keepsNan := c = 5 ∨ c = 6
      let tooBig := fun (neg : Bool) =>
        if keepsNan ∧ ¬ clamp then (0x7F, false, false) else (fm.maxBits neg, true, false)
      match v with
      | .nan _ => if keepsNan then (0x7F, false, false) else (0, false, true)
      | .inf neg => tooBig neg
      | .fin neg m e k =>
        if m = 0 then (fm.signBit neg, false, false)
        else match (roundIEEE fm .even neg m e k).1 with
          | .num n f u => (fm.encode n f u, false, false)
          | .over n _ => tooBig n

/-- A value written into an integer format (R68). -/
def drainInt (c : Nat) (v : Val) : Nat × Bool × Bool :=
  let w := codeWidth c
  let unsigned := c = 0x0C ∨ c = 0x0E
  let put := fun (x : Int) =>
    let y := if unsigned then satU x w else satS x w
    ((BitVec.ofInt w y).toNat, y != x, false)
  match v with
  | .nan _ => (0, false, true)
  | .inf neg => ((put (if neg then -(2 ^ 40) else 2 ^ 40)).1, true, false)
  | .fin neg m e k =>
    let r := (roundAt neg m e k 0 .even).1
    put (if neg then -(r : Int) else r)

/-- One accumulator element in the format of its destination (R68); `asInt` reads it as INT32. -/
def drainElem (c : Nat) (clamp asInt : Bool) (x : BitVec 32) : Nat × Bool × Bool :=
  if c = 0 && !asInt then (x.toNat, false, false)
  else
    let v := if asInt then Val.ofInt x.toInt else fp32.decode x.toNat
    if codeClass c = .int then drainInt c v else drainFloat c clamp v

/-- One bank element as an accumulator element (R258). -/
def loadElem (c x : Nat) : BitVec 32 :=
  if codeClass c = .int then BitVec.ofInt 32 (elemInt c x)
  else BitVec.ofNat 32 (fp32.finish .even false (elemVal true c x)).1

/-! ### The tile's accumulators -/

def Tile.accum (t : Tile) (k : Nat) : Accum := t.acc.get {} k
def Tile.setAccum (t : Tile) (k : Nat) (x : Accum) : Tile := { t with acc := t.acc.put k x }
def Tile.fmtAt (t : Tile) (b : Nat) : Word := t.fmt.get 0 b

/-- The elements an element-wise function makes of stored ones. -/
def mapElems (f : Nat → BitVec 32) : Assoc (BitVec 32) :=
  (range 0 4096).filterMap fun x => if f x = 0 then none else some (x, f x)

/-- The redundant copy: the elements that differ from the primary one (R259). -/
def Tile.shadowOf (t : Tile) (k : Nat) : Assoc (BitVec 32) := (t.shadow.get {} k).data

/-- The redundant copy after a computation: `f` of its old elements, with what a fault of the array changes. -/
def nextShadow (s : State) (old : Assoc (BitVec 32)) (f : Nat → BitVec 32 → BitVec 32) (primary : Accum) : Assoc (BitVec 32) :=
  let moved : Assoc (BitVec 32) := (old.map fun p => (p.1, f p.1 p.2)).filter fun p => p.2 != primary.data.get 0 p.1
  match Config.upset s.serial with
  | some (x, d) => if d = 0 then moved else Assoc.put moved (x % 4096) (Assoc.get moved (primary.data.get 0 (x % 4096)) (x % 4096) ^^^ d)
  | none => moved

/-- Writes an accumulator and, where it is paired, its redundant copy. -/
def putAccum (s : State) (n k : Nat) (x : Accum) (f : Nat → BitVec 32 → BitVec 32) : State :=
  if x.paired then
    let sh := nextShadow s ((s.tile n).shadowOf k) f x
    (s.updTile n fun t => { t.setAccum k x with shadow := t.shadow.put k { data := sh } }).bump
  else s.updTile n fun t => { t.setAccum k x with shadow := t.shadow.drop k }

/-! ### Performing an accepted instruction -/

/-- The local physical address of a bank of a package tile. -/
def bankAddr (n : Nat) (b : BitVec 4) : Nat := bankBase (n / 6) (n % 6) b.toNat

def redundancy (cfg : BitVec 3) : Nat := cfg.toNat / 2

/-- `MCFG` (R252). -/
def doMcfg (s : State) (n : Nat) (q : MxOp) : State :=
  s.updTile n fun t =>
    let cfg := BitVec.ofNat 3 q.x.toNat
    if redundancy cfg = redundancy t.cfg then { t with cfg := cfg }
    else { t with cfg := cfg, acc := t.acc.map (fun a => (a.1, { a.2 with paired := false })), shadow := [] }

/-- `BFMT` (R253). -/
def doBfmt (s : State) (n : Nat) (b : BitVec 4) (q : MxOp) : State :=
  s.updTile n fun t => { t with fmt := t.fmt.put b.toNat q.x }

/-- `MZERO` (R256). -/
def doMzero (s : State) (n : Nat) (c : BitVec 4) : State :=
  putAccum s n c.toNat { paired := redundancy (s.tile n).cfg != 0 } fun _ _ => 0

/-- `MMA` (R255). -/
def doMma (s : State) (n : Nat) (c ba bb : BitVec 4) (q : MxOp) : State :=
  let k := field q.x 0 13
  let oa := field q.y 0 17
  let ob := field q.y 32 17
  let a := readOperand s (bankAddr n ba) q.fmtA oa k
  let b := readOperand s (bankAddr n bb) q.fmtB ob k
  let old := (s.tile n).accum c.toNat
  let f := fun (x : Nat) (v : BitVec 32) => mmaElement a b (x / 64) (x % 64) v
  let tinv := fun (o : Operand) => fmtCode o.fmt == 0x10 && o.rows.any fun r => r.contains 2
  putAccum s n c.toNat
    { old with
      data := mapElems fun x => (f x (old.data.get 0 x)).1
      sat := old.sat || (range 0 4096).any fun x => (f x (old.data.get 0 x)).2
      tinv := old.tinv || tinv a || tinv b
      poison := old.poison || operandBad s (bankAddr n ba) q.fmtA oa k || operandBad s (bankAddr n bb) q.fmtB ob k }
    fun x v => (f x v).1

/-- `MLOAD` (R258). -/
def doMload (s : State) (n : Nat) (c b : BitVec 4) (q : MxOp) : State :=
  let code := fmtCode q.fmtA
  let row := fun (i : Nat) => bankAddr n b + field q.y 0 17 + i * field q.y 32 17
  let rows := (range 0 64).map fun i => readElems s (row i) code 64
  let at_ := fun (x : Nat) => loadElem code (((rows[x / 64]?).getD [])[x % 64]?.getD 0)
  let bad := (range 0 64).any fun i => truthBad s (row i) (rowBytes code 64)
  putAccum s n c.toNat { data := mapElems at_, poison := bad, paired := redundancy (s.tile n).cfg != 0 } fun x _ => at_ x

/-- Writes one row of a drained tensor, all of it or the words that a test picks; a poisoned accumulator poisons every line it
touches (R251). -/
def drainRow (s : State) (a : Nat) (bs : List Byte) (bad : Bool) (only : Option (Nat → Bool)) : State :=
  let s := match only with
    | none => truthWrite s physAsid 0 a bs
    | some k => ((range 0 ((a % 8 + bs.length + 7) / 8)).filter fun i => k (a / 8 + i)).foldl (fun s i =>
        truthWrite s physAsid 0 (a + (wordSlice a bs.length i).1) ((bs.drop (wordSlice a bs.length i).1).take (wordSlice a bs.length i).2)) s
  if bad then truthPoisonWrite s (a / 64 * 64) ((a % 64 + bs.length + 63) / 64 * 64) else s

/-- The elements of an accumulator as a drain gives them. -/
def drainOut (s : State) (n : Nat) (c : BitVec 4) (q : MxOp) : List (List (Nat × Bool × Bool)) :=
  let data := ((s.tile n).accum c.toNat).data
  (range 0 64).map fun i => (range 0 64).map fun j =>
    drainElem (fmtCode q.fmtA) ((s.tile n).cfg.getLsbD 0) (q.y.getLsbD 63) (data.get 0 (i * 64 + j))

/-- Writes the rows of a drained tensor. -/
def drainRows (s : State) (n : Nat) (c b : BitVec 4) (q : MxOp) (only : Option (Nat → Bool)) : State :=
  let bad := ((s.tile n).accum c.toNat).poison
  (drainOut s n c q).zipIdx.foldl (fun s p =>
    drainRow s (bankAddr n b + field q.y 0 17 + p.2 * field q.y 32 17) (packElems (fmtCode q.fmtA) (p.1.map (·.1))) bad only) s

/-- A redundancy mismatch records an event and counts against its tile (21 R380, R381). -/
def mismatchSeen (s : State) (n : Nat) : State :=
  logEvent (s.count (16 * (n / 6) + 12) 1) 4 0x0E 0xFF (endpointOf s (n / 6) (n % 6 * 6 + 1)) 0 (n % 6)

/-- `MDRAIN` (R257, R259): what has not been written of the tensor, then the status in sd; in asynchronous mode a mismatch makes 0x0E pending. -/
def doMdrain (s : State) (n : Nat) (d : SReg) (c b : BitVec 4) (q : MxOp) : State :=
  let t := s.tile n
  let acc := t.accum c.toNat
  let out := drainOut s n c q
  let mismatch := acc.paired && !(t.shadowOf c.toNat).isEmpty
  let s := drainRows s n c b q (if q.landed.isEmpty then none else some fun w => !q.landed.contains w)
  let st := (if acc.sat then 1 else 0) + (if acc.tinv then 2 else 0) +
    (if out.any fun r => r.any (·.2.1) then 4 else 0) + (if out.any fun r => r.any (·.2.2) then 8 else 0)
  let s := s.updThread q.tid fun t => t.wsLate false d (BitVec.ofNat 64 st)
  if mismatch && redundancy t.cfg = 2 then
    let s := mismatchSeen s n
    s.updThread q.tid fun t => { t with pend := t.pend ++ [{ code := 0x0E, detail := n % 6 }]
                                        hold := if t.hold = some .idle then some .done else t.hold }
  else s

/-- The effect of an accepted matrix instruction. -/
def performMx (s : State) (n : Nat) (q : MxOp) : State :=
  match q.instr with
  | .mcfg _ => doMcfg s n q
  | .bfmt b _ => doBfmt s n b q
  | .mzero c => doMzero s n c
  | .mma c ba bb _ _ => doMma s n c ba bb q
  | .mload c b _ => doMload s n c b q
  | .mdrain d c b _ => doMdrain s n d c b q
  | _ => s

/-- Whether an accepted instruction waits for earlier accesses of the striker to its bytes (R251). -/
def mxWaits (s : State) (q : MxOp) : Bool :=
  (s.thread q.tid).outs.any fun o => o.serial < q.serial && o.elems.any fun e =>
    !e.got && q.spans.any fun p => overlap p.1 p.2 (localOf e.pa / 8 * 8) (localOf e.pa % 8 + e.size)

/-- A drain that is a tile's first accepted instruction writes words of its tensor by themselves: of the words of its bank those whose
numbers are given (06 R118). -/
def drainWords (s : State) (words : List Nat) (n : Nat) : State :=
  match (s.tile n).queue with
  | q :: r =>
    match q.instr with
    | .mdrain _ c b _ =>
      if mxWaits s q then s
      else
        let now := (words.map (bankAddr n b / 8 + ·)).filter fun w => !q.landed.contains w
        (drainRows s n c b q (some now.contains)).updTile n fun t => { t with queue := { q with landed := q.landed ++ now } :: r }
    | _ => s
  | [] => s

/-- The first accepted instruction of a tile completes (R251): `mx` falls, and the cycles it was busy for count. -/
def completeMx (s : State) (n : Nat) : State :=
  match (s.tile n).queue with
  | [] => s
  | q :: r =>
    let s := (performMx (s.updTile n fun t => { t with queue := r }) n q).countBytes (16 * (n / 6) + 2) 0
    s.updThread q.tid fun t => { t with mx := t.mx - 1, hold := if t.hold = some .idle then some .done else t.hold }

end Sys2Proof.Machine
end

