-- ==== Sys2Proof/Machine/Mesh.lean ====
section
/-!
DEFINITION. Active messages on the networks (07 R136–R142; 20 R354, R357): the fields of a packet, the modules a request
can reach, and what becomes of a message the mesh accepts.
-/
namespace Sys2Proof.Machine

/-! ### Other modules -/

/-- Whether another module is treated as fenced (21 R373). -/
def fencedModule (s : State) (m : Nat) : Bool := (s.regs.fencem.get 0 (m / 64)).getLsbD (m % 64)

/-- Whether a module has a port up in its route (20 R357, R358). -/
def routeUp (s : State) (m : Nat) : Bool :=
  let r := s.regs.nlroute.get 0 m
  (range 0 18).any fun p => r / 2 ^ p % 2 = 1 && (match s.ports[p]? with | some x => x.state == .up | none => false)

/-- A module no request can reach: fenced here, or without a port (20 R357, 21 R373). -/
def unreachable (s : State) (m : Nat) : Bool := fencedModule s m || !routeUp s m

/-! ### Ports and packets (20 R355, R356) -/

/-- Narlor port p, or from 18 on the keyhole port of stack p − 18 (20 R359). -/
def State.port (s : State) (p : Nat) : Port := if p < 18 then s.ports[p % 18]'(by omega) else s.keyPorts[(p - 18) % 8]'(by omega)
def State.updPort (s : State) (p : Nat) (f : Port → Port) : State :=
  { s with ports := if p < 18 then s.ports.set (p % 18) (f (s.port p)) (by omega) else s.ports
           keyPorts := if p < 18 then s.keyPorts else s.keyPorts.set ((p - 18) % 8) (f (s.port p)) (by omega) }

/-- Whether a Narlor or keyhole port is up. -/
def State.portUp (s : State) (p : Nat) : Bool := if p < 18 then (s.port p).state == .up else s.regs.keyhole.contains (p - 18)

/-- Beats of a packet: the route beat and its body (R356). -/
def LinkPacket.beats (p : LinkPacket) : Nat := 1 + (p.body.length + 15) / 16

/-- A link packet on the wire: its route beat and its body, in whole beats. -/
def LinkPacket.wire (p : LinkPacket) : List Byte :=
  bytesOfNat 1 p.typ ++ bytesOfNat 1 p.net ++ bytesOfNat 3 p.src ++ bytesOfNat 3 p.dst ++ bytesOfNat 2 p.tag ++ bytesOfNat 1 p.status ++
    List.replicate 5 0 ++ p.body ++ List.replicate ((p.beats - 1) * 16 - p.body.length) 0

/-- The 256 bytes of a flit on a port: header, encrypted payload, tag. -/
def Flit.wire (f : Flit) (port : Nat) : List Byte :=
  let head := bytesOfNat 2 f.seq ++ bytesOfNat 2 f.ack ++ bytesOfNat 1 f.kind ++ [0] ++ bytesOfNat 2 f.reqCredits ++
    bytesOfNat 2 f.repCredits ++ List.replicate 6 0
  let payload := f.packets.flatMap LinkPacket.wire
  let body := head ++ Config.linkSeal port f.seq (payload ++ List.replicate (224 - payload.length) 0)
  body ++ Config.linkTag port f.seq body

/-- A packet leaves the buffer of the port it came in by, whose beats are free again (R356). -/
def freeBeats (s : State) (p : LinkPacket) : State :=
  match p.via with
  | none => s
  | some q => s.updPort q fun x =>
    if p.net = 0 then { x with reqFreed := x.reqFreed + p.beats } else { x with repFreed := x.repFreed + p.beats }

/-- Packet i that came over the fabric is taken. -/
def State.dropIngress (s : State) (i : Nat) : State :=
  match s.ingress[i]? with
  | some p => freeBeats { s with ingress := dropNth s.ingress i } p
  | none => s

/-! ### The packet (R136) -/

def msgByte (m : Vec) (i : Nat) : Nat := m.toNat / 2 ^ (8 * i) % 256
def msgField (m : Vec) (i n : Nat) : Nat := m.toNat / 2 ^ (8 * i) % 2 ^ (8 * n)
def msgOpcode (m : Vec) : Nat := msgByte m 0
def msgTarget (m : Vec) : Nat := msgField m 1 3
def msgSender (m : Vec) : Nat := msgField m 4 3
def msgInbox (m : Vec) : Nat := msgByte m 7 % 64
def msgReply (m : Vec) : Bool := msgByte m 8 % 2 == 1
def msgPosted (m : Vec) : Bool := msgByte m 8 / 2 % 2 == 1
def msgWords (m : Vec) : Nat := msgByte m 8 / 4 % 8
def msgStatus (m : Vec) : Nat := msgByte m 8 / 32
def msgSlot (m : Vec) : Nat := msgByte m 9 % 16
def msgAsid (m : Vec) : Nat := msgField m 12 4 % 2 ^ 20

/-- Module, cluster and unit of an endpoint ID (00 R6). -/
def epModule (e : Nat) : Nat := e / 2 ^ 14 % 2 ^ 10
def epCluster (e : Nat) : Nat := e / 2 ^ 8 % 64
def epUnit (e : Nat) : Nat := e % 256

/-- The hardware thread a core's endpoint and a packet's byte [9] name (R137). -/
def threadOf (e byte9 : Nat) : Nat := epCluster e * 144 + epUnit e * 4 + byte9 / 16 % 4

/-- The thread that sent a request. -/
def msgFrom (m : Vec) : Nat := threadOf (msgSender m) (msgByte m 9)

/-- A packet with the fields the sending interface writes (R136): the control byte's network and posted bits, status,
reply endpoint, byte [9] and ASID; operand words beyond the stated count are zero. -/
def sealMsg (m : Vec) (reply posted : Bool) (status sender byte9 asid : Nat) : Vec :=
  let bs := bytesOfVec m
  let n := msgWords m
  let ctl := (if reply then 1 else 0) + (if posted then 2 else 0) + 4 * n + 32 * status
  vecOfBytes (bs.take 4 ++ bytesOfNat 3 sender ++ sliceBytes bs 7 1 ++ bytesOfNat 1 ctl ++ bytesOfNat 1 byte9 ++
    sliceBytes bs 10 2 ++ bytesOfNat 4 (asid % 2 ^ 20) ++ sliceBytes bs 16 (8 * n) ++ List.replicate (48 - 8 * n) 0)

/-- The reply that refuses a request, or accepts a posted one (12 R268): the request's opcode, tag and slot, to its
sender, with a status. -/
def answerMsg (m : Vec) (status : Nat) : Vec :=
  let bs := bytesOfVec m
  sealMsg (vecOfBytes (bs.take 1 ++ bytesOfNat 3 (msgSender m) ++ bs.drop 4)) true (msgPosted m) status (msgTarget m)
    (msgByte m 9) (msgAsid m)

/-- A message as a link packet (20 R356 type 1). -/
def msgPacket (m : Vec) (src : Nat) : LinkPacket :=
  { typ := 1, net := if msgReply m then 1 else 0, src := src, dst := msgTarget m, tag := 0, status := 0, body := bytesOfVec m }

/-- The answer to a posted request on its way back. -/
def postAnswer (s : State) (m : Vec) (status : Nat) : PostFlight :=
  { tid := msgFrom m, entry := msgSlot m, status := status, port := msgTarget m / 256, order := s.serial }

/-- A posted request is accepted or refused. -/
def answerPost (s : State) (m : Vec) (status : Nat) : State :=
  let p := postAnswer s m status
  if status = 0 then { s.bump with accepts := s.accepts ++ [p] } else { s.bump with refusals := s.refusals ++ [p] }

/-- The mesh accepts a message of a thread (R139): requests for this module are on their way to the target's message
interface, replies to the thread they name, and messages for another module leave by the links; one to a module that
is fenced or unreachable is refused with status 2 (R140), a reply to one goes nowhere. -/
def acceptMessage (s : State) (slot : Nat) (m : Vec) : State :=
  if epModule (msgTarget m) = s.regs.modnum % 1024 then
    if msgReply m then { s with replies := s.replies ++ [m] } else { s with requests := s.requests ++ [{ msg := m, slot := slot }] }
  else if unreachable s (epModule (msgTarget m)) then
    if msgReply m then s
    else if msgPosted m then answerPost s m 2
    else { s with replies := s.replies ++ [answerMsg m 2] }
  else { s with egress := s.egress ++ [msgPacket m (msgSender m)] }

/-- The mesh accepts every message in a thread's send queue. -/
def acceptQueue (s : State) (tid : Nat) : State :=
  let slot := slotOf s tid
  ((s.thread tid).sq.foldl (fun s m => acceptMessage s slot m) s).updThread tid fun t => { t with sq := [] }

end Sys2Proof.Machine
end

