-- ==== Sys2Proof/Machine/Work.lean ====
section
/-!
DEFINITION. The levels of work (02 R27): events to the host ring, the ends of tasks, launches and graph nodes, the
progress of host queues, cancellation (02 R43, R44), placement (02 R36–R38) and the start of tasks (08 R166).
-/
namespace Sys2Proof.Machine

/-! ### Host queues (18 R331, R332) -/

/-- Whether an engine job belongs to an entry's work: a task of its launch, or of a launch of its graph, issued it, or a
node of its graph. -/
def EntryWork.owns (s : State) (w : EntryWork) (j : Job) : Bool :=
  let l := (j.task.bind s.tasks.find?).bind fun t => s.launches.find? t.launch
  match w with
  | .launch h => l.any (·.handle == h)
  | .graph g _ => j.graph.any (·.1 == g) || l.any fun l => l.node.any (·.1 == g)
  | .phase | .refused => false

/-- Whether an entry is complete and every write of its work performed: its engine jobs too have ended. -/
def entryOver (s : State) (e : QEntry) : Bool := e.done && s.clusters.all fun c => c.2.jobs.all fun j => !e.work.owns s j

/-- Advances QPROG.done past the leading entries that are complete; before it advances, every write of their work is
performed at domain scope (R332). -/
def settleQueue (s : State) (q : Nat) : State :=
  let qu := s.queue q
  if qu.where_ ≠ .resident then s
  else
    let n := (qu.entries.takeWhile (entryOver s)).length
    if n = 0 then s
    else
      let s := (List.range 64).foldl (fun s c => if (s.cluster c).stashLines.isEmpty then s else writeBackStash s c) s
      let s := s.updQueue q fun qu => { qu with entries := qu.entries.drop n, prog := (qu.prog + n) % 2 ^ 32 }
      if qu.msix then s.signal q else s

/-- The queues look at their leading entries again: an engine job has ended. -/
def settleQueues (s : State) : State := (s.queues.map (·.1)).foldl settleQueue s

/-- A started entry's work is complete. -/
def entryDone (s : State) (q idx : Nat) : State :=
  settleQueue (s.updQueue q fun qu =>
    { qu with entries := qu.entries.map fun e => if e.idx = idx then { e with done := true } else e }) q

/-! ### Graphs (02 R30, R31) -/

/-- The nodes that following `next` reaches from a list of nodes, that list included. -/
def reach (next : Nat → List Nat) : Nat → List Nat → List Nat
  | 0, seen => seen
  | fuel + 1, seen =>
    let r := (seen.flatMap next).foldl (fun acc j => if acc.contains j then acc else acc ++ [j]) seen
    if r.length = seen.length then seen else reach next fuel r

def succsOf (ns : List Node) (i : Nat) : List Nat := (ns[i]?.map (·.succs)).getD []

/-- The nodes no successor list names (18 R329). -/
def startNodes (ns : List Node) : List Nat :=
  let named := ns.flatMap (·.succs)
  (range 0 ns.length).filter fun i => !named.contains i

/-- The body of a while node (18 R329): the nodes its body successor leads to that a pass of the graph enters through it
alone. -/
def bodyOf (ns : List Node) (w : Nat) : List Nat :=
  let past := fun i => if i = w then [] else succsOf ns i
  let outside := reach past ns.length (startNodes ns)
  (reach past ns.length ((succsOf ns w).take 1)).filter fun i => i != w && !outside.contains i

/-- The nodes that can still start after some nodes, without another pass of a loop whose body holds node n. -/
def aheadOf (ns : List Node) (n : Nat) (seen : List Nat) : List Nat :=
  let around := (range 0 ns.length).filter fun w => (ns[w]?.map (·.kind)) == some 4 && (bodyOf ns w).contains n
  reach (fun i => if around.contains i then (succsOf ns i).drop 1 else succsOf ns i) ns.length seen

def startedNodes (r : GraphRun) : List Nat :=
  (range 0 r.states.length).filter fun i => r.states[i]? == some .started

/-- Whether a due node may start (02 R31): it has not started, no predecessor has started and not completed, and none can
still be reached in the current pass from another node that is started or due (log entry 7: a branch not taken and a while
node's body before its first pass are no predecessors to wait for). -/
def nodeReady (g : Graph) (r : GraphRun) (n : Nat) : Bool :=
  let live := aheadOf g.nodes n (startedNodes r ++ r.due.filter (· != n))
  r.due.contains n && !(startedNodes r).contains n &&
    (range 0 g.nodes.length).all fun p => !((succsOf g.nodes p).contains n && live.contains p)

/-- Nodes not yet complete in the current pass (02 R27): every node that one started or due can still lead to in it, a branch that may not be
taken and what lies behind a while node too (DESIGN CHOICE: log entry 7). -/
def graphCount (g : Graph) (r : GraphRun) : Nat :=
  ((startedNodes r ++ r.due).flatMap fun n => aheadOf g.nodes n [n]).eraseDups.length

/-- Ends a graph's run where nothing is started or due any more: cancelled where a node of it was (log entry 127). -/
def settleGraph (s : State) (k : Nat) : State :=
  match s.graphs.find? k with
  | none => s
  | some g =>
    match g.run with
    | none => s
    | some r =>
      if (startedNodes r).isEmpty && (r.due.isEmpty || r.cancel) then
        let cut := r.cancel || r.states.contains .cancelled
        let e : GraphEnd := { slot := g.slot, state := if cut then .cancelled else .complete, cause := r.cause }
        let s := { s with graphEnds := s.graphEnds.put r.handle e }
        let s := s.updGraph k fun g => { g with run := none }
        match r.queue with
        | some (q, i) => entryDone s q i
        | none => s
      else s

/-- A node has completed: the successors it names become due, each at most once, but for those a cancellation has stopped. -/
def nodeDone (s : State) (k n : Nat) (succs : List Nat) : State :=
  settleGraph (s.updGraph k fun g => { g with run := g.run.map fun r =>
    { r with states := setNth r.states n .complete
             due := succs.foldl (fun d j => if d.contains j || r.states[j]? == some .cancelled then d else d ++ [j]) r.due } }) k

/-- A node ended by cancellation: it and the nodes that come after it do not start in this run (02 R44); the others go on. -/
def nodeCancelled (s : State) (k n cause : Nat) : State :=
  settleGraph (s.updGraph k fun g => { g with run := g.run.map fun r =>
    let gone := (aheadOf g.nodes n [n]).filter fun i => i == n || !(startedNodes r).contains i
    { r with states := gone.foldl (fun x i => setNth x i .cancelled) r.states
             due := r.due.filter fun i => !gone.contains i
             cause := if r.cause = 0 then cause else r.cause } }) k

/-! ### Ends of launches and tasks -/

/-- The endpoint of the launch unit of the die a launch runs on: that of its first cluster (20 R353). -/
def launchUnit (s : State) (l : Launch) : Nat :=
  endpointOf s (dieOf (((range 0 64).find? fun c => l.mask.getLsbD c).getD 0) * 32) 0x88

/-- A launch whose last task has ended (02 R27). -/
def settleLaunch (s : State) (h : Nat) : State :=
  match s.launches.find? h with
  | none => s
  | some l =>
    if l.state ≠ .running ∨ l.count ≠ 0 then s
    else
      let cancelledNow := l.cancel
      let s := s.updLaunch h fun l => { l with state := if cancelledNow then .cancelled else .complete }
      let s :=
        if cancelledNow && !l.asked then
          logEvent s (if l.cause = 0x13 then 5 else 6) l.cause l.slot (launchUnit s l) l.header.toNat h
        else s
      let s := match l.node with
        | some (k, n) =>
          if cancelledNow then nodeCancelled s k n l.cause
          else nodeDone s k n ((((s.graphs.find? k).bind fun g => g.nodes[n]?).map (·.succs)).getD [])
        | none => s
      match l.queue with
      | some (q, i) => entryDone s q i
      | none => s

/-- Withdraws watches by their numbers (05 R110): entries in the owners' tables, requests and answers in flight. -/
def withdraw (s : State) (ns : List Nat) : State :=
  if ns.isEmpty then s
  else
    { s with clusters := s.clusters.map fun c =>
               (c.1, { c.2 with watches := c.2.watches.filter fun e => e.link.isSome || !ns.contains e.serial })
             watchReqs := s.watchReqs.filter fun r => r.link.isSome || !ns.contains r.serial
             watchAnss := s.watchAnss.filter fun r => !ns.contains r.serial }

/-- Withdraws a context's watches. -/
def withdrawWatches (s : State) (t : Thread) : State :=
  withdraw s (t.slots.toList.filterMap fun (x : WatchSlot) => match x with | .placed _ _ n => some n | _ => none)

/-- Withdraws the watches of a collective engine's job. -/
def withdrawPeers (s : State) (j : Job) : State := withdraw s (j.watches.map fun w => w.2.1)

/-- Who a thread's inbox binding names: its task, and whether it is the striker of a pair. -/
def bindKey (s : State) (tid : Nat) : Option (Nat × Bool) := (s.thread tid).task.map fun k => (k, roleOf tid == 1)

/-- Ends a thread's binding and discards its waiting messages (07 R138). -/
def dropInbox (s : State) (c : Nat) (t : Thread) : State :=
  match t.inbox with
  | none => s
  | some n => s.updCluster c fun cl => { cl with inboxes := cl.inboxes.drop n }

/-- Writes the dirty words through that hold or cover a thread's stores. -/
def flushThread (s : State) (tid : Nat) : State :=
  flushWords s (coreOf tid) (((s.core (coreOf tid)).dirty.map (·.1)).filter fun w => (wroteAt (s.core (coreOf tid)) w).contains tid)

/-- Discards the dirty words a thread wrote last (20 R368 step 4). -/
def discardThread (s : State) (tid : Nat) : State :=
  s.updCore (coreOf tid) fun k =>
    let mine := (k.dirty.filter fun d => d.2.tid == tid).map (·.1)
    { k with dirty := k.dirty.filter fun d => !mine.contains d.1, dirtyBad := k.dirtyBad.filter fun w => !mine.contains w }

/-- Releases of a thread are performed: children that waited for one may start (13 R278). -/
def freeChildren (s : State) (tid : Nat) (which : Nat → Bool) : State :=
  { s with tasks := s.tasks.map fun (k : Nat × Task) => match k.2.state with
      | .held t n => (k.1, if t == tid && which n then { k.2 with state := .ready } else k.2)
      | _ => k }

/-- A hardware thread becomes free (13 R280 steps 4 and 5): its stores in L1 are written through, what it has
issued and not yet performed is written, keys it holds pass to the supervisor, watches and binding end, and its window map is cleared. -/
def releaseThread (s : State) (tid : Nat) : State :=
  let s := flushThread s tid
  let s := freeChildren ((s.thread tid).outs.foldl (fun s o => landOut s tid o) s) tid fun _ => true
  let s := mapKeys s (clusterOf tid) (endEntry (codeOf tid))
  let t := s.thread tid
  let s := acceptQueue (dropInbox (withdrawWatches s t) (clusterOf tid) t) tid
  s.updThread tid fun t =>
    { t with task := none, exited := false, hold := none, outs := [], inbox := none, spill := [], pend := [], sq := []
             win := Vector.replicate 32 none, slots := Vector.replicate 8 .free, reps := Vector.replicate 16 .free
             journal := Vector.replicate 16 .free, loop0 := {}, loop1 := {}, ld := 0, st := 0, cp := 0, mx := 0
             fill := none, ujV := false, ujIdx := 0, ujSt := 0 }

/-- A context that is not on a hardware thread ends: as `releaseThread`. -/
def releaseAway (s : State) (k tid : Nat) (t : Thread) : State :=
  let s := mapKeys s (clusterOf tid) (endEntry (ctxCode k (roleOf tid == 1) (codeOf tid)))
  dropInbox (withdrawWatches s t) (clusterOf tid) t

/-- What a tile has accepted completes before its pair ends, each instruction after the accesses its striker issued before
it (R251). -/
def landTile (s : State) (n : Nat) : State :=
  (s.tile n).queue.foldl (fun s q =>
    let s := ((s.thread q.tid).outs.filter (·.serial < q.serial)).foldl (fun s o => landOut s q.tid o) s
    completeMx (s.updThread q.tid fun t => { t with outs := t.outs.filter (q.serial ≤ ·.serial) }) n) s

/-! ### Queued descriptors (02 R38) -/

/-- Whether a task is queued. -/
def isReady (t : Task) : Bool := match t.state with | .ready | .held _ _ => true | _ => false

/-- The cluster of a unit: a package tile or a package core. -/
def unitCluster (tile : Bool) (u : Nat) : Nat := if tile then u / 6 else u / 36

/-- Kind of a task: whether it takes a tile. -/
def taskTile (s : State) (t : Task) : Bool := match s.launches.find? t.launch with | some l => l.tile | none => false

/-- The cluster whose dispatcher has a task. -/
def taskCluster (s : State) (t : Task) : Nat := unitCluster (taskTile s t) t.unit

/-- Descriptors queued on chip for a cluster. -/
def queuedOn (s : State) (c : Nat) : Nat :=
  (s.tasks.filter fun k => k.2.desc == .chip && isReady k.2 && taskCluster s k.2 == c).length

/-- A descriptor leaves its place for the queue on chip, or its task leaves the queue. -/
def takeDesc (s : State) (t : Task) : State :=
  let s := s.updTask t.id fun t => { t with desc := .chip }
  match t.desc with
  | .area i => s.updLaunch t.launch fun l =>
      { l with spilled := l.spilled.put (taskCluster s t) ((l.spilled.get [] (taskCluster s t)).filter (· != i)) }
  | _ => s

/-- Where a cluster's dispatcher has room, the oldest descriptor that waits for it elsewhere enters its queue. -/
def letIn (s : State) (c : Nat) : State :=
  if queuedOn s c < Config.taskQueue then
    match List.find? (fun (x : Nat × Task) => x.2.desc != .chip && isReady x.2 && taskCluster s x.2 == c) s.tasks with
    | some x => takeDesc s x.2
    | none => s
  else s

/-! ### The end of a task -/

/-- A context image of a job that is ending is zeroed where it lies in protected ways (20 R368 step 3). -/
def zeroImage (s : State) (im : Image) : State :=
  match spaceOf im.addr with
  | .store _ _ => zeroBytes s im.addr im.bytes.length
  | _ => s

/-- Ends a task (02 R35, R43): its record is kept for its parent's `TJOIN`, its threads become free, and its launch
counts one task fewer. The dirty words and images of a job that is ending are cleared with it (20 R368). -/
def endTask (s : State) (k : Nat) (wasCancelled : Bool) (record : Vec) : State :=
  match s.tasks.find? k with
  | none => s
  | some t =>
    match t.state with
    | .ended _ _ => s
    | st =>
      let clears := match s.launches.find? t.launch with | some l => (s.slot l.slot).ending.isSome | none => false
      let s := t.threads.foldl (if clears then discardThread else flushThread) s
      let s := (s.tiles.filter fun x => x.2.pair = some k).foldl (fun s x => landTile s x.1) s
      let s := t.threads.foldl releaseThread s
      let away : List (Nat × Thread) := match st with
        | .parked p => (p.tid, p.th) :: p.other.toList.map fun o => (p.tid + 4, o)
        | _ => (s.images.filter fun x => x.2.task = some k).map fun x => (x.2.tid, x.2.th)
      let s := away.foldl (fun s x => releaseAway s k x.1 x.2) s
      let s := if clears then (s.images.filter fun x => x.2.task = some k).foldl (fun s x => zeroImage s x.2) s else s
      let s := { s with images := s.images.filter fun x => x.2.task != some k }
      let s := { s with tiles := s.tiles.map fun (x : Nat × Tile) => (x.1, if x.2.pair = some k then { x.2 with pair := none } else x.2)
                        grace := s.grace.filter (· != k) }
      let s := s.updTask k fun t => { t with state := .ended wasCancelled record, threads := [] }
      let s := if isReady t then letIn (takeDesc s t) (taskCluster s t) else s
      let s := s.updLaunch t.launch fun l =>
        { l with count := l.count - 1, cause := if wasCancelled && l.cause == 0 then 0x15 else l.cause }
      settleLaunch s t.launch

/-! ### Cancellation (02 R43) -/

/-- Requests the cancellation of one task: a task that is queued or parked ends at once (a wait it is already in), one
that runs ends at its next point or when its grace period runs out. -/
def cancelTask (s : State) (k : Nat) : State :=
  match s.tasks.find? k with
  | none => s
  | some t =>
    let s := s.updTask k fun t => { t with cancel := true }
    match t.state with
    | .ready | .held _ _ | .parked _ => endTask s k true 0
    | .running =>
      let s := t.threads.foldl (fun s i => s.updThread i fun t =>
        { t with hold := if t.hold = some .realign then some .done else t.hold }) s
      { s with grace := if s.grace.contains k then s.grace else s.grace ++ [k] }
    | .saved => { s with grace := if s.grace.contains k then s.grace else s.grace ++ [k] }
    | .ended _ _ => s

/-- The tasks whose paths begin with a task's path, in its launch (02 R34): the task and every one below it. -/
def subtree (s : State) (k : Nat) : List Nat :=
  match s.tasks.find? k with
  | none => []
  | some t => (s.tasks.filter fun x => x.2.launch == t.launch && x.2.path.take t.path.length == t.path).map (·.1)

def cancelSubtree (s : State) (k : Nat) : State := (subtree s k).foldl cancelTask s

/-- Cancels a launch, recording a cause (0x15, 0x13, or the cause of a trap; 02 R43, R45, 08 R186), and whether software
asked for it. A collective of it stops after its current pull (07 R153). -/
def cancelLaunch (s : State) (asked : Bool) (h cause : Nat) : State :=
  match s.launches.find? h with
  | none => s
  | some l =>
    if l.state ≠ .running then s
    else
      let s := s.updLaunch h fun l => if l.cancel then l else { l with cancel := true, cause := cause, asked := asked }
      let ks := (s.tasks.filter fun x => x.2.launch == h).map (·.1)
      let s := { s with clusters := s.clusters.map fun c => (c.1, { c.2 with jobs := c.2.jobs.map fun j =>
        match j.kind, j.task with
        | .coll _ _, some t => if ks.contains t then { j with cancelled := true } else j
        | _, _ => j }) }
      settleLaunch (ks.foldl cancelTask s) h

/-- Cancels a resident graph's run and every launch of it (02 R43, R44). -/
def cancelGraph (s : State) (asked : Bool) (k cause : Nat) : State :=
  match (s.graphs.find? k).bind (·.run) with
  | none => s
  | some _ =>
    let s := s.updGraph k fun g => { g with run := g.run.map fun r =>
      { r with cancel := true, due := [], cause := if r.cause = 0 then cause else r.cause } }
    let hs := (s.launches.filter fun l => match l.2.node with | some (g, _) => g == k | none => false).map (·.1)
    settleGraph (hs.foldl (fun s h => cancelLaunch s asked h cause) s) k

/-- Cancels the entries of a queue that have not started: they end without starting (R331). -/
def cancelPending (s : State) (q : Nat) : State :=
  let qu := s.queue q
  let n := (qu.savedTail.getD qu.tail + 2 ^ 32 - qu.started) % 2 ^ 32
  let pend := (range 0 (if n ≤ 2 ^ 16 then n else 0)).map fun i => { idx := (qu.started + i) % 2 ^ 32, work := .refused, done := true : QEntry }
  settleQueue (s.updQueue q fun x => { x with entries := x.entries ++ pend, started := (x.started + pend.length) % 2 ^ 32, ahead := [] }) q

/-- Cancels a job: every launch and graph of its slot, and what its phases have not started (02 R27, R43). -/
def cancelSlot (s : State) (asked : Bool) (j cause : Nat) : State :=
  let gs := (s.graphs.filter fun g => g.2.slot == j).map (·.1)
  let s := gs.foldl (fun s g => cancelGraph s asked g cause) s
  let s := ((s.launches.filter fun l => l.2.slot == j).map (·.1)).foldl (fun s h => cancelLaunch s asked h cause) s
  ((s.queues.filter fun q => q.2.slot == j).map (·.1)).foldl cancelPending s

/-! ### Placement (02 R36–R38; 21 R375) -/

/-- Mix (02 R37). -/
def mix (z : Word) : Word :=
  let z := z ^^^ (z >>> 31)
  let z := z * 0xA5C31F6BD94E8727#64
  let z := z ^^^ (z >>> 29)
  let z := z * 0x6E2B93D1C47F0A59#64
  z ^^^ (z >>> 32)

/-- The placement hash of a fork path (02 R37). -/
def pathHash (h : Word) (i : Nat) : List Nat → Word
  | [] => h
  | p :: r => pathHash (mix (h ^^^ BitVec.ofNat 64 (p + 1) ^^^ BitVec.ofNat 64 (i * 65536))) (i + 1) r

/-- The clusters a mask names, ascending. -/
def maskClusters (m : Word) : List Nat := (range 0 64).filter fun c => m.getLsbD c

/-- Canonical tile t of cluster c as a physical tile in cluster (21 R375). -/
def physicalTile (s : State) (c t : Nat) : Nat :=
  ((range 0 6).map fun i => (t + i) % 6).find? (fun u => tilePresent s (c * 6 + u)) |>.getD t

/-- Whether a unit's cores meet a window demand: a package core, or the stager and striker of a package tile. -/
def unitFits (s : State) (tile : Bool) (u w : Nat) : Bool :=
  if tile then w ≤ wcap s (u * 24) && w ≤ wcap s (u * 24 + 4) else w ≤ wcap s (u * 4)

/-- Units of one cluster of the kind a kernel takes: package tiles, or package lane cores. -/
def clusterUnits (s : State) (tile : Bool) (c : Nat) : List Nat :=
  (range 0 6).flatMap fun t =>
    if tilePresent s (c * 6 + t) then (if tile then [c * 6 + t] else (range 2 4).map fun j => (c * 6 + t) * 6 + j) else []

/-- Eligible units of a launch (02 R36), ascending. -/
def eligibleUnits (s : State) (l : Launch) : List Nat :=
  ((maskClusters l.mask).flatMap (clusterUnits s l.tile)).filter fun u => unitFits s l.tile u l.windows

/-- Canonical units of a launch: each as (canonical unit, physical unit) (02 R37). -/
def canonicalUnits (s : State) (l : Launch) : List (Nat × Nat) :=
  (maskClusters l.mask).flatMap fun c => (range 0 6).flatMap fun t =>
    let p := physicalTile s c t
    if l.tile then [(c * 6 + t, c * 6 + p)]
    else (range 2 4).map fun j => ((c * 6 + t) * 6 + j, (c * 6 + p) * 6 + j)

/-- N of 02 R37. -/
def canonicalCount (l : Launch) : Nat := (maskClusters l.mask).length * (if l.tile then 6 else 24)

/-- Tasks queued on or running on a unit (02 R36); those parked or saved are neither (log entry 108). -/
def unitLoad (s : State) (tile : Bool) (u : Nat) : Nat :=
  (s.tasks.filter fun k => k.2.unit == u &&
    (isReady k.2 || match k.2.state with | .running => true | _ => false) &&
    (match s.launches.find? k.2.launch with | some l => l.tile == tile | none => false)).length

/-- The least-loaded unit of a list, the first of equals. -/
def leastLoaded (s : State) (tile : Bool) : List Nat → Option Nat
  | [] => none
  | u :: r =>
    match leastLoaded s tile r with
    | none => some u
    | some v => if unitLoad s tile v < unitLoad s tile u then some v else some u

/-- Where a task with a fork path is placed: (canonical unit, physical unit) (02 R36, R37). -/
def place (s : State) (l : Launch) (path : List Nat) : Option (Nat × Nat) :=
  if (s.slot l.slot).det then
    (canonicalUnits s l)[(pathHash (mix l.id) 0 path).toNat % canonicalCount l]?
  else (leastLoaded s l.tile (eligibleUnits s l)).map fun u => (u, u)

/-- Splits n bytes at 4 KiB units. -/
def splitUnits : Nat → Nat → Nat → List (Nat × Nat)
  | 0, _, _ => []
  | fuel + 1, a, n =>
    if n = 0 then []
    else
      let k := min n (4096 - a % 4096)
      (a, k) :: splitUnits fuel (a + k) (n - k)

/-- The overflow area of a launch on a cluster (17 R307). -/
def areaBase (l : Launch) (c : Nat) : Nat := (l.spillBase + BitVec.ofInt 80 (l.spillStride * c)).toNat

/-- The bytes of one of a job's pages from an address on, where the page maps a cluster's own HBM under an entry that the
supervisor holds. -/
def areaPage (s : State) (j c va : Nat) : Option Nat :=
  match walkSlot s j (BitVec.ofNat 80 va) with
  | none => none
  | some leaf =>
    match spaceOf (localOf leaf.pa) with
    | .hbm d _ =>
      if d = c ∧ moduleOf leaf.pa = s.regs.modnum ∧ mayStore s c keySup j (unitOf (localOf leaf.pa)) then some (localOf leaf.pa) else none
    | _ => none

/-- Whether the whole overflow area of a launch on a cluster is mapped and keyed as 17 R307 asks. -/
def areaMapped (s : State) (l : Launch) (c : Nat) : Bool :=
  (splitUnits (l.spillCap / 32 + 2) (areaBase l c) (128 * l.spillCap)).all fun p => (areaPage s l.slot c p.1).isSome

/-- The first free place of a launch's overflow area on a cluster, where the area has one and is mapped (17 R307). -/
def overflowPlace (s : State) (l : Launch) (c : Nat) : Option Nat :=
  let used := l.spilled.get [] c
  match (range 0 (used.length + 1)).find? fun i => !used.contains i with
  | some i => if i < l.spillCap ∧ areaMapped s l c then some i else none
  | none => none

/-- Where a child's descriptor goes: into the queue on chip while that has room, else into the overflow area. -/
def descRoom (s : State) (l : Launch) (c : Nat) : Option DescPlace :=
  if queuedOn s c < Config.taskQueue then some .chip else (overflowPlace s l c).map .area

/-- Writes a descriptor at its place of an overflow area; its bytes are not architectural. -/
def writeDesc (s : State) (l : Launch) (c : Nat) (d : DescPlace) : State :=
  match d with
  | .area i =>
    (splitUnits 2 (areaBase l c + 128 * i) 128).foldl (fun s p => match areaPage s l.slot c p.1 with
      | some a => truthWrite s.bump physAsid 0 a ((range 0 p.2).map (Config.descriptorByte s.serial))
      | none => s) s
  | _ => s

/-- A new task is queued on a unit, its descriptor at a place. -/
def addTask (s : State) (l : Launch) (parent : Option Nat) (path : List Nat) (entry : Addr) (args : Vec)
    (unit canon : Nat) (desc : DescPlace) : State :=
  let c := unitCluster l.tile unit
  let s := writeDesc (wakeCluster s c) l c desc
  let t : Task := { id := s.nextTask, launch := l.handle, parent := parent, path := path, entry := entry, args := args,
                    unit := unit, canon := canon, desc := desc }
  let s := { s with tasks := s.tasks.put s.nextTask t, nextTask := s.nextTask + 1 }
  s.updLaunch l.handle fun l =>
    { l with count := l.count + 1
             spilled := match desc with | .area i => l.spilled.put c (l.spilled.get [] c ++ [i]) | _ => l.spilled }

/-! ### Starting launches (02 R33, 17 R305, R306) -/

/-- The bytes a strong read of a job's address space returns: none where a unit fails to translate, lies in another
module's memory, or reads as poisoned. -/
def readJob (s : State) (j : Nat) (va : Addr) (n : Nat) : Option (List Byte) :=
  (splitUnits (n / 4096 + 2) va.toNat n).foldr (fun p (r : Option (List Byte)) =>
    match r, walkSlot s j (BitVec.ofNat 80 p.1) with
    | some bs, some l =>
      if moduleOf l.pa = s.regs.modnum ∧ backed s (localOf l.pa) ∧ ¬ truthBad s (localOf l.pa) p.2 then
        some (truthRead s (localOf l.pa) p.2 ++ bs)
      else none
    | _, _ => none) (some [])

/-- The launch a 128-byte command and its header describe, where R33 and R306 accept it. -/
def acceptLaunch (s : State) (j : Nat) (cmd : List Byte) : Option Launch :=
  let header : Addr := BitVec.ofNat 80 (natAt cmd 0 10)
  let mask : Word := BitVec.ofNat 64 (natAt cmd 16 8)
  if ¬ allZero (sliceBytes cmd 10 6) ∨ header.toNat % 64 ≠ 0 then none
  else
    match readJob s j header 128 with
    | none => none
    | some h =>
      let kind := natAt h 3 1
      let l : Launch :=
        { handle := s.nextHandle, slot := j, tile := kind == 2, windows := natAt h 4 2
          split := [natAt h 8 2, natAt h 10 2, natAt h 12 2, natAt h 14 2], watchdog := natAt h 16 4
          spillCap := natAt h 20 4, header := header, entry := BitVec.ofNat 80 (natAt h 24 10)
          spillBase := BitVec.ofNat 80 (natAt h 40 10), spillStride := sextNat (natAt h 56 8) 64
          mask := mask, id := BitVec.ofNat 64 (natAt cmd 24 8) }
      let headerOk := natAt h 0 2 = 0x4B48 ∧ natAt h 2 1 = 1 ∧ (kind = 1 ∨ kind = 2) ∧ l.windows ≤ 256 ∧
        allZero (sliceBytes h 6 2) ∧ allZero (sliceBytes h 34 6) ∧ allZero (sliceBytes h 50 6) ∧
        allZero (sliceBytes h 65 63) ∧ l.entry.toNat % 4 = 0 ∧ natAt h 64 1 ≤ 1 ∧
        (l.spillCap = 0 ∨ l.spillBase ≠ 0)
      let partOk := (maskClusters mask).all fun c => !s.regs.pcfg || dieOf c == (s.slot j).part
      let det := (s.slot j).det
      let detOk := !det || (l.split.all (· != 0) && (canonicalUnits s l).all fun u => unitFits s l.tile u.2 l.windows)
      if headerOk ∧ mask ≠ 0 ∧ partOk ∧ detOk ∧ (det ∨ eligibleUnits s l ≠ []) then some l else none

/-- Starts an accepted launch: its root task is queued (02 R34, R36, R37), and waits at the launch unit while its
dispatcher's queue is full (log entry 107). -/
def startLaunch (s : State) (l : Launch) (args : Vec) : State :=
  match place s l [] with
  | none => s
  | some (canon, unit) =>
    let l := { l with root := s.nextTask }
    let s := { s with launches := s.launches.put l.handle l, nextHandle := s.nextHandle + 1 }
    addTask s l none [] l.entry args unit canon (if queuedOn s (unitCluster l.tile unit) < Config.taskQueue then .chip else .launchUnit)

/-- A launch command refused (02 R33): it counts as complete with status refused, under a handle of its own. -/
def refuseLaunch (s : State) (j : Nat) : State :=
  let l : Launch := { handle := s.nextHandle, slot := j, tile := false, windows := 0, split := [], watchdog := 0,
                      spillCap := 0, header := 0, mask := 0, id := 0, state := .refused }
  { s with launches := s.launches.put l.handle l, nextHandle := s.nextHandle + 1 }

/-- Starts a resident graph's run: every node no successor list names is due (18 R329). -/
def startGraph (s : State) (k : Nat) (queue : Option (Nat × Nat)) : State :=
  match s.graphs.find? k with
  | none => s
  | some g =>
    let r : GraphRun :=
      { handle := s.nextHandle, states := g.nodes.map fun _ => .idle, due := startNodes g.nodes, queue := queue }
    { (s.updGraph k fun g => { g with run := some r }) with nextHandle := s.nextHandle + 1 }

/-! ### Starting tasks (08 R166) -/

/-- A thread as a task starts on it: PC at the entry, `v0` the argument block, `a0` the kernel header, all else at
zero or reset values. Supervisor registers stay. -/
def Thread.start (t : Thread) (task : Nat) (entry header : Addr) (args : Vec) : Thread :=
  { sup := t.sup, pc := entry, task := some task
    v := (Vector.replicate 32 0).set 0 args, a := (Vector.replicate 8 0).set 0 header, halted := t.halted }

end Sys2Proof.Machine
end

