-- ==== Sys2Proof/Machine/Ops.lean ====
section
/-!
DEFINITION. The named operations every meaning is written in: taking a trap and returning from one (08 R185–R187, 19
R347, R348), pending asynchronous causes, stalls and waits (02 R40), cancellation points (02 R43), and the
retirement of an instruction.
-/
namespace Sys2Proof.Machine

/-! ### Stalls, waits and switches (02 R40) -/

/-- Whether a thread has something to run. -/
def runnable (t : Thread) : Bool := !t.halted && (t.task.isSome || t.sup.act)

/-- The thread a core takes after thread n of its four, in ascending order after it. -/
def nextThread (s : State) (core n : Nat) : Nat :=
  (([n + 1, n + 2, n + 3].map (· % 4)).find? fun k => runnable (s.thread (core * 4 + k))).getD n

/-- The current core switches to its next resident thread. -/
def switch (s : State) : State :=
  let n := (s.core s.cur).running % 4
  s.updCore s.cur fun k => { k with running := nextThread s s.cur n }

/-- The instruction does not complete yet: it is issued again when the thread runs next. -/
def State.stall (s : State) : Result := .next { switch s with stalled := true }

/-- The outstanding operations of a thread but the reads an instruction keeps for itself. -/
def Thread.owed (t : Thread) : List Out := t.outs.filter fun o => match o.kind with | .load .keep _ _ => false | _ => true

/-- Whether the reads an instruction keeps for itself count in `ld`. -/
def Thread.keptCounted (t : Thread) : Bool := t.outs.any fun o => match o.kind with | .load .keep _ c => c | _ => false

/-- Drops the reads an instruction keeps for itself: it has completed, or is abandoned to be executed again from its start
(04 R94). -/
def Thread.dropKept (t : Thread) : Thread := { t with outs := t.owed, ld := if t.keptCounted then t.ld - 1 else t.ld }

/-- Whether the thread has a matrix instruction accepted before a request number and not complete. -/
def mxEarlier (s : State) (tid serial : Nat) : Bool :=
  (s.tile (tileOf tid)).queue.any fun q => q.tid == tid && q.serial < serial

/-! ### Traps -/

/-- What a trap reports (08 R170, R185). -/
structure Trap where
  code : Nat
  sub : Nat := 0
  detail : Nat := 0
  fva : Addr := 0
  flags : Nat := 0
  xp : Bool := false
  deriving DecidableEq, Repr

/-- The `UCAUSE` layout (08 R170). -/
def Trap.word (t : Trap) (async : Bool) : Word :=
  BitVec.ofNat 64 (t.code % 64 + t.sub % 16 * 2 ^ 8 + (if async then 2 ^ 15 else 0) + (if t.xp then 2 ^ 16 else 0) +
    t.flags % 32 * 2 ^ 32 + t.detail % 65536 * 2 ^ 48)

/-- The causes marked reflected in 08 R185. -/
def reflected (code : Nat) : Bool :=
  [0x01, 0x03, 0x07, 0x08, 0x09, 0x0B, 0x0C, 0x0D, 0x0F, 0x11, 0x12, 0x17].contains code

/-- What an entry leaves of the instruction it comes at: the reads it kept are dropped (04 R94), a wait it began is over, and a `TEXIT`
that waits for the pair's other thread has not been executed (13 R277). -/
def Thread.abandon (t : Thread) : Thread := { t.dropKept with exited := false, hold := none }

/-- Entry of the user handler in one step (08 R186). -/
def userEntry (t : Thread) (tr : Trap) (async : Bool) (epc : Addr) : Thread :=
  { t.abandon with ucause := tr.word async, uepc := epc, ufva := tr.fva, utvec := t.utvec ||| 2
                   pc := t.utvec &&& ~~~(3 : Addr) }

/-- An entry at an instruction boundary first completes an `IDLE` or a `REALIGN` in progress (09 R207, 13 R287). -/
def Thread.endHold (t : Thread) : Thread :=
  if t.hold.isSome && !t.sup.act then ({ t with hold := none } : Thread).next 4 else t

/-- The registers that a supervisor entry saves and `ERET` restores (19 R348). -/
def savedRegs : List BadReg := [.s 30, .s 31, .a 6]

/-- Those of them that an error has struck: a saved word stays marked (21 R379). -/
def Thread.struckSaved (t : Thread) : List BadReg := t.bad.filter savedRegs.contains

/-- Entry of the supervisor handler in one step (19 R348). -/
def supervisorEntry (s : State) (tid why : Nat) (cause : Word) (epc fva : Addr) : State :=
  let vec := (s.cluster (clusterOf tid)).svec
  s.updThread tid fun t =>
    { t.abandon with sup := { t.sup with sav0 := t.rs 30, sav1 := t.rs 31, sava := t.ra 6, cause := cause, epc := epc
                                         fva := fva, why := why, act := true, saved := false, req := 0
                                         savBad := t.struckSaved }
                     pc := vec &&& ~~~(3 : Addr) }

/-- A trap inside the supervisor handler halts the thread and discards the interrupted context, whose launch is
cancelled with the trap's cause (19 R347). -/
def handlerTrap (s : State) (tid code : Nat) : State :=
  let s := match launchOf s tid with
    | some l => cancelLaunch s false l.handle code
    | none => s
  let s := match (s.thread tid).task with
    | some k => endTask s k true 0
    | none => s
  s.updThread tid fun t => { t with halted := true, sup := { t.sup with act := false } }

/-- Consumed poison is an event (21 R381). -/
def poisonSeen (s : State) (tid : Nat) (va : Addr) : State :=
  logEvent s 3 0x16 (slotOf s tid) (endpointOf s (clusterOf tid) (coreOf tid % 36)) va.toNat 0

/-- Takes a trap on a thread (08 R185, R186): the user handler for a reflected cause while UTVEC.en = 1 and
UTVEC.act = 0, the supervisor for every other, a halt inside the supervisor. `epc` is what `UEPC` receives. -/
def takeTrap (s : State) (tid : Nat) (tr : Trap) (async : Bool) (epc : Addr) : State :=
  let s := if tr.code = 0x16 then poisonSeen s tid tr.fva else s
  let t := s.thread tid
  if t.sup.act then handlerTrap s tid tr.code
  else if reflected tr.code && t.utvec.getLsbD 0 && !t.utvec.getLsbD 1 then
    s.updThread tid fun t => userEntry t tr async epc
  else supervisorEntry s tid 0 (tr.word async) epc tr.fva

/-- Whether every earlier instruction of the thread has completed: its loads have returned, its stores are performed, its matrix
instructions are done (10 R210, R211). -/
def settled (s : State) : Bool := s.th.owed.isEmpty && !mxEarlier s s.tid s.serial

/-- An exact trap of the instruction the thread executes, once every earlier one has completed: nothing else changes (08 R185). -/
def State.trap (s : State) (tr : Trap) : Result :=
  if settled s then .next (takeTrap s s.tid tr false s.th.pc) else s.stall

/-- Cause 0x01. -/
def State.illegal (s : State) : Result := s.trap { code := 0x01 }

/-- Return from the user handler (08 R186): loop state is untouched (09 R205). -/
def Thread.eretUser (t : Thread) : Thread := { t with pc := t.uepc &&& ~~~(3 : Addr), utvec := t.utvec &&& ~~~(2 : Addr) }

/-- The interrupted context's `s30`, `s31` and `a6` with the marks of those an error has struck (19 R348, 21 R379). -/
def Thread.unsave (t : Thread) : Thread :=
  let u := ((t.ws 30 t.sup.sav0).ws 31 t.sup.sav1).wa 6 t.sup.sava
  { u with bad := u.bad ++ t.sup.savBad }

/-- Return from the supervisor handler (19 R348). -/
def Thread.eretSup (t : Thread) : Thread :=
  { t.unsave with pc := t.sup.epc &&& ~~~(3 : Addr), sup := { t.sup with act := false, lat := false, savBad := [] } }

/-! ### Asynchronous causes (08 R187) -/

/-- An asynchronous cause becomes pending; a thread in `IDLE` completes it (13 R287). -/
def addPending (s : State) (tid : Nat) (p : Pending) : State :=
  s.updThread tid fun t => { t with pend := t.pend ++ [p], hold := if t.hold = some .idle then some .done else t.hold }

/-- The pending cause taken next: the least code, and of equals the oldest; 0x0D only while UJIDX.v is 0. -/
def nextPending (t : Thread) : Option Pending :=
  t.pend.foldl (fun best p =>
    if p.code = 0x0D ∧ t.ujV then best
    else match best with
      | none => some p
      | some b => if p.code < b.code then some p else best) none

/-- What ends a thread's `IDLE`: a counter falls, an answer, reply or request reaches it (13 R287). -/
def Thread.wake (t : Thread) : Thread := { t with hold := if t.hold = some .idle then some .done else t.hold }

/-- Every context of the module: on hardware threads, parked in `TJOIN`, and in context images. -/
def contexts (s : State) : List Thread :=
  s.threads.map (·.2) ++ (s.tasks.flatMap fun k => match k.2.state with
    | .parked p => p.th :: p.other.toList
    | _ => []) ++ s.images.map (·.2.th)

/-- Updates every context. -/
def mapContexts (s : State) (f : Thread → Thread) : State :=
  { s with threads := s.threads.map fun p => (p.1, f p.2)
           tasks := s.tasks.map fun (p : Nat × Task) => match p.2.state with
             | .parked c => (p.1, { p.2 with state := .parked { c with th := f c.th, other := c.other.map f } })
             | _ => p
           images := s.images.map fun (p : Nat × Image) => (p.1, { p.2 with th := f p.2.th }) }

/-- The least of some numbers. -/
def least : List Nat → Option Nat
  | [] => none
  | x :: r => match least r with | some y => some (min x y) | none => some x

/-- Updates the thread that runs a task, wherever the task's context now is: on the hardware thread, parked, or in a
context image (02 R35, 19 R349). A context that its handler has saved is in its image already (19 R350). -/
def updOwner (s : State) (tid : Nat) (task : Option Nat) (f : Thread → Thread) : State :=
  let s := if (s.thread tid).task = task then s.updThread tid f else s
  match task.bind s.tasks.find? with
  | some t =>
    let s := { s with images := s.images.map fun (p : Nat × Image) =>
      if p.2.task = task ∧ p.2.tid = tid then (p.1, { p.2 with th := f p.2.th }) else p }
    match t.state with
    | .parked p =>
      let q := if roleOf p.tid = roleOf tid then { p with th := f p.th } else { p with other := p.other.map f }
      s.updTask t.id fun t => { t with state := .parked q }
    | _ => s
  | none => s

/-! ### Waits (02 R40) -/

/-- Ends the current thread's task as cancelled at the point it has reached (02 R43). -/
def State.endCancelled (s : State) : Result :=
  match s.th.task with
  | some k => .next (endTask s k true 0)
  | none => .next s

/-- A wait that is not over: a cancellation point (02 R40, R43). -/
def State.wait (s : State) : Result := if cancelled s s.tid then s.endCancelled else s.stall

/-- A cancellation point before an instruction's effect. -/
def State.point (s : State) (k : Result) : Result := if cancelled s s.tid then s.endCancelled else k

/-! ### Retirement -/

/-- The instruction completes with an update of its thread; PC moves on under R205. -/
def State.retire (s : State) (size : Nat) (f : Thread → Thread) : Result := .next (s.done size f)

/-- The instruction completes with no update but the PC. -/
def State.skip (s : State) (size : Nat) : Result := s.retire size id

/-- The instruction completes with a scalar result. -/
def State.retireS (s : State) (d : SReg) (x : Word) : Result := s.retire 4 fun t => t.ws d x
/-- The instruction completes with an address result. -/
def State.retireA (s : State) (size : Nat) (d : AReg) (x : Addr) : Result := s.retire size fun t => t.wa d x
/-- The instruction completes with a vector result. -/
def State.retireV (s : State) (d : VReg) (x : Vec) : Result := s.retire 4 fun t => t.wv d x
/-- The instruction completes with a mask result. -/
def State.retireM (s : State) (d : MReg) (x : Mask) : Result := s.retire 4 fun t => t.wm d x

/-- The task instructions and others that a supervisor handler may not run (13 R277). -/
def State.taskOnly (s : State) (k : Result) : Result := if s.th.sup.act then s.illegal else k

/-- Whether a unit of FEAT is present (01 R25, R26). -/
def mediaPresent (s : State) : Bool := !s.fuse.lite

/-- FEAT (01 R25). -/
def featWord (s : State) : Word := if s.fuse.lite then 0x00000000000C0104 else 0x0000000804180107

end Sys2Proof.Machine
end

