-- ==== Sys2Proof/Machine/Flags.lean ====
section
/-!
DEFINITION. What the integer instructions compute (09 R193–R200): comparisons, counts and divisions on 64-bit values,
and address arithmetic modulo 2^80. SNK-FC1 has no flag register for integers (R193); a comparison's result is the
value 1 or 0.
-/
namespace Sys2Proof.Machine

/-- 1 or 0. -/
def bit (b : Bool) : Word := if b then 1 else 0

/-- Division of R195: quotient and remainder, signed, with the results of R75 for a zero divisor. -/
def divS (a b : Word) : Word × Word :=
  if b = 0 then (BitVec.allOnes 64, a)
  else if a = BitVec.intMin 64 ∧ b = BitVec.allOnes 64 then (BitVec.intMin 64, 0)
  else (BitVec.ofInt 64 (a.toInt.tdiv b.toInt), BitVec.ofInt 64 (a.toInt.tmod b.toInt))

/-- Division of R195, unsigned. -/
def divU (a b : Word) : Word × Word :=
  if b = 0 then (BitVec.allOnes 64, a) else (BitVec.ofNat 64 (a.toNat / b.toNat), BitVec.ofNat 64 (a.toNat % b.toNat))

/-- Bits [127:64] of a product of integers. -/
def highWord (x : Int) : Word := BitVec.ofInt 64 (x / 2 ^ 64)

/-- Zero bits above the highest 1 bit among n bits (R194). -/
def clzNat (n x : Nat) : Nat := if x = 0 then n else n - 1 - Nat.log2 x

/-- Zero bits below the lowest 1 bit among the next n bits (R194). -/
def ctzNat : Nat → Nat → Nat
  | 0, _ => 0
  | n + 1, x => if x % 2 = 1 then 0 else 1 + ctzNat n (x / 2)

/-- 1 bits among the low n bits. -/
def popNat : Nat → Nat → Nat
  | 0, _ => 0
  | n + 1, x => x % 2 + popNat n (x / 2)

/-- The low n bits reversed. -/
def revNat : Nat → Nat → Nat
  | 0, _ => 0
  | n + 1, x => x % 2 * 2 ^ n + revNat n (x / 2)

/-- Sext(A, n) and Zext(A, n) with n = B[5:0], 0 meaning 64 (R194). -/
def widthOf (b : Word) : Nat := if b.toNat % 64 = 0 then 64 else b.toNat % 64

/-- Sext(x, n) of an immediate as a register value. -/
def imm64 {w : Nat} (x : BitVec w) : Word := x.signExtend 64

/-- A signed byte offset added to an address, modulo 2^80 (R199). -/
def addrPlus (a : Addr) (x : Int) : Addr := a + BitVec.ofInt 80 x

/-- `AIDX` (R200): element i of an array of values of n limbs. -/
def indexed (a : Addr) (b : Word) : Addr :=
  addrPlus a (sextNat b.toNat 60 * 8 * (b.toNat / 2 ^ 60 + 1 : Nat))

/-- Where a branch or jump leads: its own address plus 4 times the word offset (R174). -/
def targetOf {w : Nat} (pc : Addr) (off : BitVec w) : Addr := addrPlus pc (4 * off.toInt)

end Sys2Proof.Machine
end

