-- ==== Sys2Proof/Machine/Operands.lean ====
section
/-!
DEFINITION. Operand forms: the sizes and addresses of memory operands (08 R178, 10 R209), the checks of an access (08
R187, R188), and the registers an instruction names (10 R210).
-/
namespace Sys2Proof.Machine

/-! ### Sizes and addresses -/

def ldSize : LdKind → Nat
  | .b | .bu => 1
  | .h | .hu => 2
  | .w | .wu => 4
  | .d => 8
def ldSigned : LdKind → Bool
  | .b | .h | .w => true
  | .d | .bu | .hu | .wu => false
def stSize : StKind → Nat
  | .b => 1
  | .h => 2
  | .w => 4
  | .d => 8
def vSize : VKind → Nat
  | .full => 64
  | .lo32 => 32
  | .lo16 => 16
  | .lo8 => 8

/-- The address of an M-format operand (R209). -/
def memAddr (t : Thread) (a : AReg) (off : BitVec 12) (size : Nat) : Addr := addrPlus (t.ra a) (off.toInt * size)

/-! ### Checks -/

/-- Alignment (R209). -/
def aligned (va : Addr) (n : Nat) : Bool := va.toNat % n == 0

/-- The checks of a load of one element (R188): alignment, translation, permission. -/
def loadAt (s : State) (va : Addr) (n align : Nat) : Except Trap Elem :=
  if aligned va align then
    match translate s s.tid va .read with
    | .error c => .error { code := c, fva := va }
    | .ok l => .ok { va := va, pa := l.pa, size := n, page := l.page, place := placeOf s (clusterOf s.tid) l.pa, readOnly := !l.w }
  else .error { code := 0x03, fva := va }

/-- The checks of a store form on one element (R188, 01 R14, R17): those of a load with the permission to write, then
own or host memory, then the key; no thread holds the key of a host region. -/
def storeAt (s : State) (va : Addr) (n align : Nat) : Except Trap Elem :=
  if aligned va align then
    match translate s s.tid va .write with
    | .error c => .error { code := c, fva := va }
    | .ok l =>
      match placeOf s (clusterOf s.tid) l.pa with
      | .own =>
        if threadMayStore s s.tid (localOf l.pa) n then .ok { va := va, pa := l.pa, size := n, page := l.page }
        else .error { code := 0x07, fva := va }
      | .host => .error { code := 0x07, fva := va }
      | _ => .error { code := 0x06, fva := va }
  else .error { code := 0x03, fva := va }

/-- A word of the thread's own memory that an instruction only names or reads there (05 R111, 10 R223): host memory
and other clusters' are cause 0x06, and so are banks where they are not permitted. -/
def ownAt (s : State) (va : Addr) (n align : Nat) (banks : Bool) : Except Trap Elem :=
  match loadAt s va n align with
  | .error t => .error t
  | .ok e =>
    match e.place, spaceOf (localOf e.pa) with
    | .own, .bank _ _ _ _ => if banks then .ok e else .error { code := 0x06, fva := va }
    | .own, _ => .ok e
    | _, _ => .error { code := 0x06, fva := va }

/-- Splits a checked element into its 8-byte words, each single-copy atomic (06 R118). -/
def wordsOf (e : Elem) : List Elem :=
  if e.size ≤ 8 then [e]
  else (range 0 (e.size / 8)).map fun i =>
    { e with va := e.va + BitVec.ofNat 80 (8 * i), pa := e.pa + 8 * i, size := 8, lane := i
             bytes := sliceBytes e.bytes (8 * i) (if e.bytes.isEmpty then 0 else 8) }

/-! ### The registers an instruction names -/

inductive Reg where
  | s (r : SReg)
  | a (r : AReg)
  | v (r : VReg)
  | w (r : WReg)
  deriving DecidableEq, Repr

/-- What an outstanding load, atomic or sequence advance writes. -/
def Out.dest : Out → Option Reg
  | { kind := .load (.sreg d _ _) _ _, .. } | { kind := .load (.query d _ _) _ _, .. }
  | { kind := .load (.flags d) _ _, .. } => some (.s d)
  | { kind := .load (.vreg d) _ _, .. } | { kind := .load (.lanes d _) _ _, .. } => some (.v d)
  | { kind := .load (.window d) _ _, .. } => some (.w d)
  | { kind := .amo _ _ d _ _, .. } | { kind := .seqadv _ _ d _, .. } => some (.s d)
  | _ => none

/-- Every register an instruction names (R210: an instruction that reads or writes the destination of an outstanding
load, pull or atomic waits). -/
def instrNames : Instr → List Reg
  | .iflush a d
  | .tlbi a d => [.a a, .s d]
  | .trap _
  | .jmp _
  | .loopi _ _
  | .realign _
  | .fence _ _
  | .waitc _ _ _ _
  | .mand _ _ _
  | .mor _ _ _
  | .mnot _ _
  | .mzero _
  | .semsig _
  | .semwait _ => []
  | .ctlr d _ => match d with | .s r => [.s r] | .a r => [.a r]
  | .ctlw _ a => match a with | .s r => [.s r] | .a r => [.a r]
  | .add d a b
  | .sub d a b
  | .and d a b
  | .or d a b
  | .xor d a b
  | .andn d a b
  | .shl d a b
  | .shr d a b
  | .sar d a b
  | .mul d a b
  | .mulh d a b
  | .mulhu d a b
  | .div d a b
  | .divu d a b
  | .rem d a b
  | .remu d a b
  | .min d a b
  | .max d a b
  | .minu d a b
  | .maxu d a b
  | .seq d a b
  | .sne d a b
  | .slt d a b
  | .sltu d a b
  | .sext d a b
  | .zext d a b
  | .cmov d a b
  | .tcancel d a b => [.s d, .s a, .s b]
  | .clz d a
  | .ctz d a
  | .popc d a
  | .brev d a
  | .bswap d a
  | .addi d a _
  | .andi d a _
  | .ori d a _
  | .xori d a _
  | .shli d a _
  | .shri d a _
  | .sari d a _
  | .slti d a _
  | .sltiu d a _
  | .mbind d a
  | .tpath d a
  | .cores d a
  | .gstat d a => [.s d, .s a]
  | .movi d _
  | .moviLong d _
  | .movhi d _
  | .waitw d _
  | .mpopc d _
  | .msendRetry d
  | .xgetp d => [.s d]
  | .adrpc d _
  | .adrpcLong d _ => [.a d]
  | .adda d a b
  | .suba d a b
  | .aidx d a b => [.a d, .a a, .s b]
  | .movas d a
  | .movah d a => [.a d, .s a]
  | .movsa d a
  | .movha d a
  | .ld _ _ d a _
  | .st _ _ d a _
  | .pull _ _ d a _
  | .keytake d a
  | .keyqry d a
  | .stashcfg d a
  | .sksat d a
  | .sksatClr d a
  | .tjoin d a => [.s d, .a a]
  | .slta d a b => [.s d, .a a, .a b]
  | .addai d a _
  | .addaiLong d a _ => [.a d, .a a]
  | .beq a b _
  | .bne a b _
  | .blt a b _
  | .bge a b _
  | .bltu a b _
  | .bgeu a b _ => [.s a, .s b]
  | .call _ => [.a 7]
  | .jr a
  | .pref _ a _
  | .ecmd a
  | .coll a
  | .skclr a => [.a a]
  | .callr a => [.a a, .a 7]
  | .loop a _
  | .mcfg a
  | .bfmt _ a
  | .xsetp a => [.s a]
  | .ldv _ _ d a _
  | .stv _ _ d a _
  | .pullv _ d a _ => [.v d, .a a]
  | .amoadd _ _ d a b
  | .amoand _ _ d a b
  | .amoor _ _ d a b
  | .amoxor _ _ d a b
  | .amomin _ _ d a b
  | .amomax _ _ d a b
  | .amominu _ _ d a b
  | .amomaxu _ _ d a b
  | .amoswap _ _ d a b
  | .amocas _ _ d a b
  | .seqadvMax _ d a b
  | .seqadvAdd _ d a b
  | .waita _ _ d a b
  | .barinit d a b
  | .grun d a b => [.s d, .a a, .s b]
  | .watch _ _ a b
  | .barwait a b
  | .baradd a b
  | .keygive a b
  | .gcond a b => [.a a, .s b]
  | .vfadd _ d a b _
  | .vfsub _ d a b _
  | .vfmul _ d a b _
  | .vfma _ d a b _
  | .vfms _ d a b _
  | .vfnma _ d a b _
  | .vfdiv _ d a b _
  | .vfmin _ d a b _
  | .vfmax _ d a b _
  | .vadd _ d a b _
  | .vsub _ d a b _
  | .vmul _ d a b _
  | .vmulh _ d a b _
  | .vmin _ d a b _
  | .vmax _ d a b _
  | .vsadd _ d a b _
  | .vssub _ d a b _
  | .vand _ d a b _
  | .vor _ d a b _
  | .vxor _ d a b _
  | .vshl _ d a b _
  | .vshr _ d a b _
  | .vsar _ d a b _
  | .vsel _ d a b _
  | .vperm _ d a b _ => [.v d, .v a, .v b]
  | .vfsqrt _ d a _
  | .vfrcp _ d a _
  | .vfrsq _ d a _
  | .vfabs _ d a _
  | .vfneg _ d a _
  | .vfexp2 _ d a _
  | .vflog2 _ d a _
  | .vftanh _ d a _
  | .vfclass _ d a _
  | .vabs _ d a _
  | .vnot _ d a _
  | .vcvt _ _ d a _
  | .vpack _ _ d a _
  | .vunpack _ _ d a _ => [.v d, .v a]
  | .vfcmpEq _ _ a b _
  | .vfcmpLt _ _ a b _
  | .vfcmpLe _ _ a b _
  | .vfcmpUn _ _ a b _
  | .vcmpEq _ _ a b _
  | .vcmpLt _ _ a b _
  | .vcmpLe _ _ a b _
  | .vcmpLtu _ _ a b _
  | .vcmpLeu _ _ a b _ => [.v a, .v b]
  | .vbcast _ d a _ => [.v d, .s a]
  | .vmovs _ d a b => [.s d, .v a, .s b]
  | .vins _ d a b => [.v d, .s a, .s b]
  | .vslide _ d a b _ => [.v d, .v a, .s b]
  | .viota _ d _
  | .mrecv d
  | .mrecvRep d
  | .mpeek d
  | .mpeekRep d => [.v d]
  | .vredadd _ d a _
  | .vredmax _ d a _
  | .vredmin _ d a _
  | .vredmaxi _ d a _
  | .vredmini _ d a _ => [.s d, .v a]
  | .vgather _ d a b _
  | .vscatter _ d a b _ => [.v d, .a a, .v b]
  | .mma _ _ _ sk so => [.s sk, .s so]
  | .mdrain d _ _ so => [.s d, .s so]
  | .mload _ _ so => [.s so]
  | .bpull sv asrc adst asig acpl
  | .bcopy sv asrc adst asig acpl => [.s sv, .a asrc, .a adst, .a asig, .a acpl]
  | .bpulla sv sx asrc asig acpl => [.s sv, .s sx, .a asrc, .a asig, .a acpl]
  | .mdec sp sl asrc adst asig acpl => [.s sp, .s sl, .a asrc, .a adst, .a asig, .a acpl]
  | .lodge sn sx asrc adst asig acpl => [.s sn, .s sx, .a asrc, .a adst, .a asig, .a acpl]
  | .msend d b
  | .msendPost d b => [.s d, .v b]
  | .mreply b => [.v b]
  | .skinit a sg ss => [.a a, .s sg, .s ss]
  | .skinitTab a b sg => [.a a, .a b, .s sg]
  | .skupd _ a sk sv => [.a a, .s sk, .s sv]
  | .skupdV _ a vk vv => [.a a, .v vk, .v vv]
  | .skqry d a sk => [.s d, .a a, .s sk]
  | .skadd a b => [.a a, .a b]
  | .skscl a sf => [.a a, .s sf]
  | .xadd d a b
  | .xsub d a b
  | .xmul d a b
  | .xfma d a b
  | .xdiv d a b => [.w d, .w a, .w b]
  | .xsqrt d a
  | .xrnd d a
  | .xneg d a
  | .xabs d a
  | .xmov d a
  | .xexp d a => [.w d, .w a]
  | .xscale d a b => [.w d, .w a, .s b]
  | .xcmp d a b => [.s d, .w a, .w b]
  | .xlen d a
  | .xcvtScalarToInt64 d a
  | .xcvtScalarToFp64 d a
  | .xcvtScalarToUint64 d a => [.s d, .w a]
  | .xcvtWindowFromInt64 d a
  | .xcvtWindowFromFp64 d a
  | .xcvtWindowFromUint64 d a => [.w d, .s a]
  | .xld _ d a _
  | .xst _ d a _ => [.w d, .a a]
  | .xalloc d _ _
  | .xfree d => [.w d]
  | .tspawn d a b => [.s d, .a a, .v b]
  | .texit b => match b with | some r => [.v r] | none => []
  | .ret => [.a 7]
  | _ => []

/-- The registers an instruction reads (R213, 21 R379). -/
def instrReads : Instr → List Reg
  | .iflush a d
  | .tlbi a d => [.a a, .s d]
  | .ctlw _ a => match a with | .s r => [.s r] | .a r => [.a r]
  | .add _ a b
  | .sub _ a b
  | .and _ a b
  | .or _ a b
  | .xor _ a b
  | .andn _ a b
  | .shl _ a b
  | .shr _ a b
  | .sar _ a b
  | .mul _ a b
  | .mulh _ a b
  | .mulhu _ a b
  | .div _ a b
  | .divu _ a b
  | .rem _ a b
  | .remu _ a b
  | .min _ a b
  | .max _ a b
  | .minu _ a b
  | .maxu _ a b
  | .seq _ a b
  | .sne _ a b
  | .slt _ a b
  | .sltu _ a b
  | .sext _ a b
  | .zext _ a b
  | .beq a b _
  | .bne a b _
  | .blt a b _
  | .bge a b _
  | .bltu a b _
  | .bgeu a b _
  | .tcancel _ a b => [.s a, .s b]
  | .clz _ a
  | .ctz _ a
  | .popc _ a
  | .brev _ a
  | .bswap _ a
  | .addi _ a _
  | .andi _ a _
  | .ori _ a _
  | .xori _ a _
  | .shli _ a _
  | .shri _ a _
  | .sari _ a _
  | .slti _ a _
  | .sltiu _ a _
  | .movas _ a
  | .loop a _
  | .mcfg a
  | .bfmt _ a
  | .mbind _ a
  | .xcvtWindowFromInt64 _ a
  | .xcvtWindowFromFp64 _ a
  | .xcvtWindowFromUint64 _ a
  | .xsetp a
  | .tpath _ a
  | .cores _ a
  | .gstat _ a => [.s a]
  | .cmov d a b => [.s a, .s b, .s d]
  | .movhi d _ => [.s d]
  | .adda _ a b
  | .suba _ a b
  | .aidx _ a b
  | .amoadd _ _ _ a b
  | .amoand _ _ _ a b
  | .amoor _ _ _ a b
  | .amoxor _ _ _ a b
  | .amomin _ _ _ a b
  | .amomax _ _ _ a b
  | .amominu _ _ _ a b
  | .amomaxu _ _ _ a b
  | .amoswap _ _ _ a b
  | .seqadvMax _ _ a b
  | .seqadvAdd _ _ a b
  | .watch _ _ a b
  | .waita _ _ _ a b
  | .barinit _ a b
  | .barwait a b
  | .baradd a b
  | .keygive a b
  | .grun _ a b
  | .gcond a b => [.a a, .s b]
  | .movsa _ a
  | .movha _ a
  | .addai _ a _
  | .addaiLong _ a _
  | .jr a
  | .callr a
  | .ld _ _ _ a _
  | .ldv _ _ _ a _
  | .pull _ _ _ a _
  | .pullv _ _ a _
  | .pref _ a _
  | .keytake _ a
  | .keyqry _ a
  | .stashcfg _ a
  | .ecmd a
  | .coll a
  | .skclr a
  | .sksat _ a
  | .sksatClr _ a
  | .xld _ _ a _
  | .tjoin _ a => [.a a]
  | .movah d a => [.s a, .a d]
  | .slta _ a b
  | .skadd a b => [.a a, .a b]
  | .st _ _ d a _ => [.s d, .a a]
  | .stv _ _ d a _ => [.v d, .a a]
  | .amocas _ _ d a b => [.a a, .s b, .s d]
  | .vfadd _ d a b _
  | .vfsub _ d a b _
  | .vfmul _ d a b _
  | .vfma _ d a b _
  | .vfms _ d a b _
  | .vfnma _ d a b _
  | .vfdiv _ d a b _
  | .vfmin _ d a b _
  | .vfmax _ d a b _
  | .vadd _ d a b _
  | .vsub _ d a b _
  | .vmul _ d a b _
  | .vmulh _ d a b _
  | .vmin _ d a b _
  | .vmax _ d a b _
  | .vsadd _ d a b _
  | .vssub _ d a b _
  | .vand _ d a b _
  | .vor _ d a b _
  | .vxor _ d a b _
  | .vshl _ d a b _
  | .vshr _ d a b _
  | .vsar _ d a b _
  | .vsel _ d a b _
  | .vperm _ d a b _ => [.v a, .v b, .v d]
  | .vfsqrt _ d a _
  | .vfrcp _ d a _
  | .vfrsq _ d a _
  | .vfabs _ d a _
  | .vfneg _ d a _
  | .vfexp2 _ d a _
  | .vflog2 _ d a _
  | .vftanh _ d a _
  | .vfclass _ d a _
  | .vabs _ d a _
  | .vnot _ d a _
  | .vcvt _ _ d a _
  | .vpack _ _ d a _
  | .vunpack _ _ d a _ => [.v a, .v d]
  | .vfcmpEq _ _ a b _
  | .vfcmpLt _ _ a b _
  | .vfcmpLe _ _ a b _
  | .vfcmpUn _ _ a b _
  | .vcmpEq _ _ a b _
  | .vcmpLt _ _ a b _
  | .vcmpLe _ _ a b _
  | .vcmpLtu _ _ a b _
  | .vcmpLeu _ _ a b _ => [.v a, .v b]
  | .vbcast _ d a _ => [.s a, .v d]
  | .vmovs _ _ a b => [.v a, .s b]
  | .vins _ d a b => [.s a, .s b, .v d]
  | .vslide _ d a b _ => [.v a, .s b, .v d]
  | .viota _ d _ => [.v d]
  | .vredadd _ _ a _
  | .vredmax _ _ a _
  | .vredmin _ _ a _
  | .vredmaxi _ _ a _
  | .vredmini _ _ a _ => [.v a]
  | .vgather _ d a b _ => [.a a, .v b, .v d]
  | .vscatter _ d a b _ => [.v d, .a a, .v b]
  | .mma _ _ _ sk so => [.s sk, .s so]
  | .mdrain _ _ _ so
  | .mload _ _ so => [.s so]
  | .bpull sv asrc adst asig acpl
  | .bcopy sv asrc adst asig acpl => [.s sv, .a asrc, .a adst, .a asig, .a acpl]
  | .bpulla sv sx asrc asig acpl => [.s sv, .s sx, .a asrc, .a asig, .a acpl]
  | .mdec sp sl asrc adst asig acpl => [.s sp, .s sl, .a asrc, .a adst, .a asig, .a acpl]
  | .lodge sn sx asrc adst asig acpl => [.s sn, .s sx, .a asrc, .a adst, .a asig, .a acpl]
  | .msend _ b
  | .msendPost _ b
  | .mreply b => [.v b]
  | .skinit a sg ss => [.a a, .s sg, .s ss]
  | .skinitTab a b sg => [.a a, .a b, .s sg]
  | .skupd _ a sk sv => [.a a, .s sk, .s sv]
  | .skupdV _ a vk vv => [.a a, .v vk, .v vv]
  | .skqry _ a sk => [.a a, .s sk]
  | .skscl a sf => [.a a, .s sf]
  | .xadd _ a b
  | .xsub _ a b
  | .xmul _ a b
  | .xdiv _ a b
  | .xcmp _ a b => [.w a, .w b]
  | .xfma d a b => [.w a, .w b, .w d]
  | .xsqrt _ a
  | .xrnd _ a
  | .xneg _ a
  | .xabs _ a
  | .xmov _ a
  | .xexp _ a
  | .xlen _ a
  | .xcvtScalarToInt64 _ a
  | .xcvtScalarToFp64 _ a
  | .xcvtScalarToUint64 _ a => [.w a]
  | .xscale _ a b => [.w a, .s b]
  | .xst _ d a _ => [.w d, .a a]
  | .tspawn _ a b => [.a a, .v b]
  | .texit b => match b with | some r => [.v r] | none => []
  | .ret => [.a 7]
  | _ => []

/-- The mask registers an instruction reads (R180, R239): the mask that governs its lanes, and for a masked compare the one it
writes in part. -/
def maskReads : Instr → List MReg
  | .vfadd _ _ _ _ m
  | .vfsub _ _ _ _ m
  | .vfmul _ _ _ _ m
  | .vfma _ _ _ _ m
  | .vfms _ _ _ _ m
  | .vfnma _ _ _ _ m
  | .vfdiv _ _ _ _ m
  | .vfmin _ _ _ _ m
  | .vfmax _ _ _ _ m
  | .vfsqrt _ _ _ m
  | .vfrcp _ _ _ m
  | .vfrsq _ _ _ m
  | .vfabs _ _ _ m
  | .vfneg _ _ _ m
  | .vfexp2 _ _ _ m
  | .vflog2 _ _ _ m
  | .vftanh _ _ _ m
  | .vfclass _ _ _ m
  | .vadd _ _ _ _ m
  | .vsub _ _ _ _ m
  | .vmul _ _ _ _ m
  | .vmulh _ _ _ _ m
  | .vmin _ _ _ _ m
  | .vmax _ _ _ _ m
  | .vabs _ _ _ m
  | .vsadd _ _ _ _ m
  | .vssub _ _ _ _ m
  | .vand _ _ _ _ m
  | .vor _ _ _ _ m
  | .vxor _ _ _ _ m
  | .vnot _ _ _ m
  | .vshl _ _ _ _ m
  | .vshr _ _ _ _ m
  | .vsar _ _ _ _ m
  | .vsel _ _ _ _ m
  | .vbcast _ _ _ m
  | .vperm _ _ _ _ m
  | .vslide _ _ _ _ m
  | .viota _ _ m
  | .vredadd _ _ _ m
  | .vredmax _ _ _ m
  | .vredmin _ _ _ m
  | .vredmaxi _ _ _ m
  | .vredmini _ _ _ m
  | .vcvt _ _ _ _ m
  | .vpack _ _ _ _ m
  | .vunpack _ _ _ _ m
  | .vgather _ _ _ _ m
  | .vscatter _ _ _ _ m => if m = 0 then [] else [m]
  | .vfcmpEq _ d _ _ m
  | .vfcmpLt _ d _ _ m
  | .vfcmpLe _ d _ _ m
  | .vfcmpUn _ d _ _ m
  | .vcmpEq _ d _ _ m
  | .vcmpLt _ d _ _ m
  | .vcmpLe _ d _ _ m
  | .vcmpLtu _ d _ _ m
  | .vcmpLeu _ d _ _ m => if m = 0 then [] else [m, d]
  | .mand _ a b
  | .mor _ a b => [a, b]
  | .mnot _ a
  | .mpopc _ a => [a]
  | _ => []

end Sys2Proof.Machine
end

