-- ==== Sys2Proof/Machine/Access.lean ====
section
/-!
DEFINITION. Outstanding operations: their issue, the order in which they may be performed (06 R121–R123, R129), and
what performing each one does (06 R118, R122, R128; 10 R210–R218).
-/
namespace Sys2Proof.Machine

/-! ### Order among a thread's operations -/

/-- Whether later accesses must follow this operation's read (06 R123). -/
def Out.acquires (o : Out) : Bool :=
  match o.kind with
  | .load .keep _ _ => false
  | .load _ .sync _ => true
  | .amo _ .acq _ _ _ | .amo _ .ar _ _ _ => true
  | _ => false

/-- Whether later stores must wait for it (10 R217). -/
def Out.isFence (o : Out) : Bool := match o.kind with | .fence _ => true | _ => false

/-- Whether it reads a value that has not returned. -/
def Out.reads (o : Out) : Bool :=
  match o.kind with
  | .load .keep _ _ => false
  | .load _ _ _ | .amo _ _ _ _ _ | .seqadv _ _ _ _ => true
  | _ => false

/-- Whether an outstanding operation writes. -/
def Out.writes (o : Out) : Bool := match o.kind with | .load _ _ _ | .fence _ => false | _ => true

/-- Whether two accesses meet in an 8-byte word. -/
def sameWord (e f : Elem) : Bool :=
  e.pa / 8 ≤ (f.pa + f.size - 1) / 8 && f.pa / 8 ≤ (e.pa + e.size - 1) / 8

/-- Whether an operation has an element still to be performed in a word of another access. -/
def Out.touches (o : Out) (e : Elem) : Bool := o.elems.any fun f => !f.got && sameWord f e

/-- Whether an earlier operation of the thread on the same word is still to be performed (R121). -/
def Thread.behind (t : Thread) (serial : Nat) (e : Elem) : Bool := t.outs.any fun o => o.serial < serial && o.touches e

/-- Whether any operation of the thread on the words of these elements is still to be performed. -/
def Thread.meets (t : Thread) (es : List Elem) : Bool := es.any fun e => t.outs.any fun o => o.touches e

/-- Whether every earlier operation of the thread is complete (R122). -/
def Thread.first (t : Thread) (serial : Nat) : Bool := t.owed.all fun o => serial ≤ o.serial

/-- Whether an accepted matrix instruction of the thread, issued before a request number, reads or writes bytes of the
banks that an access meets (12 R251: they are accesses of the striker in program order). -/
def mxBehind (s : State) (tid serial : Nat) (e : Elem) : Bool :=
  (s.tile (tileOf tid)).queue.any fun q =>
    q.tid == tid && q.serial < serial && q.spans.any fun p => overlap p.1 p.2 (localOf e.pa / 8 * 8) (localOf e.pa % 8 + e.size)

/-- Whether an earlier access of the thread to the same word is still to be performed (R121). -/
def behind (s : State) (tid serial : Nat) (e : Elem) : Bool := (s.thread tid).behind serial e || mxBehind s tid serial e

/-- Whether a sketch read comes after a sketch job of the thread that is not complete (07 R164). -/
def sketchBehind (s : State) (tid : Nat) (o : Out) : Bool :=
  match o.kind with
  | .load (.query _ _ _) _ _ | .load (.flags _) _ _ =>
    (s.cluster (clusterOf tid)).jobs.any fun j => j.tid == tid && j.graph.isNone && j.serial < o.serial &&
      match j.kind with | .sketch _ _ => true | _ => false
  | _ => false

/-- Whether any access of the current thread to the words of these elements is still to be performed. -/
def meets (s : State) (es : List Elem) : Bool := s.th.meets es || es.any (mxBehind s s.tid s.serial)

/-- Whether every access of the thread before a release of a scope is performed (R122): matrix instructions count from
tile scope (12 R251). -/
def releasable (s : State) (tid serial : Nat) (sc : Scope) : Bool :=
  (s.thread tid).first serial && (sc == .thread || !mxEarlier s tid serial)

def Thread.out? (t : Thread) (serial : Nat) : Option Out := List.find? (fun o => o.serial == serial) t.outs

def Thread.setOut (t : Thread) (o : Out) : Thread :=
  { t with outs := t.outs.map fun x => if x.serial = o.serial then o else x }

def Thread.dropOut (t : Thread) (serial : Nat) : Thread := { t with outs := t.outs.filter fun x => x.serial != serial }

/-- A memory access begins: it waits for earlier acquires, and a store form for earlier release fences (R123, R217). -/
def State.access (s : State) (store : Bool) (k : Result) : Result :=
  if s.th.outs.any (·.acquires) || (store && s.th.outs.any (·.isFence)) then s.stall else k

/-- Runs a checked access, or traps. -/
def State.checked {α : Type} (s : State) (x : Except Trap α) (k : α → Result) : Result :=
  match x with
  | .error t => s.trap t
  | .ok a => k a

/-! ### Requests to other modules (20 R356) -/

/-- The line read a core sends to the owner's read port in another module. -/
def readPacket (s : State) (tid m serial : Nat) (e : Elem) : LinkPacket :=
  let c := match (spaceOf (localOf e.pa)).cluster? with | some c => c | none => 0
  { typ := 2, net := 0, src := endpointOf s (clusterOf tid) (coreOf tid % 36), dst := m * 2 ^ 14 + c * 2 ^ 8 + 0x45
    tag := serial % 65536, status := 0, body := bytesOfNat 16 (e.pa / 64 * 64) }

/-- The elements of a load at issue: the request for one in another module leaves at once, unless a weak one is to be served
from a copy the cluster holds, as the free choice says: that request never reaches the port (06 R129). -/
def markSent (s : State) (tid serial : Nat) (o : MOrder) (es : List Elem) : List Elem :=
  (es.zipIdx serial).map fun p =>
    match p.1.place with
    | .remote _ _ => { p.1 with sent := !(o == .weak && (heldCopy s tid (p.1.pa / 64)).isSome && Config.takesCopy p.2) }
    | _ => p.1

/-- The requests for an operation's elements that have left for other modules; element i has number serial + i. -/
def sendReads (s : State) (tid serial : Nat) (es : List Elem) : State :=
  { s with egress := s.egress ++ (es.zipIdx serial).filterMap fun p =>
      match p.1.place with
      | .remote m _ => if p.1.sent then some (readPacket s tid m p.2 p.1) else none
      | _ => none }

/-! ### Issue -/

/-- Issues an operation: it is outstanding from now on, and its elements take request numbers. -/
def State.issueOut (s : State) (kind : OutKind) (va : Addr) (es : List Elem) (f : Thread → Thread) : State :=
  let n := s.serial
  let es := match kind with | .load _ o _ => markSent s s.tid n o es | _ => es
  let s := (s.holdLeaves s.tid (es.map (·.va))).upd fun t => { f t with outs := t.outs ++ [{ serial := n, kind := kind, elems := es, va := va, phys := t.sup.act }] }
  let s := match kind with | .load _ _ _ => sendReads s s.tid n es | _ => s
  { s with serial := n + es.length + 1 }

/-- Issues an operation and completes the instruction's issue. -/
def State.issue (s : State) (kind : OutKind) (va : Addr) (es : List Elem) (f : Thread → Thread := id) : Result :=
  .next ((s.issueOut kind va es f).done 4 id)

/-- Raises a counter, or stalls at 63 (08 R165). -/
def State.raise (s : State) (counted : Bool) (n : Nat) (k : Result) : Result := if counted && n ≥ 63 then s.stall else k

/-- A pull goes to the owner's port, the thread's own cluster included (R214). -/
def pullPlace (s : State) (e : Elem) : Elem :=
  match e.place with
  | .own => { e with place := .cluster (clusterOf s.tid) }
  | _ => e

/-- Whether a load of these elements counts in `ld` (R210): any part of it is performed as a pull or over CXL. -/
def countedLoad (es : List Elem) : Bool := es.any fun e => e.place != .own

/-- Issues a load of checked elements. -/
def State.load (s : State) (dest : Dest) (o : MOrder) (va : Addr) (es : List Elem) : Result :=
  s.access false (s.raise (countedLoad es) s.th.ld
    (s.issue (.load dest o (countedLoad es)) va es fun t => { t with ld := if countedLoad es then t.ld + 1 else t.ld }))

/-- Whether a weak store of an element goes into L1 (05 R106): 4 bytes or more, outside the banks. -/
def intoL1 (e : Elem) : Bool := e.size ≥ 4 && cacheable e.pa

/-- Issues the elements of a weak store in order: those of L1 are written there, the others are outstanding. -/
def weakElems (s : State) (es : List Elem) : State :=
  es.foldl (fun s e =>
    if intoL1 e then weakStoreWords s s.tid (spaceAsid s s.tid s.th.sup.act) e.page e.va (localOf e.pa) false e.bytes
    else (flushElems s s.tid [e]).issueOut (.store none false) e.va [e] id) (s.holdLeaves s.tid (es.map (·.va)))

/-- A weak store of checked elements; it waits for the thread's own earlier operations on the same words. -/
def State.weakStore (s : State) (es : List Elem) : Result :=
  s.access true (if meets s (es.filter intoL1) then s.stall else .next ((weakElems s es).done 4 id))

/-- A strong or release store of checked elements (R211): outstanding and counted in `st`. -/
def State.strongStore (s : State) (release : Option Scope) (va : Addr) (es : List Elem) : Result :=
  s.access true (s.raise true s.th.st
    ((flushElems s s.tid es).issue (.store release true) va es fun t => { t with st := t.st + 1 }))

/-- A store form of the M format (R211, R212, R276). -/
def State.store (s : State) (o : MOrder) (va : Addr) (es : List Elem) : Result :=
  match o with
  | .weak => s.weakStore es
  | .strong => s.strongStore none va es
  | .sync => s.strongStore (some .domain) va es

/-! ### Acquires -/

/-- Replies still to come fill no copy after an acquire. -/
def noFill (s : State) (tid : Nat) (all : Bool) : State :=
  { s with threads := s.threads.map fun p =>
      if (if all then clusterOf p.1 == clusterOf tid else coreOf p.1 == coreOf tid) then
        (p.1, { p.2 with outs := p.2.outs.map fun o =>
          { o with elems := o.elems.map fun e => if e.home then e else { e with nofill := true } } })
      else p }

/-- An acquire of a scope by a thread (06 R117, R123). -/
def acquire (s : State) (tid : Nat) (sc : Scope) : State :=
  match sc with
  | .thread => s
  | .tile | .cluster => noFill (acquireWork s tid sc) tid false
  | .module | .domain => noFill (acquireWork s tid sc) tid true

/-- An acquire that observes a sequence word (05 R105). -/
def acquireWord (s : State) (tid : Nat) (sc : Scope) (gpa : Nat) (v : Word) : State :=
  noFill (observeWord (acquire s tid sc) (clusterOf tid) gpa v) tid true

/-! ### Loads: performing and completing -/

/-- Whether a request of the same core to the same place was issued earlier and has not been performed (R129). -/
def portBehind (s : State) (tid serial i : Nat) (place : Place) (waits : Elem → Bool) : Bool :=
  (range (coreOf tid * 4) 4).any fun t =>
    (s.thread t).outs.any fun o =>
      match o.kind with
      | .load _ _ _ => (o.elems.zipIdx o.serial).any fun p => p.2 < serial + i && p.1.place == place && waits p.1
      | _ => false

/-- Whether a watch request of the same core to the same place was issued earlier and has not arrived (R129). -/
def watchBehind (s : State) (tid serial : Nat) (place : Place) : Bool :=
  s.watchReqs.any fun r => r.link.isNone && coreOf r.tid == coreOf tid && r.serial < serial && r.place == place

/-- The bytes of an access within its 64-byte line. -/
def sliceLine (line : Vec) (e : Elem) : List Byte := sliceBytes (bytesOfVec line) (e.pa % 64) e.size

/-- Whether an access meets a poisoned word of its line. -/
def slicePoison (p : BitVec 8) (e : Elem) : Bool := (touchedWords (e.pa % 64) e.size).any fun w => p.getLsbD w

/-- The register value of returned bytes. -/
def sregValue (bs : List Byte) (size : Nat) (signed : Bool) : Word :=
  if signed then sextWord (natOfBytes bs) (8 * size) else BitVec.ofNat 64 (natOfBytes bs)

/-- A lane of a vector replaced (08 R165). -/
def setLane (v : Vec) (w i : Nat) (x : Nat) : Vec :=
  BitVec.ofNat 512 (v.toNat - v.toNat / 2 ^ (w * i) % 2 ^ w * 2 ^ (w * i) + x % 2 ^ w * 2 ^ (w * i))

/-- Inserts an integer into an ascending list. -/
def insertInt : List Int → Int → List Int
  | [], x => [x]
  | y :: r, x => if x ≤ y then x :: y :: r else y :: insertInt r x

/-- A sketch estimate (07 R162): the lower middle of the signed counters of the rows whose flag is 0. -/
def estimate (e : Int) (signs : List Bool) (es : List Elem) : Word :=
  let flags := natOfBytes ((es.headD { va := 0, pa := 0, size := 1 }).bytes)
  let rows := ((es.drop 1).zip signs).zipIdx.filterMap fun p =>
    if fld flags p.2 1 = 1 then none
    else let c := sextNat (natOfBytes p.1.1.bytes) 32; some (if p.1.2 then -c else c)
  let l := rows.foldl insertInt []
  match l[(l.length - 1) / 2]? with
  | none => 0x7FF8000000000000
  | some x => if x = 0 then 0 else BitVec.ofNat 64 (fp64.finish .even false (.fin (x < 0) x.natAbs e false)).1

/-- The element of a load that returned poison it uses: a sketch query does not read the counters of flagged rows. -/
def poisonElem (d : Dest) (es : List Elem) : Option Elem :=
  match d, es with
  | .query _ _ _, e :: r =>
    if e.poison then some e
    else (r.zipIdx.find? fun p => p.1.poison && fld (natOfBytes e.bytes) p.2 1 == 0).map (·.1)
  | _, _ => es.find? (·.poison)

/-- Writes returned data to its destination. -/
def Thread.deliver (t : Thread) (phys : Bool) (d : Dest) (es : List Elem) : Thread :=
  match d with
  | .sreg d size signed => t.wsLate phys d (sregValue (es.flatMap (·.bytes)) size signed)
  | .vreg d => t.wv d (vecOfBytes (es.flatMap (·.bytes)))
  | .lanes d w => t.wv d (es.foldl (fun v e => setLane v w e.lane (natOfBytes e.bytes)) (t.rv d))
  | .flags d => t.wsLate phys d (sregValue (es.flatMap (·.bytes)) 1 false)
  | .query d e signs => t.wsLate phys d (estimate e signs es)
  | .window _ | .prefetch _ | .keep => t

/-- What a returned load reports as its faulting address (R213, R246); each limb of a window is an access (13 R276). -/
def poisonVa (o : Out) (e : Elem) : Addr :=
  match o.kind with
  | .load (.lanes _ _) _ _ | .load (.query _ _ _) _ _ | .load (.window _) _ _ => e.va
  | _ => o.va

/-- The words a load of 8 bytes or more observes, as an acquire (05 R105). -/
def observeElems (s : State) (tid : Nat) (es : List Elem) : State :=
  es.foldl (fun s e =>
    if e.size % 8 = 0 then
      (range 0 (e.size / 8)).foldl (fun s i =>
        acquireWord s tid .domain (e.pa + 8 * i) (BitVec.ofNat 64 (natAt e.bytes (8 * i) 8))) s
    else s) s

/-- Completes a load whose data is all home (R210, R213). -/
def finishLoad (s : State) (tid serial : Nat) : State :=
  match (s.thread tid).out? serial with
  | some o =>
    match o.kind with
    | .load dest order counted =>
      if o.elems.all (·.home) then
        if dest = .keep then s.updThread tid Thread.wake
        else
          let s := s.updThread tid fun t => ({ t.dropOut serial with ld := if counted then t.ld - 1 else t.ld }).wake
          match poisonElem dest o.elems with
          | some e =>
            let s := if order = .sync then acquire s tid .domain else s
            match dest with
            | .prefetch _ => s
            | _ => addPending s tid { code := 0x16, fva := poisonVa o e }
          | none =>
            let s := s.updThread tid fun t => t.deliver o.phys dest o.elems
            if order = .sync then observeElems (acquire s tid .domain) tid o.elems else s
      else s
    | _ => s
  | none => s

/-- Replaces element i of an outstanding operation. -/
def setElem (s : State) (tid : Nat) (o : Out) (i : Nat) (e : Elem) : State :=
  s.updThread tid fun t => t.setOut { o with elems := setNth o.elems i e }

/-- An element served from a copy the cluster holds: a line of the thread's own cluster shows under the core's dirty words. -/
def copyElem (s : State) (tid : Nat) (e : Elem) (l : CopyLine) : Elem :=
  if e.place = .cluster (clusterOf tid) then
    let k := s.core (coreOf tid)
    let mates := Config.seesMate s.serial
    { e with bytes := overlayBytes k tid mates (copyBytes s tid mates l (localOf e.pa)) (localOf e.pa) e.size, got := true, home := true
             poison := overlayBad k tid mates l.poison (localOf e.pa) e.size }
  else { e with bytes := sliceLine l.data e, got := true, home := true, poison := slicePoison l.poison e }

/-- The elements that are read in one step with element i: a sketch query reads each row, with its flag, whole (15 R301; log
entry 115). -/
def together (o : Out) (i : Nat) : List Nat :=
  match o.kind, o.elems[i]? with
  | .load (.query _ _ _) _ _, some e => (range 0 o.elems.length).filter fun k => (o.elems[k]?).any fun f => f.place == e.place && !f.got
  | _, _ => [i]

/-- Reads element i of a load from own or host memory. -/
def readHere (s : State) (tid serial i : Nat) : State :=
  match (s.thread tid).out? serial with
  | some o =>
    match o.kind, o.elems[i]? with
    | .load _ order _, some e =>
      let r := if order = .weak then weakRead s tid (spaceAsid s tid o.phys) e else strongRead s tid (spaceAsid s tid o.phys) e
      finishLoad (setElem r.1 tid o i { e with bytes := r.2.1, got := true, home := true, poison := r.2.2 }) tid serial
    | _, _ => s
  | none => s

/-- Whether an element of a load must wait for an earlier access of the thread. -/
def loadBehind (s : State) (tid : Nat) (o : Out) (i : Nat) : Bool :=
  ((o.elems[i]?).any fun e => behind s tid o.serial e) || sketchBehind s tid o

/-- Performs element i of a load of own or host memory, or serves a weak pull from a copy the cluster holds (R211,
R214, 05 R104); a request that was to be served from a copy and finds none leaves for the port. -/
def performLoad (s : State) (tid serial i : Nat) : State :=
  match (s.thread tid).out? serial with
  | some o =>
    match o.kind, o.elems[i]? with
    | .load _ order _, some e =>
      if e.home || e.got || e.sent || (together o i).any (loadBehind s tid o) then s
      else
        match e.place with
        | .own | .host => (together o i).foldl (fun s k => readHere s tid serial k) s
        | _ =>
          match (if order = .weak then heldCopy s tid (e.pa / 64) else none) with
          | some l => finishLoad (setElem s.bump tid o i (copyElem s tid e l)) tid serial
          | none =>
            match e.place with
            | .remote m _ =>
              { setElem s tid o i { e with sent := true } with egress := s.egress ++ [readPacket s tid m (serial + i) e] }
            | _ => s
    | _, _ => s
  | none => s

/-- Fills the copies a pull may fill (05 R104, R106): L1 and the cluster's remote copies, or the one a prefetch names. A
strong pull fills them where the free choice says so. -/
def fillCopies (s : State) (tid : Nat) (phys : Bool) (order : MOrder) (dest : Dest) (e : Elem) (line : Vec) (bad : BitVec 8) : State :=
  let asid := spaceAsid s tid phys
  let l1 := fun (s : State) =>
    if cacheable e.pa then
      fillL1 s (coreOf tid) (e.pa / 64) { data := line, poison := bad, readOnly := e.readOnly, asid := asid, va := e.va }
    else s
  let far := fun (s : State) =>
    if e.place == .cluster (clusterOf tid) then s else fillRemote s tid asid e.va (e.pa / 64) line bad
  match dest with
  | .prefetch true => far s
  | .prefetch false => l1 s
  | _ => if order = .weak ∨ Config.strongFills s.serial then far (l1 s.bump) else s.bump

/-- Reads element i of a pull at the owner's port. -/
def readThere (s : State) (tid serial i : Nat) : State :=
  match (s.thread tid).out? serial with
  | some o =>
    match o.kind, o.elems[i]? with
    | .load dest order _, some e =>
      let s := flushWords s (coreOf tid) (dirtyMine s tid (localOf e.pa) e.size)
      match portAddr s o.phys (some (slotOf s tid)) e.va e.pa with
      | none => setElem s tid o i { e with got := true, poison := true }
      | some pa =>
        let e := { e with pa := pa }
        let s := touchRead s (clusterOf tid) (spaceAsid s tid o.phys) e.va (localOf pa)
        let line := truthLine s (localOf pa / 64)
        let bad := linePoison s (localOf pa / 64)
        let s := if e.nofill then s else fillCopies s tid o.phys order dest e line bad
        setElem s tid o i { e with bytes := sliceLine line e, got := true, poison := slicePoison bad e }
    | _, _ => s
  | none => s

/-- The owner's port performs a pull's line read (05 R104, R129; 19 R343): the target's ingress walks again, and a
failure or an unbacked address returns poison. -/
def portRead (s : State) (tid serial i : Nat) : State :=
  match (s.thread tid).out? serial with
  | some o =>
    match o.elems[i]? with
    | some e =>
      match o.kind, e.place with
      | .load _ _ _, .cluster _ =>
        if e.got || watchBehind s tid serial e.place || (together o i).any (loadBehind s tid o) ||
            portBehind s tid serial ((together o i).headD i) e.place (fun f => !f.got) then s
        else (together o i).foldl (fun s k => readThere s tid serial k) s
      | _, _ => s
    | none => s
  | none => s

/-- Whether a reply must wait for those of earlier requests to the same port (R129). -/
def replyBehind (s : State) (tid serial i : Nat) (e : Elem) : Bool :=
  portBehind s tid serial i e.place fun f => !f.home && (f.sent || match f.place with | .remote _ _ => false | _ => true)

/-- A pull's reply reaches the core, in the order of R129: from this module's port its data was read before, from
another module it comes with the reply. -/
def lineArrives (s : State) (tid serial i : Nat) (d : Option LineData) : State :=
  match (s.thread tid).out? serial with
  | some o =>
    match o.kind, o.elems[i]? with
    | .load dest order _, some e =>
      if e.home || replyBehind s tid serial i e then s
      else
        let pulled := fun (s : State) => s.countBytes (16 * clusterOf tid + 7) e.size
        match e.place with
        | .cluster _ => if e.got then finishLoad (setElem (pulled s) tid o i { e with home := true }) tid serial else s
        | .remote _ _ =>
          if !e.sent then s
          else
            match d with
            | some (.data v) =>
              let s := if e.nofill then s else fillCopies s tid o.phys order dest e v 0
              finishLoad (setElem (pulled s) tid o i { e with bytes := sliceLine v e, got := true, home := true }) tid serial
            | some .poison => finishLoad (setElem s tid o i { e with got := true, home := true, poison := true }) tid serial
            | none => s
        | _ => s
    | _, _ => s
  | none => s

/-! ### Stores, atomics, sequence advances and releases: performing -/

/-- Completes an operation that counted in `st`. -/
def endStore (s : State) (tid serial : Nat) (counted : Bool) : State :=
  s.updThread tid fun t => ({ t.dropOut serial with st := if counted then t.st - 1 else t.st }).wake

/-- Performs element i of a store, or the one step of another writing operation (06 R118, R122); a release store of no element is the
release of a `TSPAWN` (13 R278). -/
def performStore (s : State) (tid serial i : Nat) : State :=
  match (s.thread tid).out? serial with
  | none => s
  | some o =>
    match o.kind with
    | .store release counted =>
      match o.elems[i]? with
      | none =>
        match release, o.elems with
        | some sc, [] => if releasable s tid serial sc then freeChildren (endStore (releaseWork s tid sc) tid serial counted) tid (· == serial) else s
        | _, _ => s
      | some e =>
        if behind s tid serial e || (match release with | some sc => !releasable s tid serial sc | none => false) then s
        else
          let s := match release with | some sc => releaseWork s tid sc | none => s
          let s := threadWrite s tid o.phys e e.bytes
          let rest := dropNth o.elems i
          if rest.isEmpty then endStore s tid serial counted
          else s.updThread tid fun t => t.setOut { o with elems := rest }
    | .seqadv add sc d y =>
      match o.elems[0]? with
      | none => s
      | some e =>
        if !releasable s tid serial sc then s
        else
          let s := releaseWork s tid sc
          let s :=
            if truthBad s (localOf e.pa) 8 then addPending s tid { code := 0x16, fva := o.va }
            else
              (seqadvWrite s tid o.phys add y e).updThread tid fun t => t.wsLate o.phys d (truthWord s (localOf e.pa))
          endStore s tid serial true
    | .baradd y =>
      match o.elems[0]? with
      | none => s
      | some e =>
        if !releasable s tid serial .cluster then s
        else
          let s := releaseWork s tid .cluster
          let s :=
            if truthBad s (localOf e.pa) 32 then addPending s tid { code := 0x16, fva := o.va }
            else baraddWrite s tid o.phys y e
          endStore s tid serial false
    | .fence sc => if releasable s tid serial sc then endStore (releaseWork s tid sc) tid serial true else s
    | .load _ _ _ | .amo _ _ _ _ _ => s

/-- Performs an atomic (06 R128, 10 R216): the core's dirty words of its bytes first. -/
def performAmo (s : State) (tid serial : Nat) : State :=
  match (s.thread tid).out? serial with
  | none => s
  | some o =>
    match o.kind, o.elems[0]? with
    | .amo op order d y expected, some e =>
      let rel := order = .rel ∨ order = .ar
      let acq := order = .acq ∨ order = .ar
      if behind s tid serial e || (rel && !releasable s tid serial .domain) then s
      else
        let s := if rel then releaseWork s tid .domain else s
        let s := flushElems (s.updThread tid fun t => t.dropOut serial) tid [e]
        let a := localOf e.pa
        let s := touchRead s (clusterOf tid) (spaceAsid s tid o.phys) e.va a
        if truthBad s a e.size then
          addPending (if acq then acquire s tid .domain else s) tid { code := 0x16, fva := o.va }
        else
          let x := natOfBytes (truthRead s a e.size)
          let s := (amoWrite s tid o.phys op y expected e).updThread tid fun t => t.wsLate o.phys d (sextWord x (8 * e.size))
          if acq then
            if e.size = 8 then acquireWord s tid .domain e.pa (BitVec.ofNat 64 x) else acquire s tid .domain
          else s
    | _, _ => s

/-! ### Reads an instruction waits for -/

/-- The outstanding read kept for these elements, if there is one. -/
def Thread.kept? (t : Thread) (es : List Elem) : Option Out :=
  List.find? (fun (x : Out) => match x.kind with
    | .load .keep _ _ => x.elems.map (fun e => (e.va, e.size)) == es.map (fun e => (e.va, e.size))
    | _ => false) t.outs

/-- Reads own memory at once. -/
def readNow (s : State) (o : MOrder) (es : List Elem) : State × List Elem :=
  let asid := spaceAsid s s.tid s.th.sup.act
  es.foldl (fun (p : State × List Elem) e =>
    let r := if o = .weak then weakRead p.1 p.1.tid asid e else strongRead p.1 p.1.tid asid e
    (r.1, p.2 ++ [{ e with bytes := r.2.1, got := true, home := true, poison := r.2.2 }])) (s, [])

/-- The translations of the reads an instruction has made at once may be held when it is over. -/
def State.thenHold (s : State) (vas : List Addr) (r : Result) : Result :=
  match r with
  | .next t => .next { t with tlb := t.tlb ++ (s.holdLeaves s.tid vas).tlb.filter fun c => !t.tlb.contains c }
  | x => x

/-- A read of elements by an instruction that needs their data before it completes: own memory is read at once where that is one
read (`whole`) or the free choice says so, else word by word (06 R118), and other places through the ports; for these the
instruction stalls, and they count in `ld` until it completes (13 R276). On success the elements carry their data; the read is
kept where `hold` asks, for an instruction that reads again before it completes. -/
def State.awaitRead (s : State) (hold whole : Bool) (o : MOrder) (va : Addr) (es : List Elem)
    (k : State → List Elem → Result) : Result :=
  match s.th.kept? es with
  | some x =>
    if x.elems.all (·.home) then k (if hold then s else s.upd Thread.dropKept) x.elems else s.stall
  | none =>
    if meets s es then s.stall
    else if (es.all fun e => e.place == .own) && (whole || es.length ≤ 1 || Config.readsWhole s.serial) then
      let r := readNow s o es
      s.thenHold (es.map (·.va)) (k (if hold then { r.1.issueOut (.load .keep o false) va r.2 id with tlb := s.tlb } else r.1) r.2)
    else
      let s := if hold then s else s.upd Thread.dropKept
      let counts := countedLoad es && !s.th.keptCounted
      s.raise counts s.th.ld
        (s.issueOut (.load .keep o counts) va es fun t => { t with ld := if counts then t.ld + 1 else t.ld }).stall

end Sys2Proof.Machine
end

