-- ==== Sys2Proof/Machine/Engines.lean ====
section
/-!
DEFINITION. Job cards and the pull/copy engines (07 R143–R148, 12 R263–R266, 06 R130, R131; 01 R19): the card a thread
or a graph node hands over, the checks of its acceptance, and the parts in which its payload lands.
-/
namespace Sys2Proof.Machine

/-! ### Cards (R143, R144) -/

def cardKind (c : List Byte) : Nat := natAt c 0 1
def cardEngine (c : List Byte) : Nat := natAt c 1 1
def cardFlag (c : List Byte) (i : Nat) : Bool := fld (natAt c 2 1) i 1 == 1
def cardScope (c : List Byte) : Nat := natAt c 3 1
def cardRowb (c : List Byte) : Nat := natAt c 4 4
def cardRows (c : List Byte) : Nat := natAt c 8 4
def cardSel (c : List Byte) : Nat := natAt c 12 4
def cardSrc (c : List Byte) : Nat := natAt c 16 10
def cardDst (c : List Byte) : Nat := natAt c 32 10
def cardSstr (c : List Byte) : Int := sextNat (natAt c 48 8) 64
def cardDstr (c : List Byte) : Int := sextNat (natAt c 56 8) 64
def cardSig (c : List Byte) : Nat := natAt c 64 10
def cardCpl (c : List Byte) : Nat := natAt c 80 10
def cardV (c : List Byte) : Word := BitVec.ofNat 64 (natAt c 96 8)
/-- Length of a lodge card's region, and bitstream length and reference area of a media card (R156, R158). -/
def lodgeLen (c : List Byte) : Nat := natAt c 4 8
def mediaLen (c : List Byte) : Nat := natAt c 12 4
def mediaRef (c : List Byte) : Nat := natAt c 48 10

def scopeOf (n : Nat) : Scope :=
  match n with
  | 0 => .thread
  | 1 => .tile
  | 2 => .cluster
  | 3 => .module
  | _ => .domain

/-- The rows of bytes a job reads or writes: first address, stride, bytes in a row, rows. -/
structure Shape where
  base : Int
  stride : Int
  n : Nat
  rows : Nat
  deriving DecidableEq, Repr

/-- Every byte of the rows lies between these addresses. -/
def Shape.span (x : Shape) : Int × Int :=
  let last := x.base + ((x.rows : Int) - 1) * x.stride
  (min x.base last, max x.base last + x.n)

/-- The 4 KiB units the rows touch, ascending, each with the lowest address touched in it. -/
def Shape.units (x : Shape) : Assoc Nat :=
  (range 0 x.rows).foldl (fun us (r : Nat) =>
    let lo := (x.base + (r : Int) * x.stride).toNat
    if x.n = 0 then us
    else (range (lo / 4096) ((lo + x.n - 1) / 4096 - lo / 4096 + 1)).foldl (fun (us : Assoc Nat) u =>
      let v := max lo (u * 4096)
      us.put u (match us.find? u with | some w => min v w | none => v)) us) []

/-- Whether some row of a shape begins between two addresses. -/
def Shape.rowBetween (x : Shape) (lo hi : Int) : Bool :=
  if x.stride = 0 then lo < x.base && x.base < hi && x.rows != 0
  else
    let b := if x.stride < 0 then x.base + ((x.rows : Int) - 1) * x.stride else x.base
    let st : Int := x.stride.natAbs
    let q : Int := if b > lo then 0 else (lo - b) / st + 1
    q < x.rows && b + q * st < hi

/-- Whether two shapes share a byte. -/
def Shape.meets (x y : Shape) : Bool :=
  (range 0 x.rows).any fun (r : Nat) =>
    let d := x.base + (r : Int) * x.stride
    y.rowBetween (d - y.n) (d + x.n)

/-! ### Who hands a card over -/

/-- The party whose rights a card is checked under: a thread, or a graph node's walker (18 R329). -/
structure Party where
  tid : Nat
  task : Option Nat
  cluster : Nat
  slot : Nat
  asid : Nat
  code : Nat
  phys : Bool := false
  graph : Option (Nat × Nat) := none
  deriving DecidableEq, Repr

def threadParty (s : State) : Party :=
  { tid := s.tid, task := s.th.task, cluster := clusterOf s.tid, slot := slotOf s s.tid, asid := asidOf s s.tid
    code := if s.th.sup.act then keySup else codeOf s.tid, phys := s.th.sup.act }

/-- The walk of an address of a party or job of cluster c; none where it fails, or ends in memory of the cluster that does not
exist (05 R96). -/
def walkAs (s : State) (c : Nat) (phys : Bool) (slot : Nat) (va : Nat) : Option Leaf :=
  if phys then
    if va < 2 ^ 44 ∧ supBacked s va then some { pa := s.regs.modnum * 2 ^ 44 + va, w := true, x := true } else none
  else
    match walkSlot s slot (BitVec.ofNat 80 va) with
    | some l => if unbackedFor s c l.pa then none else some l
    | none => none

/-- Whether a party may have a unit written (R145, 18 R329). -/
def mayWrite (s : State) (p : Party) (u : Nat) : Bool :=
  mayStore s p.cluster p.code p.slot u ||
    (p.graph.isSome && match keyAt (s.cluster p.cluster) u with
      | some (_, e) => e.holder == keyOpen && e.job == p.slot && !(s.slot p.slot).det
      | none => false)

/-- Whether a code holds the key of a unit in a cluster's table. -/
def holds (s : State) (c code u : Nat) : Bool :=
  match keyAt (s.cluster c) u with
  | some (_, e) => e.holder == code
  | none => false

/-- The pull/copy engines a card may be taken by, as holder codes. -/
def engineCodes (c : List Byte) : List Nat := if cardEngine c = 0 then [0xA0, 0xA1] else [0x9F + cardEngine c]

/-! ### Conversion copies (03 R70, R146) -/

def unitBytes (code : Nat) : Nat := if codeWidth code = 6 then 3 else max 1 (codeWidth code / 8)
def unitElems (code : Nat) : Nat := if codeWidth code = 6 then 4 else if codeWidth code < 8 then 8 / codeWidth code else 1

/-- The formats and the source bank of a copy between banks of different formats: those of the banks that hold its first
source byte and its first destination byte (log entry 112). -/
def convOf (s : State) (p : Party) (c : List Byte) : Option (Word × Word × Nat) :=
  match walkAs s p.cluster p.phys p.slot (cardSrc c), walkAs s p.cluster p.phys p.slot (cardDst c) with
  | some l, some m =>
    match spaceOf (localOf l.pa), spaceOf (localOf m.pa) with
    | .bank x t b _, .bank y u d _ =>
      let fs := (s.tile (x * 6 + t)).fmtAt b
      let fd := (s.tile (y * 6 + u)).fmtAt d
      if cardKind c = 3 ∧ fmtCode fs ≠ fmtCode fd ∧ moduleOf l.pa = s.regs.modnum ∧ moduleOf m.pa = s.regs.modnum then
        some (fs, fd, bankBase x t b) else none
    | _, _ => none
  | _, _ => none

/-- Elements in a row of a conversion copy (R146). -/
def convElems (code rowb : Nat) : Nat := rowb / unitBytes code * unitElems code

/-- Whether R70 or R146 refuses a conversion. -/
def convBad (v : Word × Word × Nat) (rowb : Nat) : Bool :=
  let cs := fmtCode v.1
  let cd := fmtCode v.2.1
  let n := convElems cs rowb
  codeScaled cd || codeClass cd == .tern || codeClass cd == .bin || rowb % unitBytes cs != 0 || n % unitElems cd != 0 ||
    (codeScaled cs && n > 64 * scaleBlocks v.1)

/-- Bytes of one written row. -/
def dstRow (c : List Byte) (v : Option (Word × Word × Nat)) : Nat :=
  match v with
  | some x => rowBytes (fmtCode x.2.1) (convElems (fmtCode x.1) (cardRowb c))
  | none => cardRowb c

/-! ### What a card reads and writes -/

/-- The footprint entry's first address and length in units (R144). -/
def cardEntry (c : List Byte) (e : Nat) : Nat × Nat := (natAt c (128 + 16 * e) 10, natAt c (138 + 16 * e) 4)

/-- The source of a card. -/
def cardSource (c : List Byte) : List Shape :=
  match cardKind c with
  | 1 | 2 | 3 => [{ base := cardSrc c, stride := cardSstr c, n := cardRowb c, rows := cardRows c }]
  | 4 => [{ base := cardSrc c, stride := 0, n := mediaLen c, rows := 1 }]
  | 5 => [{ base := cardSrc c, stride := 0, n := lodgeLen c, rows := 1 }]
  | _ => []

/-- What a card writes beside its words: its rows, a decoder's written regions, or a receipt. -/
def cardTarget (c : List Byte) (v : Option (Word × Word × Nat)) : List Shape :=
  let entry := fun (e : Nat) => { base := (cardEntry c e).1, stride := 0, n := (cardEntry c e).2 * 4096, rows := 1 : Shape }
  match cardKind c with
  | 1 | 3 => [{ base := cardDst c, stride := cardDstr c, n := dstRow c v, rows := cardRows c }]
  | 4 => [entry 4, entry 5]
  | 5 => [{ base := cardDst c, stride := 0, n := 32, rows := 1 }]
  | _ => []

/-- The smallest run of units that covers some rows (R144). -/
def runOf (xs : List Shape) : Nat × Nat :=
  match xs with
  | x :: _ =>
    let lo := (x.span.1).toNat / 4096
    (lo * 4096, ((x.span.2).toNat + 4095) / 4096 - lo)
  | [] => (0, 0)

/-- The footprint the scheduler fills in for the dedicated instructions (R144); a media card's entries 4 and 5 are
those its instruction gave. -/
def fillCard (c : List Byte) (v : Option (Word × Word × Nat)) : List Byte :=
  let ent := fun (p : Nat × Nat) => bytesOfNat 10 p.1 ++ bytesOfNat 4 p.2 ++ [0, 0]
  let e4 := if cardKind c = 4 then sliceBytes c 192 32 else ent (runOf (cardTarget c v)) ++ List.replicate 16 0
  c.take 128 ++ ent (runOf (cardSource c)) ++ List.replicate 48 0 ++ e4 ++ List.replicate 32 0

/-- Whether every byte of some rows lies inside footprint entries. -/
def inFootprint (c : List Byte) (es : List Nat) (xs : List Shape) : Bool :=
  xs.all fun x => x.units.all fun u => es.any fun e =>
    (cardEntry c e).1 / 4096 ≤ u.1 && u.1 < (cardEntry c e).1 / 4096 + (cardEntry c e).2

/-! ### The checks of acceptance (R145) -/

def faultIf (b : Bool) (code : Nat) (va : Nat := 0) : Option Trap := if b then some { code := code, fva := BitVec.ofNat 80 va } else none

/-- Check 1: reserved values and reserved bytes. -/
def reservedBad (c : List Byte) : Bool :=
  let k := cardKind c
  let zero := fun (lo n : Nat) => allZero (sliceBytes c lo n)
  let engineOk := if k = 4 then cardEngine c = 0 ∨ (0x10 ≤ cardEngine c ∧ cardEngine c ≤ 0x13) else cardEngine c ≤ 2
  let own : Bool := match k with
    | 1 | 3 => zero 12 4
    | 2 => true
    | 4 => natAt c 4 1 ≤ 3 && [2, 3, 0xB, 0xC].contains (natAt c 5 1) && natAt c 6 1 ≤ 1 && zero 9 1 && natAt c 10 2 != 0 &&
        (natAt c 6 1 == 0 || (1 ≤ natAt c 7 1 && natAt c 7 1 ≤ 64 && 1 ≤ natAt c 8 1 && natAt c 8 1 ≤ 16))
    | 5 => zero 13 3 && natAt c 12 1 ≤ 15
    | _ => zero 6 10
  let entries := (range 0 6).all fun e => zero (142 + 16 * e) 2 && ((cardEntry c e).2 == 0 || (cardEntry c e).1 % 4096 == 0)
  !(1 ≤ k && k ≤ 6 && decide engineOk && natAt c 2 1 < 16 && cardScope c ≤ 4 && own && zero 26 6 && zero 42 6 && zero 74 6 &&
    zero 90 6 && zero 104 24 && zero 224 32 && entries)

/-- The selector and geometry of a pull-add (R147). -/
def pullAddBad (s : State) (cl : Nat) (c : List Byte) : Bool :=
  let sel := cardSel c
  let es := if fld sel 10 1 = 1 then 2 else 4
  let f := fld sel 4 6
  sel / 2 ^ 14 != 0 || fld sel 11 3 > 5 || !tilePresent s (cl * 6 + fld sel 11 3) || cardRowb c % es != 0 ||
    cardRowb c / es > 64 || cardRows c > 64 - f

/-- Check 3: geometry. Rows of a dedicated instruction's card lie within a run of units whose number one entry can hold (R144). -/
def geometryBad (s : State) (p : Party) (fill : Bool) (c : List Byte) (v : Option (Word × Word × Nat)) : Bool :=
  let rowsBad := cardRowb c == 0 || cardRowb c > 2 ^ 24 || cardRows c == 0 || cardRows c > 65536
  let src := cardSource c
  let dst := cardTarget c v
  let spans := (src ++ dst).any fun x => x.span.1 < 0 || x.span.2 > 2 ^ 80 || (fill && (x.span.2 - x.span.1) / 4096 + 2 > 2 ^ 32)
  let foot := !fill && (!inFootprint c [0, 1, 2, 3] src || !inFootprint c [4, 5] dst)
  (cardFlag c 1 && cardFlag c 3) ||
    match cardKind c with
    | 1 => rowsBad || spans || foot
    | 2 => rowsBad || pullAddBad s p.cluster c || spans || foot
    | 3 =>
      rowsBad || (match v with | some x => convBad x (cardRowb c) | none => false) || spans || foot ||
        src.any fun x => dst.any fun y => x.meets y
    | 4 =>
      let inEntry := fun (e a n : Nat) => (cardEntry c e).1 ≤ a && a + n ≤ (cardEntry c e).1 + (cardEntry c e).2 * 4096
      cardFlag c 1 || cardFlag c 3 || (cardEntry c 4).2 == 0 || (cardEntry c 5).2 == 0 || spans ||
        (!fill && (!inFootprint c [0, 1, 2, 3] src || !inEntry 4 (cardDst c) 1 || !inEntry 5 (mediaRef c) 1)) ||
        !inEntry 5 (cardSig c) 64
    | 5 => lodgeLen c == 0 || lodgeLen c % 4096 != 0 || lodgeLen c > 2 ^ 31 || spans || foot
    | _ => ((s.cluster p.cluster).lodgings.find? (natAt c 4 2)).isNone

/-- The physical bytes some rows occupy, within 4 KiB units. -/
def physPieces (s : State) (p : Party) (x : Shape) : List (Nat × Nat) :=
  (range 0 x.rows).flatMap fun (r : Nat) =>
    let lo := (x.base + (r : Int) * x.stride).toNat
    (range (lo / 4096) ((lo + x.n - 1) / 4096 - lo / 4096 + 1)).filterMap fun u =>
      let a := max lo (u * 4096)
      match walkAs s p.cluster p.phys p.slot a with
      | some l => some (l.pa, min (lo + x.n) ((u + 1) * 4096) - a)
      | none => none

/-- Whether a copy's source and destination are the same bytes under two addresses (R145). -/
def aliasBad (s : State) (p : Party) (c : List Byte) (v : Option (Word × Word × Nat)) : Bool :=
  cardKind c == 3 &&
    let a := (cardSource c).flatMap (physPieces s p)
    let b := (cardTarget c v).flatMap (physPieces s p)
    a.any fun x => b.any fun y => overlap x.1 x.2 y.1 y.2

/-- The words a card signals in: each with the space it must lie in. -/
def cardWords (c : List Byte) : List (Nat × Bool) :=
  (if cardKind c != 4 && (cardFlag c 1 || cardFlag c 3) then [(cardSig c, cardFlag c 1)] else []) ++
    (if cardFlag c 2 then [(cardCpl c, false)] else [])

/-- Check 4: alignment of the signal and completion words, and of a media card's status record (12 R265). -/
def alignFault (c : List Byte) (fill : Bool) : Option Trap :=
  (faultIf (cardKind c != 4 && cardFlag c 1 && cardSig c % 64 != 0) 0x03 (cardSig c)).orElse fun _ =>
  (faultIf (cardKind c != 4 && cardFlag c 3 && cardSig c % 8 != 0) 0x03 (cardSig c)).orElse fun _ =>
  (faultIf (cardKind c == 4 && fill && cardSig c % 0x200000 != 0) 0x03 (cardSig c)).orElse fun _ =>
  faultIf (cardFlag c 2 && cardCpl c % 8 != 0) 0x03 (cardCpl c)

/-- The addresses a card writes, one for each unit: with the shape's index among the targets. -/
def writtenVas (c : List Byte) (v : Option (Word × Word × Nat)) : List Nat := (cardTarget c v).flatMap fun x => x.units.map (·.2)

/-- Whether a failing walk of a source is this side's: a copy's or a lodging's region, or any unmapped address, which no
target can be found for. -/
def sourceVas (c : List Byte) : List Nat := (cardSource c).flatMap fun x => x.units.map (·.2)

/-- The first address of a list for which a test gives a trap code. -/
def firstFault (vas : List Nat) (f : Nat → Option Nat) : Option Trap :=
  vas.foldr (fun va r => match f va with | some c => some { code := c, fva := BitVec.ofNat 80 va } | none => r) none

/-- Where a media card's regions may lie (R156, 12 R265): the tensor in a bank or the HBM slice, the reference area, and an
`MDEC`'s status record before it, in the HBM slice. -/
def mediaSpaceOk (c : List Byte) (fill : Bool) (va : Nat) (sp : Space) : Bool :=
  let inEntry := fun (e : Nat) => (cardEntry c e).1 ≤ va && va < (cardEntry c e).1 + (cardEntry c e).2 * 4096
  let hbm := match sp with | .hbm _ _ => true | _ => false
  let bank := match sp with | .bank _ _ _ _ => true | _ => false
  (!inEntry 4 || hbm || bank) && (!inEntry 5 || hbm || (!fill && va / 4096 < mediaRef c / 4096))

/-- Check 6 on a written address: this cluster's own memory, or a host region of an engine that may take the card. -/
def targetFault (s : State) (p : Party) (fill : Bool) (c : List Byte) (va : Nat) : Option Nat :=
  match walkAs s p.cluster p.phys p.slot va with
  | none => none
  | some l =>
    let u := unitOf (localOf l.pa)
    match placeOf s p.cluster l.pa with
    | .own => if l.w && (cardKind c != 4 || mediaSpaceOk c fill va (spaceOf (localOf l.pa))) then none else some 0x06
    | .host =>
      if l.w && (cardKind c == 1 || cardKind c == 3) && (engineCodes c).any fun e => holds s p.cluster e u then none else some 0x06
    | _ => some 0x06

/-- Check 6 on a signal or completion word; a barrier object may not lie in a bank (R113). -/
def wordFault (s : State) (p : Party) (va : Nat) (barrier : Bool) : Option Nat :=
  match walkAs s p.cluster p.phys p.slot va with
  | none => none
  | some l =>
    match placeOf s p.cluster l.pa, spaceOf (localOf l.pa) with
    | .own, .bank _ _ _ _ => if barrier || !l.w then some 0x06 else none
    | .own, _ => if l.w then none else some 0x06
    | _, _ => some 0x06

/-- Check 6 on a source: a copy reads its own cluster's memory; a media card's reference area lies in its own HBM. -/
def sourceFault (s : State) (p : Party) (c : List Byte) (va : Nat) : Option Nat :=
  match walkAs s p.cluster p.phys p.slot va with
  | some l => if cardKind c = 3 ∧ placeOf s p.cluster l.pa ≠ .own then some 0x06 else none
  | none => none

/-- The host units a card writes. -/
def hostUnits (s : State) (p : Party) (vas : List Nat) : List (Nat × Nat) :=
  vas.filterMap fun va => match walkAs s p.cluster p.phys p.slot va with
    | some l => if placeOf s p.cluster l.pa = .host then some (va, unitOf (localOf l.pa)) else none
    | none => none

/-- The engines that hold every host unit a card writes. -/
def hostEngines (s : State) (p : Party) (c : List Byte) (us : List (Nat × Nat)) : List Nat :=
  (engineCodes c).filter fun e => us.all fun u => holds s p.cluster e u.2

/-- Check 7 on an address of device memory. -/
def keyFault (s : State) (p : Party) (va : Nat) : Option Nat :=
  match walkAs s p.cluster p.phys p.slot va with
  | some l => if placeOf s p.cluster l.pa ≠ .host ∧ ¬ mayWrite s p (unitOf (localOf l.pa)) then some 0x07 else none
  | none => none

/-- The units of a card's written footprint, each by its first address. -/
def footprintVas (c : List Byte) : List Nat := [4, 5].flatMap fun e => (range 0 (cardEntry c e).2).map fun i => (cardEntry c e).1 + 4096 * i

/-- The first check of R145 that a card fails. A graph node's card needs the keys of its whole written footprint (18 R329). -/
def cardFault (s : State) (p : Party) (fill : Bool) (c : List Byte) : Option Trap :=
  let v := convOf s p c
  let unmapped := fun (va : Nat) => if (walkAs s p.cluster p.phys p.slot va).isNone then some 0x05 else none
  let ws := writtenVas c v
  let hosts := hostUnits s p ws
  (faultIf (reservedBad c) 0x01).orElse fun _ =>
  (faultIf (cardKind c == 4 && !mediaPresent s) 0x0A).orElse fun _ =>
  (faultIf (geometryBad s p fill c v || aliasBad s p c v) 0x01).orElse fun _ =>
  (alignFault c fill).orElse fun _ =>
  (firstFault (ws ++ (cardWords c).map (·.1) ++ sourceVas c) unmapped).orElse fun _ =>
  (firstFault ws (targetFault s p fill c)).orElse fun _ =>
  (firstFault ((cardWords c).map (·.1)) fun va => wordFault s p va ((cardWords c).contains (va, true))).orElse fun _ =>
  (firstFault (sourceVas c) (sourceFault s p c)).orElse fun _ =>
  (firstFault (ws ++ (if p.graph.isSome then footprintVas c else []) ++ (cardWords c).map (·.1)) (keyFault s p)).orElse fun _ =>
  if hosts ≠ [] ∧ hostEngines s p c hosts = [] then faultIf true 0x07 ((hosts.map (·.1)).headD 0) else none

/-! ### Acceptance -/

/-- The units of this module's memory that footprint entries name, in the order of R130. -/
def physUnits (s : State) (p : Party) (c : List Byte) (es : List Nat) : List Nat :=
  es.flatMap fun e => (range 0 (cardEntry c e).2).filterMap fun i =>
    match walkAs s p.cluster p.phys p.slot ((cardEntry c e).1 + 4096 * i) with
    | some l => if moduleOf l.pa = s.regs.modnum then some (unitOf (localOf l.pa)) else none
    | none => none

/-- The local units of some addresses. -/
def vaUnits (s : State) (p : Party) (vas : List Nat) : List Nat :=
  vas.filterMap fun va => match walkAs s p.cluster p.phys p.slot va with
    | some l => if moduleOf l.pa = s.regs.modnum then some (unitOf (localOf l.pa)) else none
    | none => none

/-- The unit number that stands for an accumulator among a deterministic job's pull-adds (R147). -/
def accumUnit (tile k : Nat) : Nat := 2 ^ 60 + tile * 16 + k

/-- Enters a job in its cluster's list: its keys are lent and the issuing core's dirty words of its units written
through (R130, R145, 01 R19). -/
def enterJob (s : State) (p : Party) (j : Job) (lend : List Nat) (words : List Nat) : State :=
  let core := coreOf p.tid
  let s :=
    if p.graph.isSome then s
    else flushWords s core (((s.core core).dirty.map (·.1)).filter fun w =>
      j.reads.contains (w / 1024) || j.writes.contains (w / 1024) || words.contains (w / 1024))
  let r := lendKeys s p.cluster p.code j.engine lend
  let j := { j with id := s.serial, serial := s.serial, loans := r.2, tid := p.tid, task := p.task, asid := p.asid, slot := p.slot
                    graph := p.graph, phys := p.phys, cluster := p.cluster }
  ((wakeCluster r.1 p.cluster).updCluster p.cluster fun cl => { cl with jobs := cl.jobs ++ [j] }).bump

/-- Accepts a checked card. The keys of its written footprint are lent (01 R19, 06 R131), and for a graph node those of the words
it signals in (01 R16, 18 R329). -/
def acceptCard (s : State) (p : Party) (fill : Bool) (card : List Byte) : State :=
  let v := convOf s p card
  let c := if fill then fillCard card v else card
  let ws := writtenVas c v
  let hosts := hostUnits s p ws
  let eng :=
    if cardKind c = 4 then
      0xA8 + 4 * dieOf p.cluster + (if cardEngine c = 0 then Config.decoderChoice s.serial % 4 else cardEngine c - 0x10)
    else if hosts ≠ [] then (hostEngines s p c hosts).headD 0xA0
    else if cardEngine c = 0 then (if Config.engineChoice s.serial then 0xA1 else 0xA0)
    else 0x9F + cardEngine c
  let acc :=
    if cardKind c = 2 ∧ (s.slot p.slot).det then [accumUnit (p.cluster * 6 + fld (cardSel c) 11 3) (cardSel c % 16)] else []
  let j : Job := { id := 0, kind := .card, tid := p.tid, engine := eng, card := c, conv := v
                   reads := physUnits s p c [0, 1, 2, 3], writes := physUnits s p c [4, 5] ++ acc }
  let words := vaUnits s p ((cardWords c).map (·.1))
  let s := if p.phys then s else (sourceVas c ++ ws ++ (cardWords c).map (·.1)).foldl (fun s va => s.holdLeaf p.slot (BitVec.ofNat 80 va)) s
  enterJob s p j (physUnits s p c [4, 5] ++ if p.graph.isSome then words else []) words

/-- A thread hands over a card (R145): it waits for a place, and the job counts in `cp`. A copy also waits for the
thread's own earlier `BFMT` instructions (12 R251). -/
def State.submit (s : State) (fill : Bool) (c : List Byte) : Result :=
  let p := threadParty s
  let formats := cardKind c == 3 && (s.tile (tileOf s.tid)).queue.any fun q => q.tid == s.tid && match q.instr with | .bfmt _ _ => true | _ => false
  if formats then s.stall
  else
    match cardFault s p fill c with
    | some t => s.trap t
    | none =>
      s.access true (
        if s.th.cp ≥ 63 ∨ Config.jobPlaces ≤ (s.cluster p.cluster).jobs.length then s.stall
        else (acceptCard s p fill c).retire 4 fun t => { t with cp := t.cp + 1 })

/-! ### The instructions (R263–R266) -/

/-- A card of R263 from the engine registers, the four addresses and V. -/
def buildCard (t : Thread) (kind sel : Nat) (src dst sig cpl : Addr) (v : Word) : List Byte :=
  [BitVec.ofNat 8 kind, BitVec.ofNat 8 (field t.ecard 16 8), BitVec.ofNat 8 (field t.ecard 0 8), BitVec.ofNat 8 (field t.ecard 8 8)] ++
    bytesOfNat 4 (field t.egeom 0 32) ++ bytesOfNat 4 (field t.egeom 32 32) ++ bytesOfNat 4 sel ++
    bytesOfNat 16 src.toNat ++ bytesOfNat 16 dst.toNat ++ bytesOfNat 8 t.esstr.toNat ++ bytesOfNat 8 t.edstr.toNat ++
    bytesOfNat 16 sig.toNat ++ bytesOfNat 16 cpl.toNat ++ bytesOfNat 8 v.toNat ++ List.replicate 152 0

/-- `BPULL` (R263). -/
def execBpull (sv : SReg) (asrc adst asig acpl : AReg) (s : State) : Result :=
  let t := s.th
  s.submit true (buildCard t 1 0 (t.ra asrc) (t.ra adst) (t.ra asig) (t.ra acpl) (t.rs sv))

/-- `BPULLA` (R263, R147). -/
def execBpulla (sv sx : SReg) (asrc asig acpl : AReg) (s : State) : Result :=
  let t := s.th
  if field (t.rs sx) 32 32 ≠ 0 then s.illegal
  else s.submit true (buildCard t 2 (field (t.rs sx) 0 32) (t.ra asrc) 0 (t.ra asig) (t.ra acpl) (t.rs sv))

/-- `BCOPY` (R263). -/
def execBcopy (sv : SReg) (asrc adst asig acpl : AReg) (s : State) : Result :=
  let t := s.th
  s.submit true (buildCard t 3 0 (t.ra asrc) (t.ra adst) (t.ra asig) (t.ra acpl) (t.rs sv))

/-- `ECMD` (R264): the card is read whole, strong, from the cluster's own memory. -/
def execEcmd (a : AReg) (s : State) : Result :=
  let va := s.th.ra a
  if !aligned va 64 then s.trap { code := 0x03, fva := va }
  else
    s.checked (loadAt s va 64 64) fun e0 => s.checked (loadAt s (va + 64) 64 64) fun e1 =>
      s.checked (loadAt s (va + 128) 64 64) fun e2 => s.checked (loadAt s (va + 192) 64 64) fun e3 =>
        let es := [e0, e1, e2, e3]
        match es.find? fun e => e.place != .own with
        | some e => s.trap { code := 0x06, fva := e.va }
        | none =>
          s.access false (if meets s es then s.stall else s.thenHold (es.map (·.va)) <|
            let r := readNow s .strong es
            match r.2.find? (·.poison) with
            | some e => r.1.trap { code := 0x16, fva := e.va }
            | none => r.1.submit false (r.2.flatMap (·.bytes)))

/-- `MDEC` (R265): absent on SNK-FC1-L before any check. The card's V is 0 (DESIGN CHOICE: log entry 136). -/
def execMdec (sp sl : SReg) (asrc adst asig acpl : AReg) (s : State) : Result :=
  let t := s.th
  if !mediaPresent s then s.trap { code := 0x0A }
  else if field (t.rs sl) 32 32 ≠ 0 then s.illegal
  else
    let sp := (t.rs sp).toNat
    let ag := (t.ra asig).toNat
    let units := fun (n : Nat) => (n + 4095) / 4096
    let tensor := units t.esstr.toNat
    let area := units t.edstr.toNat
    let c := [4, BitVec.ofNat 8 (field t.ecard 16 8), BitVec.ofNat 8 (field t.ecard 0 8), BitVec.ofNat 8 (field t.ecard 8 8)] ++
      bytesOfNat 8 sp ++ bytesOfNat 4 (t.rs sl).toNat ++ bytesOfNat 16 (t.ra asrc).toNat ++ bytesOfNat 16 (t.ra adst).toNat ++
      bytesOfNat 16 ((ag + 0x200000) % 2 ^ 80) ++ bytesOfNat 16 ag ++ bytesOfNat 16 (t.ra acpl).toNat ++ List.replicate 96 0 ++
      bytesOfNat 10 (t.ra adst).toNat ++ bytesOfNat 4 tensor ++ [0, 0] ++ bytesOfNat 10 ag ++ bytesOfNat 4 (512 + area) ++ [0, 0] ++
      List.replicate 32 0
    if tensor = 0 ∨ area = 0 ∨ tensor ≥ 2 ^ 32 ∨ area ≥ 2 ^ 31 then s.illegal
    else s.submit true c

/-- `LODGE` (R266). The card's V is 0 (DESIGN CHOICE: log entry 136). -/
def execLodge (sn sx : SReg) (asrc adst asig acpl : AReg) (s : State) : Result :=
  let t := s.th
  let x := t.rs sx
  if field x 4 4 ≠ 0 ∨ field x 9 55 ≠ 0 then s.illegal
  else
    let head := fun (kind : Nat) => [BitVec.ofNat 8 kind, BitVec.ofNat 8 (field t.ecard 16 8), BitVec.ofNat 8 (field t.ecard 0 8),
      BitVec.ofNat 8 (field t.ecard 8 8)] ++ bytesOfNat 8 (t.rs sn).toNat
    let tail := bytesOfNat 8 t.esstr.toNat ++ bytesOfNat 8 t.edstr.toNat ++ bytesOfNat 16 (t.ra asig).toNat ++
      bytesOfNat 16 (t.ra acpl).toNat ++ bytesOfNat 8 0 ++ List.replicate 152 0
    if x.getLsbD 8 then
      s.submit true (head 6 ++ List.replicate 36 0 ++ tail)
    else
      s.submit true (head 5 ++ bytesOfNat 4 (field x 0 4) ++ bytesOfNat 16 (t.ra asrc).toNat ++ bytesOfNat 16 (t.ra adst).toNat ++ tail)

end Sys2Proof.Machine
end

