-- ==== Sys2Proof/Machine/EngineJobs.lean ====
section
/-!
DEFINITION. What an accepted engine job does (07 R146–R148, R155–R158; 05 R112–R115; 06 R130): its start, the parts of
its payload, its signals, the frames of a decoder, and the copies of lodged regions.
-/
namespace Sys2Proof.Machine

def jobAt (s : State) (c id : Nat) : Option Job := List.find? (fun (j : Job) => j.id == id) (s.cluster c).jobs
def setJob (s : State) (c : Nat) (j : Job) : State :=
  s.updCluster c fun cl => { cl with jobs := cl.jobs.map fun x => if x.id = j.id then j else x }
def dropJob (s : State) (c id : Nat) : State := s.updCluster c fun cl => { cl with jobs := cl.jobs.filter fun x => x.id != id }

/-! ### Order (06 R130) -/

/-- Whether two unit lists share a unit. -/
def sharesUnit (a b : List Nat) : Bool := a.any b.contains

/-- Whether a job must come after an earlier one. -/
def jobConflict (early late : Job) : Bool :=
  sharesUnit early.writes late.reads || sharesUnit early.writes late.writes || sharesUnit early.reads late.writes

/-- Whether an earlier access of the issuing thread to the job's units is still to be performed. -/
def threadConflict (s : State) (j : Job) : Bool :=
  let t := s.thread j.tid
  let hits := fun (us : List Nat) (a n : Nat) => us.any fun u => overlap a n (u * 4096) 4096
  (t.task == j.task && !j.graph.isSome) && (
    (t.outs.any fun o => o.serial < j.serial && o.elems.any fun e => !e.got && moduleOf e.pa == s.regs.modnum &&
      (hits j.writes (localOf e.pa) e.size || (o.writes && hits j.reads (localOf e.pa) e.size))) ||
    (s.tile (tileOf j.tid)).queue.any fun q => q.tid == j.tid && q.serial < j.serial && q.spans.any fun p =>
      hits j.writes p.1 p.2 || (match q.instr with | .mdrain _ _ _ _ => hits j.reads p.1 p.2 | _ => false))

def isSketch (j : Job) : Bool := match j.kind with | .sketch _ _ => true | _ => false

/-- A thread's sketch members are performed in issue order (07 R164). -/
def sketchOrder (s : State) (c : Nat) (j : Job) : Bool :=
  isSketch j && j.graph.isNone && (
    ((s.cluster c).jobs.any fun e => isSketch e && e.tid == j.tid && e.graph.isNone && e.id < j.id) ||
    (s.thread j.tid).outs.any fun o => o.serial < j.serial && match o.kind with
      | .load (.query _ _ _) _ _ | .load (.flags _) _ _ => true
      | _ => false)

/-- Whether a job may start: nothing it must follow is left. -/
def mayStart (s : State) (c : Nat) (j : Job) : Bool :=
  !j.started && !threadConflict s j && !sketchOrder s c j && (s.cluster c).jobs.all fun e => e.id ≥ j.id || !jobConflict e j

/-! ### Reading and writing for a job -/

/-- Asynchronous cause 0x05 for a write whose translation is gone (19 R344). -/
def lostWrite (s : State) (j : Job) (va : Nat) : State :=
  if j.graph.isSome then s
  else updOwner s j.tid j.task fun t =>
    { t with pend := t.pend ++ [{ code := 0x05, fva := BitVec.ofNat 80 (va / 4096 * 4096) }]
             hold := if t.hold = some .idle then some .done else t.hold }

/-- Bytes of n at a virtual address, each with a mark: 0 data, 1 in a poisoned word, 2 a read that failed. Bytes of
another module are those of the lines the event brings, `at_` bytes on; none where it brings none. -/
def engineRead (s : State) (j : Job) (ext : Option (List Byte)) (bad : Bool) : Nat → Nat → Nat → Nat → Option (List (Byte × Nat))
  | 0, _, _, _ => some []
  | fuel + 1, va, n, at_ =>
    if n = 0 then some []
    else
      let k := min n (4096 - va % 4096)
      let here : Option (List (Byte × Nat)) :=
        match walkAs s j.cluster j.phys j.slot va with
        | none => some (List.replicate k (0, 2))
        | some l =>
          if moduleOf l.pa = s.regs.modnum then
            if !j.phys && !backed s (localOf l.pa) then some (List.replicate k (0, 2))
            else some ((range (localOf l.pa) k).map fun a => (truthByte s a, if truthPoison s a then 1 else 0))
          else if unreachable s (moduleOf l.pa) || bad then some (List.replicate k (0, 2))
          else ext.bind fun bs => if at_ + k ≤ bs.length then some ((sliceBytes bs at_ k).map fun b => (b, 0)) else none
      match here, engineRead s j ext bad fuel ((va + k) % 2 ^ 80) (n - k) (at_ + k) with
      | some x, some y => some (x ++ y)
      | _, _ => none

/-- Bytes at an address, those the job has read before as it read them (06 R118, R131). -/
def Job.readAs (j : Job) (va : Nat) (bs : List (Byte × Nat)) : List (Byte × Nat) :=
  if j.ahead.isEmpty then bs
  else (bs.zipIdx va).map fun p => (((j.ahead.find? (p.2 % 2 ^ 80 / 8)).bind fun w => w[p.2 % 8]?).getD p.1)

/-- n bytes at an address, with what the event brings: the whole lines they touch (20 R356). -/
def readFor (s : State) (j : Job) (va n : Nat) : Option (List (Byte × Nat)) :=
  (engineRead s j (if s.ev.bytes.isEmpty then none else some s.ev.bytes) s.ev.flag (n / 4096 + 2) va n (va % 64)).map (j.readAs va)

/-- Lines a row of n bytes at an address touches. -/
def linesOf (a n : Nat) : Nat := (a % 64 + n + 63) / 64

/-- The first touch of line i of a read fills it where it lies in a stash range of the engine's cluster (05 R102): another
cluster's line untagged, since an engine has no fill tag (log entry 113). -/
def touchLine (s : State) (j : Job) (va i : Nat) : State :=
  let a := if i = 0 then va else (va / 64 + i) * 64 % 2 ^ 80
  let asid := if j.phys then physAsid else j.asid
  match walkAs s j.cluster j.phys j.slot a with
  | none => s
  | some l =>
    let fill := fun (s : State) (line : Vec) (bad : BitVec 8) =>
      let s := s.countBytes (16 * j.cluster + 7) 64
      if (rangeAt (s.cluster j.cluster) asid (BitVec.ofNat 80 a)).isNone || ((s.cluster j.cluster).stashLines.find? (roKey (l.pa / 64))).isSome then s
      else fillTagged s j.cluster asid (BitVec.ofNat 80 a) (l.pa / 64) none line bad
    match placeOf s j.cluster l.pa with
    | .own => touchRead s j.cluster asid (BitVec.ofNat 80 a) (localOf l.pa)
    | .cluster _ =>
      let s := if (ownedLine s (localOf l.pa)).isSome then s else s.serve false (localOf l.pa / 64 * 64) 64
      if backed s (localOf l.pa) then fill s (truthLine s (localOf l.pa / 64)) (linePoison s (localOf l.pa / 64)) else s
    | .remote _ _ => if s.ev.flag || s.ev.bytes.length < 64 * i + 64 then s else fill s (vecOfBytes (sliceBytes s.ev.bytes (64 * i) 64)) 0
    | .host => s

/-- The lines a job reads are touched. -/
def touchFor (s : State) (j : Job) (va n : Nat) : State := (range 0 (linesOf va n)).foldl (fun s i => touchLine s j va i) s

/-- The unit number of an engine: a decoder's within its die (20 R353). -/
def engineUnit (code : Nat) : Nat := if code < 0xA8 then code - 0x60 else 0x80 + code % 4

/-- The source endpoint of a job's requests: a decoder belongs to local cluster 0 of its die (20 R353, 01 R12). -/
def jobEndpoint (s : State) (j : Job) : Nat :=
  endpointOf s (if 0xA8 ≤ j.engine then (if 0xAC ≤ j.engine then 32 else 0) else j.cluster) (engineUnit j.engine)

/-- The line reads that a job's read of n bytes sends to other modules (20 R356), and whether each goes to a keyhole port: of a line
of HBM, where the module's route says so and that port is up, which the event says by naming no slot (20 R359). -/
def lineAsks (s : State) (j : Job) (va n : Nat) : List (LinkPacket × Bool) :=
  (range 0 (linesOf va n)).filterMap fun i =>
    match walkAs s j.cluster j.phys j.slot (if i = 0 then va else (va / 64 + i) * 64 % 2 ^ 80) with
    | none => none
    | some l =>
      match placeOf s j.cluster l.pa with
      | .remote m d =>
        if unreachable s m then none
        else
          let hbm := match spaceOf (localOf l.pa) with | .hbm _ _ => true | _ => false
          let keyhole := hbm && s.ev.slot.isNone && s.regs.nlroute.get 0 m / 2 ^ 18 % 2 == 1
          let dst := m * 2 ^ 14 + if keyhole then d / 8 * 8 * 2 ^ 8 + 0x60 else d * 2 ^ 8 + 0x45
          some ({ typ := 2, net := 0, src := jobEndpoint s j, dst := dst, tag := (s.serial + i) % 65536
                  status := 0, body := bytesOfNat 16 (l.pa / 64 * 64) }, keyhole)
      | _ => none

/-- The lines of other modules that a job's read of n bytes lies in: the address of each and the size of its page. -/
def farLines (s : State) (j : Job) (va n : Nat) : List (Nat × Nat) :=
  (range 0 (linesOf va n)).filterMap fun i =>
    let a := if i = 0 then va else (va / 64 + i) * 64 % 2 ^ 80
    (walkAs s j.cluster j.phys j.slot a).bind fun l =>
      match placeOf s j.cluster l.pa with
      | .remote m _ => if unreachable s m then none else some (a, l.page)
      | _ => none

/-- The line reads of a part are sent, once. -/
def askLines (s : State) (j : Job) (part va n : Nat) : State :=
  let ks := lineAsks s j va n
  if ks.isEmpty || (j.asked.find? part).isSome then s
  else
    let s := { s with egress := s.egress ++ (ks.filter fun k => !k.2).map (·.1), keyholeAsks := s.keyholeAsks ++ (ks.filter (·.2)).map (·.1)
                      serial := s.serial + linesOf va n }
    setJob s j.cluster { j with asked := j.asked.put part (farLines s j va n) }

/-- Where a byte of a job's payload goes: the engine writes its own cluster's memory, and a host region, while it holds the key
of the unit or the unit is cluster-open for the job (01 R12, R16, R17). -/
def payloadAt (s : State) (j : Job) (va : Nat) : Option Nat :=
  match walkAs s j.cluster j.phys j.slot va with
  | none => none
  | some l =>
    match placeOf s j.cluster l.pa with
    | .own | .host => if l.w && mayStore s j.cluster j.engine j.slot (unitOf (localOf l.pa)) then some (localOf l.pa) else none
    | _ => none

/-- Writes bytes that lie in one 4 KiB unit, poisoning what R146 and R379 say: the words of bytes read poisoned, the
line of bytes whose read failed. A write the engine may no longer make is discarded (19 R344; log entry 114). -/
def writeFor (s : State) (j : Job) (va : Nat) (bs : List (Byte × Nat)) : State :=
  match payloadAt s j va with
  | none => lostWrite s j va
  | some a =>
    let s := truthWrite s (if j.phys then physAsid else j.asid) (BitVec.ofNat 80 va) a (bs.map (·.1))
    let s := (bs.zipIdx a).foldl (fun s p => if p.1.2 = 1 then truthPoisonWrite s (p.2 / 8 * 8) 8 else s) s
    if bs.any fun b => b.2 == 2 then truthPoisonWrite s (a / 64 * 64) 64 else s

/-- Writes poison over bytes that lie in one line. -/
def poisonFor (s : State) (j : Job) (va n : Nat) : State :=
  match payloadAt s j va with
  | none => lostWrite s j va
  | some a => truthPoisonWrite s a n

/-- Whether the keys of a job's words are lent to its engine with those of its rows: a graph node's and a collective's (18 R329,
12 R267). A thread's card keeps them with the thread (05 R112, R113). -/
def Job.lentWords (j : Job) : Bool := j.graph.isSome || match j.kind with | .coll _ _ => true | _ => false

/-- A word of a job's signals, which lies in its own cluster; where its key was lent, the engine must still be the unit's holder or the
unit cluster-open for the job (01 R17; 19 R344). -/
def wordAt (s : State) (j : Job) (va : Nat) : Option Nat :=
  match walkAs s j.cluster j.phys j.slot va with
  | some l =>
    if l.w ∧ placeOf s j.cluster l.pa = .own ∧ (j.lentWords → mayStore s j.cluster j.engine j.slot (unitOf (localOf l.pa))) then
      some (localOf l.pa) else none
  | none => none

/-- Writes an 8-byte word of the job's signals. -/
def writeWord (s : State) (j : Job) (va : Nat) (x : Word) : State :=
  match wordAt s j va with
  | none => lostWrite s j va
  | some a => truthWrite s (if j.phys then physAsid else j.asid) (BitVec.ofNat 80 va) a (bytesOfNat 8 x.toNat)

/-! ### Parts (05 R113, R146, R147) -/

/-- The bytes of a row in its j-th line: offset in the row and length. -/
def lineSlice (a n j : Nat) : Nat × Nat :=
  let lo := if j = 0 then 0 else 64 * j - a % 64
  (lo, min (64 - (if j = 0 then a % 64 else 0)) (n - lo))

/-- The rows whose lines are a card's parts: the written rows, a receipt, or a pull-add's source rows. -/
def partRows (j : Job) : Shape :=
  if cardKind j.card = 5 then { base := cardDst j.card, stride := 0, n := 32, rows := 1 }
  else if cardKind j.card = 2 then { base := cardSrc j.card, stride := cardSstr j.card, n := cardRowb j.card, rows := cardRows j.card }
  else { base := cardDst j.card, stride := cardDstr j.card, n := dstRow j.card j.conv, rows := cardRows j.card }

def rowAddr (x : Shape) (r : Nat) : Nat := ((x.base + (r : Int) * x.stride) % 2 ^ 80).toNat

/-- Part r * 2^20 + i of a job is line i of row r. -/
def bulkParts (j : Job) : List Nat :=
  let x := partRows j
  (range 0 x.rows).flatMap fun r => (range 0 (linesOf (rowAddr x r) x.n)).map fun i => r * 2 ^ 20 + i

/-- Decrements the card's barrier object by the bytes of one part (R113, R148 step 2). -/
def decrement (s : State) (j : Job) (n : Nat) : State :=
  if !cardFlag j.card 1 then s
  else
    match wordAt s j (cardSig j.card) with
    | none => lostWrite s j (cardSig j.card)
    | some a =>
      if truthBad s a 32 then s
      else
        let r := satS ((truthWord s a).toInt - n) 64
        let va := BitVec.ofNat 80 (cardSig j.card)
        let s := truthWrite s (if j.phys then physAsid else j.asid) va a (bytesOfNat 8 (BitVec.ofInt 64 r).toNat)
        truthWrite s (if j.phys then physAsid else j.asid) (va + 24) (a + 24) (bytesOfNat 8 (truthWord s (a + 24) + 1).toNat)

/-- The converted bytes of a row, with marks (03 R70, R146). An element whose scale word makes it zero becomes +0 (log entry
112). -/
def convertRow (s : State) (j : Job) (v : Word × Word × Nat) (r : Nat) : Option (List (Byte × Nat)) :=
  let cs := fmtCode v.1
  let cd := fmtCode v.2.1
  let n := convElems cs (cardRowb j.card)
  let src := rowAddr { base := cardSrc j.card, stride := cardSstr j.card, n := 0, rows := 0 } r
  match readFor s j src (cardRowb j.card) with
  | none => none
  | some bs =>
    let x := natOfBytes (bs.map (·.1))
    let w := codeWidth cs
    let one := fun (k : Nat) =>
      let raw := elemVal false cs (x / 2 ^ (w * k) % 2 ^ w)
      let value := match scaleVal v.1 (scaleWord s v.2.2 v.1 (k / 64) (r % 64)) with
        | some sc => scaleBy raw sc
        | none => .zero false
      (if codeClass cd = .int then drainInt cd value else drainFloat cd (cardFlag j.card 0) value).1
    let elemBad := fun (k : Nat) =>
      ((bs.drop (k * w / 8)).take ((k * w + w + 7) / 8 - k * w / 8)).any (fun b => b.2 != 0) ||
        (codeScaled cs && truthPoison s (v.2.2 + scaleOff v.1 + 2 * (64 * (k / 64) + r % 64)))
    let out := packElems cd ((range 0 n).map one)
    let dw := codeWidth cd
    some ((out.zipIdx 0).map fun p =>
      let lo := p.2 * 8 / dw
      let hi := min n ((p.2 * 8 + 7) / dw + 1)
      (p.1, if (range lo (hi - lo)).any elemBad then 2 else 0))

/-- Whether what has landed of a higher row covers an address (R146: the higher-numbered row's value remains). -/
def coveredAbove (j : Job) (x : Shape) (r a : Nat) : Bool :=
  let from_ := fun (q : Nat) => rowAddr x (q / 2 ^ 20) + (lineSlice (rowAddr x (q / 2 ^ 20)) x.n (q % 2 ^ 20)).1
  let size := fun (q : Nat) => (lineSlice (rowAddr x (q / 2 ^ 20)) x.n (q % 2 ^ 20)).2
  (j.partsDone.any fun q => r < q / 2 ^ 20 && from_ q ≤ a && a < from_ q + size q) ||
    j.landed.any fun p => r < p.1 / 2 ^ 20 && p.2.1.any fun i =>
      let w := wordSlice (from_ p.1) (size p.1) i
      from_ p.1 + w.1 ≤ a && a < from_ p.1 + w.1 + w.2

/-- Writes the bytes of one part in an 8-byte word. The word is written whole, with what a higher row has written of it, poison too,
where that stands there already (R146). -/
def landBytes (s : State) (j : Job) (x : Shape) (r va : Nat) (bs : List (Byte × Nat)) : State :=
  let above := fun (i : Nat) => coveredAbove j x r (va + i)
  let is := range 0 bs.length
  if !is.any above then writeFor s j va bs
  else if is.all above then s
  else
    let s := writeFor s j va ((bs.zipIdx).map fun p =>
      if above p.2 then ((payloadAt s j va).elim p.1 fun a => (truthByte s (a + p.2), 0)) else p.1)
    if j.spoilt.contains (va / 8) then poisonFor s j (va / 8 * 8) 8 else s

/-- The bytes of part i of row r as its source gives them now, where that has come; of a receipt, its own. -/
def partBytes (s : State) (j : Job) (x : Shape) (r : Nat) (sl : Nat × Nat) : Option (State × List (Byte × Nat)) :=
  if cardKind j.card = 5 then some (s, (sliceBytes j.data sl.1 sl.2).map fun b => (b, 0))
  else
  match j.conv with
  | some v =>
    let src := rowAddr { base := cardSrc j.card, stride := cardSstr j.card, n := 0, rows := 0 } r
    (convertRow s j v r).map fun (bs : List (Byte × Nat)) => (touchFor s j src (cardRowb j.card), (bs.drop sl.1).take sl.2)
  | none =>
    let src := (rowAddr { x with base := cardSrc j.card, stride := cardSstr j.card } r + sl.1) % 2 ^ 80
    (readFor s j src sl.2).map fun bs => (touchFor s j src sl.2, bs)

/-- What part q of a pull, copy or pull-add reads: address and length. -/
def partSource (j : Job) (q : Nat) : Nat × Nat :=
  let x := partRows j
  let r := q / 2 ^ 20
  if cardKind j.card = 2 then
    let sl := lineSlice (rowAddr x r) x.n (q % 2 ^ 20)
    ((rowAddr x r + sl.1) % 2 ^ 80, sl.2)
  else
    let src := rowAddr { x with base := cardSrc j.card, stride := cardSstr j.card } r
    match j.conv with
    | some _ => (src, cardRowb j.card)
    | none =>
      let sl := lineSlice (rowAddr x r) x.n (q % 2 ^ 20)
      ((src + sl.1) % 2 ^ 80, sl.2)

/-- The words read before that do not lie in what a part reads. -/
def Job.aheadBut (j : Job) (src : Nat × Nat) : Assoc (List (Byte × Nat)) := j.ahead.filter fun w => !overlap (w.1 * 8) 8 src.1 src.2

/-- Of part q of a pull or copy, or of a receipt, the 8-byte words the event names, or all that are left (06 R118, R131): each is read
and written by itself. The part has landed, and the barrier object is decremented, with the last of them. -/
def landPart (s : State) (j : Job) (q : Nat) : Option (State × Job) :=
  let x := partRows j
  let r := q / 2 ^ 20
  let d := rowAddr x r
  let sl := lineSlice d x.n (q % 2 ^ 20)
  let a := (d + sl.1) % 2 ^ 80
  let old := j.landed.get ([], false) q
  let all := range 0 ((a % 8 + sl.2 + 7) / 8)
  let now := all.filter fun i => !old.1.contains i && (s.ev.nats.isEmpty || s.ev.nats.contains i)
  (partBytes s j x r sl).map fun b =>
    let put := fun (s : State) (i : Nat) =>
      let w := wordSlice a sl.2 i
      landBytes s j x r ((a + w.1) % 2 ^ 80) ((b.2.drop w.1).take w.2)
    let fails := now.any fun i => ((b.2.drop (wordSlice a sl.2 i).1).take (wordSlice a sl.2 i).2).any fun y => y.2 == 2
    let spoilt := old.2 || fails
    let s := now.foldl put b.1
    let s := if spoilt then poisonFor s j (a / 64 * 64) 64 else s
    let done := old.1 ++ now
    let marked := now.filter fun i => ((b.2.drop (wordSlice a sl.2 i).1).take (wordSlice a sl.2 i).2).any fun y => y.2 != 0
    let j := { j with spoilt := j.spoilt ++ marked.map fun i => a / 8 + i }
    if all.all done.contains then
      (decrement s j sl.2, { j with partsDone := j.partsDone ++ [q], landed := j.landed.drop q, ahead := j.aheadBut (partSource j q) })
    else (s, { j with landed := j.landed.put q (done, spoilt) })

/-- Adds elements into one row of an accumulator (R147), from a column on. -/
def addRow (s : State) (n k row col : Nat) (xs : List (Option Nat)) : State :=
  let f := fun (old : Assoc (BitVec 32)) => ((xs.zipIdx col).foldl (fun (p : Assoc (BitVec 32) × Nat) x =>
    let at_ := row * 64 + x.2
    match x.1 with
    | some v => (p.1.put at_ (BitVec.ofNat 32 (addFp32 (p.1.get 0 at_).toNat (fp32.decode v))), p.2)
    | none => (p.1.put at_ (Config.freeElement (s.serial + p.2)), p.2 + 1)) (old, 0)).1
  let t := s.tile n
  let acc := t.accum k
  let new := f acc.data
  let sh : Assoc (BitVec 32) := if (t.shadowOf k).isEmpty then [] else
    (f ((range 0 4096).filterMap fun i =>
      let v := (t.shadowOf k).get (acc.data.get 0 i) i
      if v = 0 then none else some (i, v))).filter fun p => p.2 != new.get 0 p.1
  let s := s.updTile n fun t => { t.setAccum k { acc with data := new, poison := acc.poison || xs.contains none } with
    shadow := if sh.isEmpty then t.shadow.drop k else t.shadow.put k { data := sh } }
  { s with serial := s.serial + xs.length }

/-- One part of a pull-add: the elements that begin in one source line of a row (R147). -/
def addPart (s : State) (c : Nat) (j : Job) (q : Nat) : Option State :=
  let x := partRows j
  let r := q / 2 ^ 20
  let a := rowAddr x r
  let sl := lineSlice a x.n (q % 2 ^ 20)
  let sel := cardSel j.card
  let es := if fld sel 10 1 = 1 then 2 else 4
  let e0 := (sl.1 + es - 1) / es
  let e1 := (sl.1 + sl.2 + es - 1) / es
  (readFor s j ((a + e0 * es) % 2 ^ 80) ((e1 - e0) * es)).map fun bs =>
    let s := touchFor s j ((a + e0 * es) % 2 ^ 80) ((e1 - e0) * es)
    let elems := (range 0 (e1 - e0)).map fun i =>
      let b := (bs.drop (i * es)).take es
      if b.any fun y => y.2 != 0 then none else some (natOfBytes (b.map (·.1)) * (if es = 2 then 65536 else 1))
    decrement (addRow s (c * 6 + fld sel 11 3) (sel % 16) (fld sel 4 6 + r) e0 elems) j sl.2

/-! ### Signals (R148, R112) -/

/-- The job's last acts: the sequence word raised as a release, then the completion word, and in that step the keys
return and `cp` falls (R148, 01 R19). -/
def signalJob (s : State) (c : Nat) (j : Job) : State :=
  let s :=
    if cardFlag j.card 3 && j.kind == .card && cardKind j.card != 4 then
      let s := if cardScope j.card = 4 then writeBackStash s c else s
      match wordAt s j (cardSig j.card) with
      | none => lostWrite s j (cardSig j.card)
      | some a =>
        if !truthBad s a 8 && (truthWord s a).toNat < (cardV j.card).toNat then
          writeWord s j (cardSig j.card) (cardV j.card) else s
    else s
  let s := if cardFlag j.card 2 && j.kind == .card then writeWord s j (cardCpl j.card) (cardV j.card) else s
  let s := returnKeys s c j.engine j.loans
  let s := settleQueues (dropJob s c j.id)
  match j.graph with
  | some (g, n) => nodeDone s g n ((((s.graphs.find? g).bind fun x => x.nodes[n]?).map (·.succs)).getD [])
  | none => updOwner s j.tid j.task fun t => { t with cp := t.cp - 1, hold := if t.hold = some .idle then some .done else t.hold }

/-! ### Media decoders (R155–R157) -/

/-- Bytes of one output element. -/
def mediaElem (c : List Byte) : Nat := if natAt c 5 1 = 2 ∨ natAt c 5 1 = 3 then 2 else 1

/-- Bytes of the tensor up to and with frame f. -/
def mediaEnd (c : List Byte) (f w h : Nat) : Nat :=
  mediaElem c *
    if natAt c 6 1 = 0 then (f + 1) * 3 * h * w
    else
      let p := natAt c 7 1
      let t := natAt c 8 1
      (f / t + 1) * ((h + p - 1) / p) * ((w + p - 1) / p) * 3 * t * p * p

/-- Element offset of a sample (R157). -/
def mediaOffset (c : List Byte) (w h f plane y x : Nat) : Nat :=
  if natAt c 6 1 = 0 then ((f * 3 + plane) * h + y) * w + x
  else
    let p := natAt c 7 1
    let t := natAt c 8 1
    let hp := (h + p - 1) / p
    let wp := (w + p - 1) / p
    let patch := ((f / t) * hp + y / p) * wp + x / p
    patch * 3 * t * p * p + ((f % t * 3 + plane) * p + y % p) * p + x % p

/-- A sample of bit depth b as an output element (R157). -/
def mediaValue (fmt b y : Nat) : Nat :=
  let u8 := min 255 (roundAt false y 0 false ((b : Int) - 8) .even).1
  match fmt with
  | 0x0C => u8
  | 0x0B => (BitVec.ofInt 8 ((u8 : Int) - 128)).toNat
  | 2 => (fp16.finish .even false (divVal 11 (.ofInt y) (.ofInt (2 ^ b - 1))).1).1
  | _ => (bf16.finish .even false (divVal 8 (.ofInt y) (.ofInt (2 ^ b - 1))).1).1

/-- A frame's sample, chroma replicated to luma resolution. -/
def mediaSampleAt (codec : Nat) (data : List Byte) (b f plane y x : Nat) : Nat :=
  if plane = 0 then Config.mediaSample codec data f 0 y x % 2 ^ b
  else if Config.mediaMono codec data then 2 ^ (b - 1)
  else Config.mediaSample codec data f plane (y / 2) (x / 2) % 2 ^ b

/-- Whether frame f lies inside the tensor's footprint entry. -/
def mediaFits (c : List Byte) (f w h : Nat) : Bool :=
  (cardEntry c 4).1 ≤ cardDst c && cardDst c + mediaEnd c f w h ≤ (cardEntry c 4).1 + (cardEntry c 4).2 * 4096

/-- Writes marked bytes at a virtual address for a job, line by line. -/
def writeSpan (s : State) (j : Job) : Nat → Nat → List (Byte × Nat) → State
  | 0, _, _ => s
  | fuel + 1, va, bs =>
    if bs.isEmpty then s
    else
      let n := 64 - va % 64
      writeSpan (writeFor s j va (bs.take n)) j fuel ((va + n) % 2 ^ 80) (bs.drop n)

def putMarked (s : State) (j : Job) (va : Nat) (bs : List (Byte × Nat)) : State := writeSpan s j (bs.length / 64 + 2) va bs
def putSpan (s : State) (j : Job) (va : Nat) (bs : List Byte) : State := putMarked s j va (bs.map fun b => (b, 0))

/-- The 8-byte words of memory that an engine's step writes now (06 R118, R131): the one the event names, or all that have not
landed. -/
def wordsNow (landed : List Nat) (named : Nat) : Option (Nat → Bool) :=
  if named ≠ 0 then some fun w => w + 1 == named && !landed.contains w
  else if landed.isEmpty then none
  else some fun w => !landed.contains w

/-- The pieces of n bytes at an address that lie in the words written now: offset and length. -/
def keptPieces (keep : Option (Nat → Bool)) (va n : Nat) : List (Nat × Nat) :=
  match keep with
  | none => [(0, n)]
  | some k => ((range 0 ((va % 8 + n + 7) / 8)).filter fun i => k (va / 8 + i)).map fun i => wordSlice va n i

/-- Writes marked bytes in the words written now. -/
def putKept (keep : Option (Nat → Bool)) (s : State) (j : Job) (va : Nat) (bs : List (Byte × Nat)) : State :=
  (keptPieces keep va bs.length).foldl (fun s w => putMarked s j ((va + w.1) % 2 ^ 80) ((bs.drop w.1).take w.2)) s

/-- Writes the words of one frame that land now: the zero positions of its patches first, then its samples; with the last
the reference area takes what the decoder keeps there. -/
def mediaWrite (keep : Option (Nat → Bool)) (last : Bool) (s : State) (j : Job) (f w h b : Nat) : State :=
  let c := j.card
  let codec := natAt c 4 1
  let es := mediaElem c
  let put := fun (s : State) (va : Nat) (bs : List Byte) => putKept keep s j va (bs.map fun b => (b, 0))
  let s :=
    if natAt c 6 1 = 1 ∧ f % natAt c 8 1 = 0 then
      let hi := mediaEnd c f w h
      let lo := if f = 0 then 0 else mediaEnd c (f - 1) w h
      put s (cardDst c + lo) (List.replicate (hi - lo) 0)
    else s
  let s := (range 0 3).foldl (fun s plane => (range 0 h).foldl (fun s y => (range 0 w).foldl (fun s x =>
    put s (cardDst c + es * mediaOffset c w h f plane y x)
      (bytesOfNat es (mediaValue (natAt c 5 1) b (mediaSampleAt codec j.data b f plane y x)))) s) s) s
  let area := (cardEntry c 5).1 + (cardEntry c 5).2 * 4096
  if !last then s
  else (Config.mediaReference s.serial).foldl (fun s p =>
    let a := mediaRef c + p.1
    if a < area && (cardEntry c 5).1 ≤ a && !(cardSig c ≤ a && a < cardSig c + 64) then putSpan s j a [p.2] else s) s.bump

/-- A stream as a decoder finds it (R155). -/
structure Media where
  w : Nat
  h : Nat
  /-- Bit depth. -/
  b : Nat
  /-- Frames before the end or the first error, and whether an error ends them. -/
  frames : Nat
  fails : Bool
  supported : Bool
  deriving DecidableEq, Repr

/-- The stream of a media card: supported up to 8,192 × 4,352 at 8 bits, and but for H.264 at 10 (R155). -/
def mediaStream (j : Job) : Media :=
  let codec := natAt j.card 4 1
  let i := Config.mediaInfo codec j.data
  { w := i.1, h := i.2.1, b := i.2.2.1, frames := i.2.2.2.1, fails := i.2.2.2.2
    supported := Config.mediaSupported codec j.data && i.1 ≤ 8192 && i.2.1 ≤ 4352 && (i.2.2.1 == 8 || (i.2.2.1 == 10 && codec != 1)) }

/-- Whether a decoder has a frame to write. -/
def mediaMore (j : Job) : Bool :=
  let i := mediaStream j
  j.status == 0 && i.supported && j.steps < natAt j.card 10 2 && j.steps < i.frames && mediaFits j.card j.steps i.w i.h

/-- The status record (R156). -/
def mediaRecord (j : Job) : List Byte :=
  let i := mediaStream j
  let st := if j.status ≠ 0 then j.status
    else if !i.supported then 2
    else if natAt j.card 10 2 ≤ j.steps then 0
    else if i.frames ≤ j.steps then (if i.fails then 1 else 0) else 3
  bytesOfNat 8 j.steps ++ bytesOfNat 4 i.w ++ bytesOfNat 4 i.h ++ bytesOfNat 4 st ++
    bytesOfNat 4 (if st = 0 then 0 else j.steps) ++ List.replicate 40 0

/-! ### Lodging (05 R114, R115) -/

/-- Whether an entry of a cluster sets tier-two space aside for lodging: its supervisor holds it (01 R16; every such entry in tier two:
log entry 111), or has lent it to a lodged copy that runs. -/
def lodgeEntry (cl : Cluster) (e : Nat × KeyEntry) : Bool :=
  e.2.holder == keySup || cl.jobs.any fun j => match j.kind with | .lodgeCopy _ _ => j.loans.contains e.1 | _ => false

/-- The tier-two ranges of a cluster set aside for lodging, in bytes: of every entry of holder 0xF0 in tier two (DESIGN CHOICE: log entry
111). -/
def lodgeRanges (s : State) (c : Nat) : List (Nat × Nat) :=
  (s.cluster c).keys.filterMap fun e =>
    match spaceOf (e.2.base * 4096) with
    | .tier2 _ o => if lodgeEntry (s.cluster c) e ∧ o + e.2.len * 4096 ≤ tier2Size s then some (e.2.base * 4096, e.2.len * 4096) else none
    | _ => none

/-- Free bytes set aside for lodging. -/
def lodgeFree (s : State) (c : Nat) : Nat :=
  ((lodgeRanges s c).map (·.2)).sum - ((s.cluster c).lodged.map (·.2)).sum

/-- A free run of n bytes set aside for lodging: the first (log entry 111). -/
def lodgePlace (s : State) (c n : Nat) : Option Nat :=
  let taken := (s.cluster c).lodged
  let starts := (lodgeRanges s c).flatMap fun r =>
    (r.1 :: (taken.map fun t => t.1 + t.2)).filter fun a => r.1 ≤ a && a + n ≤ r.1 + r.2
  starts.find? fun a => taken.all fun t => !overlap a n t.1 t.2

/-- The neighbour with the most free tier two, the lowest endpoint of equals. -/
def lodgeNeighbour (s : State) (c dist : Nat) : Option Nat :=
  ((range 0 64).filter fun d => d != c && (dist != 0 || dieOf d == dieOf c)).foldl (fun best d =>
    match best with
    | none => if lodgeFree s d = 0 then none else some d
    | some b => if lodgeFree s b < lodgeFree s d then some d else some b) none

/-- A receipt (R114). -/
def receipt (copy word : Nat) (v : Word) (neighbour status handle : Nat) : List Byte :=
  bytesOfNat 8 copy ++ bytesOfNat 8 word ++ bytesOfNat 8 v.toNat ++ bytesOfNat 3 neighbour ++ bytesOfNat 1 status ++
    bytesOfNat 2 handle ++ [0, 0]

/-- The lowest lodging handle not in use. -/
def freeHandle (cl : Cluster) : Nat := ((range 0 65536).find? fun h => (cl.lodgings.find? h).isNone).getD 0

/-- Narlor hops to a module: one to the far end of a port that is up (20 R358). -/
def hopsTo (s : State) (m : Nat) : Nat :=
  if s.ports.toList.any fun p => p.state == .up && !p.sw && p.peer == m then 1 else max 2 (Config.hops m)

/-- The neighbour in another module that the event names, where it lies within the card's distance and can be reached; the event
brings its part of the receipt. -/
def farNeighbour (s : State) (j : Job) : Option Nat :=
  let m := epModule s.ev.c
  if 2 ≤ natAt j.card 12 1 ∧ 24 ≤ s.ev.bytes.length ∧ s.ev.c < 2 ^ 24 ∧ (epUnit s.ev.c = 0x40 ∨ epUnit s.ev.c = 0x41) ∧ m ≠ s.regs.modnum ∧
      ¬ unreachable s m ∧ hopsTo s m + 1 ≤ natAt j.card 12 1 then some s.ev.c
  else none

/-- The entries of a neighbour that its supervisor lends for a copy, and their loan; those lent to a copy already stay so. -/
def lendLodge (s : State) (d a n : Nat) : State × List Nat :=
  let ks := ((s.cluster d).keys.filter fun e => lodgeEntry (s.cluster d) e && overlap (e.2.base * 4096) (e.2.len * 4096) a n).map (·.1)
  ((lendKeys s d keySup 0xA0 (range (unitOf a) (n / 4096))).1, ks)

/-- Decides a lodge card: the receipt that its parts write, and in this module the start of the neighbour's copy, which engine 0 of the
neighbour makes (log entry 111). A neighbour in another module gives its part of the receipt with the event. -/
def decideLodge (s : State) (c : Nat) (j : Job) : State :=
  let len := lodgeLen j.card
  let own := (cardSource j.card).all fun x => x.units.all fun u =>
    match walkAs s j.cluster j.phys j.slot u.2 with
    | some l => placeOf s c l.pa == .own
    | none => false
  let h := freeHandle (s.cluster c)
  let answer := fun (s : State) (bs : List Byte) => setJob s c { j with data := bs }
  let fail := fun (st : Nat) => answer s (receipt 0 0 0 0 st 0)
  let enter := fun (lg : Lodging) => s.updCluster c fun cl => { cl with lodgings := cl.lodgings.put h lg }
  let accepted := fun (lg : Lodging) => receipt lg.copyBase lg.word lg.value lg.neighbour 0 h
  if !own then fail 2
  else
    match farNeighbour s j with
    | some ep =>
      let lg : Lodging := { copyBase := natAt s.ev.bytes 0 8, neighbour := ep, word := natAt s.ev.bytes 8 8
                            value := BitVec.ofNat 64 (natAt s.ev.bytes 16 8), len := len, src := cardSrc j.card, job := j.slot }
      answer (enter lg) (accepted lg)
    | none =>
      match lodgeNeighbour s c (natAt j.card 12 1) with
      | none => fail 1
      | some d =>
        match lodgePlace s d (len + 4096) with
        | none => fail 1
        | some a =>
          let word := a + len
          let lg : Lodging := { copyBase := s.gpa a, neighbour := endpointOf s d 0x40, word := s.gpa word, value := truthWord s word + 1
                                len := len, src := cardSrc j.card, job := j.slot }
          let s := (enter lg).updCluster d fun cl => { cl with lodged := cl.lodged ++ [(a, len + 4096)] }
          let r := lendLodge s d a (len + 4096)
          let k : Job := { id := s.serial, serial := s.serial, kind := .lodgeCopy c h, tid := j.tid, task := none, engine := 0xA0, cluster := d
                           card := j.card, slot := j.slot, asid := j.asid, phys := j.phys, loans := r.2, started := true }
          answer (r.1.updCluster d fun cl => { cl with jobs := cl.jobs ++ [k] }).bump (accepted lg)

/-- A copy of a lodged region ends: keys that no other copy of the neighbour needs return (01 R19). -/
def endCopy (s : State) (d : Nat) (j : Job) : State :=
  let s := dropJob s d j.id
  let kept := (s.cluster d).jobs.flatMap fun x => match x.kind with | .lodgeCopy _ _ => x.loans | _ => []
  returnKeys s d j.engine (j.loans.filter fun k => !kept.contains k)

/-- One 64-byte line of a lodged copy, whole (R115). -/
def lodgeLine (s : State) (j : Job) (owner handle i : Nat) : State :=
  match (s.cluster owner).lodgings.find? handle with
  | none => s
  | some lg =>
    match readFor s j (lg.src + 64 * i) 64 with
    | none => s
    | some bs =>
      let a := localOf lg.copyBase + 64 * i
      let s := truthWrite (touchFor s j (lg.src + 64 * i) 64) physAsid 0 a (bs.map (·.1))
      if bs.any fun b => b.2 != 0 then truthPoisonWrite s a 64 else s

/-- Ends a lodging: its space is free again and a copy still running stops. -/
def endLodging (s : State) (c handle : Nat) : State :=
  match (s.cluster c).lodgings.find? handle with
  | none => s
  | some lg =>
    let s := s.updCluster c fun cl => { cl with lodgings := cl.lodgings.drop handle }
    if moduleOf lg.copyBase = s.regs.modnum then
      match (spaceOf (localOf lg.copyBase)).cluster? with
      | some d =>
        let js := (s.cluster d).jobs.filter fun j => j.kind == .lodgeCopy c handle
        let s := js.foldl (fun s j => endCopy s d j) s
        s.updCluster d fun cl => { cl with lodged := cl.lodged.filter fun x => x.1 != localOf lg.copyBase }
      | none => s
    else s

/-! ### Events -/

/-- `ENGINE_JOB_START` (06 R130): job b of cluster a starts, where nothing it must follow is left; a decoder reads its
bitstream. -/
def execEngineJobStart (s : State) : Result :=
  match jobAt s s.ev.a s.ev.b with
  | none => .next s
  | some j =>
    if !mayStart s s.ev.a j then .next s
    else if j.kind == .card && cardKind j.card == 4 then
      let s := askLines s j 0 (cardSrc j.card) (mediaLen j.card)
      let j := (jobAt s s.ev.a j.id).getD j
      match readFor s j (cardSrc j.card) (mediaLen j.card) with
      | none => .next s
      | some bs =>
        .next (setJob (touchFor s j (cardSrc j.card) (mediaLen j.card)) s.ev.a
          { j with started := true, ahead := [], data := bs.map (·.1), status := if bs.any fun b => b.2 != 0 then 1 else 0 })
    else .next (setJob s s.ev.a { j with started := true })

/-- Performs one part of a pull, copy or pull-add, or of a receipt, before which its lodging is decided: none where its data has not
come. -/
def bulkPart (s : State) (c : Nat) (j : Job) (q : Nat) : Option State :=
  if cardKind j.card = 2 then
    (addPart s c j q).map fun s => setJob s c { j with partsDone := j.partsDone ++ [q], ahead := j.aheadBut (partSource j q) }
  else
    let s := if cardKind j.card = 5 ∧ j.data = [] then decideLodge s c j else s
    (landPart s ((jobAt s c j.id).getD j) q).map fun r => setJob r.1 c r.2

/-- Words of what part q of a card's job reads, or of a decoder's bitstream before it starts, are read by themselves, those the event
names: the i-th of them by 64 + i (06 R118, R131). Those of another module come with their part. -/
def readAhead (s : State) (c : Nat) (j : Job) (q : Nat) : State :=
  let k := cardKind j.card
  let may := j.kind == .card && ((k == 4 && mayStart s c j) || (k ≤ 3 && j.started && (bulkParts j).contains q && !j.partsDone.contains q))
  let src := if k = 4 then (cardSrc j.card, mediaLen j.card) else partSource j q
  let words := (s.ev.nats.filter fun i => may && 64 ≤ i && 8 * (i - 64) < src.1 % 8 + src.2).map fun i => (src.1 / 8 + i - 64) % 2 ^ 77
  words.foldl (fun s w =>
    let j := (jobAt s c j.id).getD j
    match engineRead s j none false 2 (8 * w) 8 0 with
    | some bs => if (j.ahead.find? w).isSome then s else setJob (touchFor s j (8 * w) 8) c { j with ahead := j.ahead.put w bs }
    | none => s) s

/-- Performs every part left of a bulk job in order: none where data of one has not come. -/
def bulkRest (s : State) (c id : Nat) : List Nat → Option State
  | [] => some s
  | q :: r =>
    match jobAt s c id with
    | none => some s
    | some j => if j.partsDone.contains q then bulkRest s c id r else (bulkPart s c j q).bind fun s => bulkRest s c id r

/-- Whether a card's payload lands in parts: a pull, copy, pull-add or receipt. -/
def isBulk (j : Job) : Bool := j.kind == .card && (cardKind j.card ≤ 3 || cardKind j.card == 5)

/-- The completion of a card's job (R148), where its payload is complete or can be completed now. -/
def completeCard (s : State) (c : Nat) (j : Job) : Option State :=
  if isBulk j then
    (bulkRest { s with ev := { s.ev with bytes := if cardKind j.card = 5 then s.ev.bytes else [], nats := [] } } c j.id (bulkParts j)).map fun s => signalJob s c ((jobAt s c j.id).getD j)
  else
    match cardKind j.card with
    | 4 => if mediaMore j then none else some (signalJob (putSpan s j (cardSig j.card) (mediaRecord j)) c j)
    | _ => some (signalJob (endLodging s c (natAt j.card 4 2)) c j)

/-- `MEDIA_FRAME` (R156, R157): job b of cluster a writes the next frame, or with c of it the 8-byte word c − 1 of memory (06 R131). -/
def execMediaFrame (s : State) : Result :=
  match jobAt s s.ev.a s.ev.b with
  | none => .next s
  | some j =>
    if j.kind == .card && cardKind j.card == 4 && j.started && mediaMore j then
      let i := mediaStream j
      let keep := wordsNow j.partsDone s.ev.c
      if s.ev.c ≠ 0 then .next (setJob (mediaWrite keep false s j j.steps i.w i.h i.b) s.ev.a { j with partsDone := j.partsDone ++ [s.ev.c - 1] })
      else .next (setJob ((mediaWrite keep true s j j.steps i.w i.h i.b).count 1034 1) s.ev.a { j with steps := j.steps + 1, partsDone := [] })
    else .next s

/-- `LODGING_COPY_COMPLETION` (05 R114): the copy job b of cluster a copies the lines left and advances its word. -/
def execLodgingCopyCompletion (s : State) : Result :=
  match jobAt s s.ev.a s.ev.b with
  | none => .next s
  | some j =>
    match j.kind with
    | .lodgeCopy owner handle =>
      let lines := (range 0 (lodgeLen j.card / 64)).filter fun i => !j.partsDone.contains i
      let s := lines.foldl (fun s i => lodgeLine s j owner handle i) s
      match (s.cluster owner).lodgings.find? handle with
      | some lg =>
        let s := truthWrite s physAsid 0 (localOf lg.word) (bytesOfNat 8 lg.value.toNat)
        let s := s.updCluster owner fun cl => { cl with lodgings := cl.lodgings.put handle { lg with complete := true } }
        .next (endCopy s s.ev.a j)
      | none => .next (endCopy s s.ev.a j)
    | _ => .next s

end Sys2Proof.Machine
end

