-- ==== Sys2Proof/Machine/Sketches.lean ====
section
/-!
DEFINITION. Count sketches (07 R159–R164, 12 R270): the descriptor, hashes, the instructions' checks, and the parts of a
sketch job.
-/
namespace Sys2Proof.Machine

/-! ### Descriptors and hashes (R159, R160) -/

def skMix (x : Word) : Word :=
  let x := x ^^^ (x >>> 30)
  let x := x * 0x8F3A61C5D27B49E3#64
  let x := x ^^^ (x >>> 27)
  let x := x * 0x5B2EC9173A6DF0C5#64
  x ^^^ (x >>> 31)

def skStep : Word := 0x7C159E3DA4B26F81

/-- The multipliers a seed expands to: a_i and c_i. -/
def skSeed (seed : Word) (d : Nat) : List Word × List Word :=
  ((range 0 d).map fun i => skMix (seed + BitVec.ofNat 64 (2 * i + 1) * skStep) ||| 1,
   (range 0 d).map fun i => skMix (seed + BitVec.ofNat 64 (2 * i + 2) * skStep) ||| 1)

def geometryOk (d logw : Nat) : Bool := (d == 3 || d == 5 || d == 7) && 4 ≤ logw && logw ≤ 28

/-- The sketch a descriptor describes, where its version and geometry are those of R159. -/
def sketchOf (base : Nat) (bs : List Byte) : Option Sketch :=
  let d := natAt bs 1 1
  if natAt bs 0 1 = 1 ∧ geometryOk d (natAt bs 2 1) then
    some { base := base, d := d, logw := natAt bs 2 1, e := sextNat (natAt bs 4 2) 16, flags := BitVec.ofNat 8 (natAt bs 3 1)
           mulA := (range 0 d).map fun i => BitVec.ofNat 64 (natAt bs (8 + 8 * i) 8)
           mulC := (range 0 d).map fun i => BitVec.ofNat 64 (natAt bs (64 + 8 * i) 8) }
  else none

/-- The 128 bytes of a fresh descriptor. -/
def descriptor (d logw : Nat) (e : Nat) (a c : List Word) : List Byte :=
  let words := fun (l : List Word) => sliceBytes (l.flatMap fun w => bytesOfNat 8 w.toNat) 0 56
  [1, BitVec.ofNat 8 d, BitVec.ofNat 8 logw, 0] ++ bytesOfNat 2 e ++ [0, 0] ++ words a ++ words c ++ List.replicate 8 0

def Sketch.width (k : Sketch) : Nat := 2 ^ k.logw
/-- Bytes a sketch occupies. -/
def Sketch.bytes (k : Sketch) : Nat := 128 + 4 * k.d * k.width
/-- h_i(k) and whether s_i(k) is −1 (R160). -/
def Sketch.hash (k : Sketch) (i : Nat) (x : Word) : Nat := (((k.mulA[i]?).getD 0 * x).toNat / 2 ^ (64 - k.logw))
def Sketch.minus (k : Sketch) (i : Nat) (x : Word) : Bool := ((k.mulC[i]?).getD 0 * x).getLsbD 63
/-- The address of counter j of row i. -/
def Sketch.counter (k : Sketch) (i j : Nat) : Nat := (k.base + 128 + 4 * (i * k.width + j)) % 2 ^ 80

/-! ### Checks (R270) -/

/-- The two lines of a descriptor. -/
def descriptorAt (s : State) (va : Addr) : Except Trap (List Elem) :=
  match loadAt s va 64 64, loadAt s (va + 64) 64 64 with
  | .ok a, .ok b => .ok [a, b]
  | .error t, _ | _, .error t => .error t

/-- Whether an `SKINIT` of the thread on a base has not been performed: its later members wait for it (R164). -/
def initPending (s : State) (base : Nat) : Bool :=
  (s.cluster (clusterOf s.tid)).jobs.any fun j => j.tid == s.tid && j.graph.isNone &&
    match j.kind with | .sketch k (.init _) => k.base == base | _ => false

/-- Reads the descriptor at issue, as one read (log entry 131), translated as the instruction begins (u), and makes the check of
R159. -/
def State.readSketch (s u : State) (hold : Bool) (va : Addr) (k : State → Sketch → Result) : Result :=
  if !aligned va 128 then s.trap { code := 0x03, fva := va }
  else
    s.checked (descriptorAt u va) fun es =>
      s.access false (if initPending s va.toNat then s.stall else
        s.awaitRead hold true .strong va es fun s es =>
          match es.find? (·.poison) with
          | some _ => s.trap { code := 0x16, fva := va }
          | none =>
            match sketchOf va.toNat (es.flatMap (·.bytes)) with
            | none => s.trap { code := 0x17 }
            | some x => k s x)

/-- The checks of a writing member on one unit of the extent: translation, own HBM slice, key. -/
def extentUnit (s : State) (va : Nat) : Option Nat :=
  match translate s s.tid (BitVec.ofNat 80 va) .write with
  | .error c => some c
  | .ok l =>
    match placeOf s (clusterOf s.tid) l.pa, spaceOf (localOf l.pa) with
    | .own, .hbm _ _ => if threadMayStore s s.tid (localOf l.pa) 1 then none else some 0x07
    | _, _ => some 0x06

def Sketch.shape (k : Sketch) : Shape := { base := k.base, stride := 0, n := k.bytes, rows := 1 }

/-- The first unit of a sketch's extent that fails a check (R270, 08 R188). -/
def extentFault (s : State) (k : Sketch) : Option Trap := firstFault (k.shape.units.map (·.2)) (extentUnit s)

/-- Issues a writing member as an engine job of the sketch unit (R164, R270), translated as it begins (u). -/
def State.sketchJob (s u : State) (k : Sketch) (op : SkOp) (reads : List Nat) (f : State → State) (d : Thread → Thread) : Result :=
  match extentFault u k with
  | some t => s.trap t
  | none =>
    s.access true (
      if s.th.cp ≥ 63 ∨ Config.jobPlaces ≤ (s.cluster (clusterOf s.tid)).jobs.length then s.stall
      else
        let p := threadParty s
        let us := vaUnits u p (k.shape.units.map (·.2))
        let j : Job := { id := 0, kind := .sketch k op, tid := p.tid, engine := 0xA3, reads := vaUnits u p reads, writes := us }
        (f (enterJob s p j us [])).retire 4 fun t => { d t.dropKept with cp := t.cp + 1 })

/-! ### The instructions (R270) -/

/-- `SKINIT` with given multipliers. -/
def State.skinit (s u : State) (va : Addr) (sg : Word) (a c : List Word) : Result :=
  let d := field sg 0 8
  let logw := field sg 8 8
  let k : Sketch := { base := va.toNat, d := d, logw := logw, e := sextNat (field sg 16 16) 16, mulA := a, mulC := c }
  s.sketchJob u k (.init (descriptor d logw (field sg 16 16) a c)) [] id id

/-- The geometry word's check. -/
def geometryWordOk (sg : Word) : Bool := field sg 32 32 == 0 && geometryOk (field sg 0 8) (field sg 8 8)

/-- `SKINIT` (R160). -/
def execSkinit (a : AReg) (sg ss : SReg) (s : State) : Result :=
  let va := s.th.ra a
  let g := s.th.rs sg
  if !geometryWordOk g then s.illegal
  else if !aligned va 128 then s.trap { code := 0x03, fva := va }
  else
    let m := skSeed (s.th.rs ss) (field g 0 8)
    s.skinit s va g m.1 m.2

/-- `SKINIT.TAB` (R160): the table is read strong at issue. -/
def execSkinitTab (a b : AReg) (sg : SReg) (s : State) : Result :=
  let va := s.th.ra a
  let tab := s.th.ra b
  let g := s.th.rs sg
  let d := field g 0 8
  let u := s
  if !geometryWordOk g then s.illegal
  else if !aligned va 128 then s.trap { code := 0x03, fva := va }
  else if !aligned tab 8 then s.trap { code := 0x03, fva := tab }
  else
    let parts := (range 0 (2 * d)).map fun i => loadAt s (tab + BitVec.ofNat 80 (8 * i)) 8 8
    s.checked (parts.foldr (fun x r => match x, r with
        | .error t, _ => .error t
        | .ok _, .error t => .error t
        | .ok e, .ok es => .ok (e :: es)) (.ok [] : Except Trap (List Elem))) fun es =>
      s.access false (s.awaitRead false true .strong tab es fun s es =>
        if es.any (·.poison) then s.trap { code := 0x16, fva := tab }
        else
          let ws := es.map fun e => BitVec.ofNat 64 (natOfBytes e.bytes)
          s.skinit u va g (ws.take d) (ws.drop d))

/-- `SKUPD` (R161). -/
def execSkupd (f64 : Bool) (a : AReg) (sk sv : SReg) (s : State) : Result :=
  let key := s.th.rs sk
  let v := s.th.rs sv
  let u := s
  s.readSketch u false (s.th.ra a) fun s k => s.sketchJob u k (.update f64 [(key, if f64 then v else v &&& 0xFFFFFFFF)]) [] id id

/-- Lane i of width w of a vector, as a word. -/
def laneWord (v : Vec) (w i : Nat) : Word := BitVec.ofNat 64 (v.toNat / 2 ^ (w * i) % 2 ^ w)

/-- `SKUPD.V` (R161): eight pairs in ascending lane order. -/
def execSkupdV (f64 : Bool) (a : AReg) (vk vv : VReg) (s : State) : Result :=
  let ks := s.th.rv vk
  let vs := s.th.rv vv
  let u := s
  s.readSketch u false (s.th.ra a) fun s k =>
    s.sketchJob u k (.update f64 ((range 0 8).map fun i => (laneWord ks 64 i, laneWord vs (if f64 then 64 else 32) i))) [] id id

/-- `SKQRY` (R162): a strong read of the flags byte and one counter of each row, counted in `ld`. -/
def execSkqry (d : SReg) (a : AReg) (sk : SReg) (s : State) : Result :=
  let key := s.th.rs sk
  let u := s
  s.readSketch u false (s.th.ra a) fun s k =>
    let at_ := fun (x n : Nat) => loadAt u (BitVec.ofNat 80 x) n 1
    s.checked (((at_ ((k.base + 3) % 2 ^ 80) 1) :: (range 0 k.d).map fun i => at_ (k.counter i (k.hash i key)) 4).foldr
        (fun x r => match x, r with
          | .error t, _ => .error t
          | .ok _, .error t => .error t
          | .ok e, .ok es => .ok (e :: es)) (.ok [] : Except Trap (List Elem))) fun es =>
      s.raise true s.th.ld (s.issue (.load (.query d k.e ((range 0 k.d).map fun i => k.minus i key)) .strong true) (BitVec.ofNat 80 k.base) es
        fun t => { t.dropKept with ld := t.ld + 1 })

/-- `SKADD` (R163): the source's geometry, scale and multipliers must be the destination's. -/
def execSkadd (a b : AReg) (s : State) : Result :=
  let src := s.th.ra b
  let u := s
  s.readSketch u true (s.th.ra a) fun s k =>
    match extentFault u k with
    | some t => s.trap t
    | none =>
      s.readSketch u true src fun s x =>
        if (x.d, x.logw, x.e, x.mulA, x.mulC) ≠ (k.d, k.logw, k.e, k.mulA, k.mulC) then s.trap { code := 0x17 }
        else
          let vas := x.shape.units.map (·.2)
          match firstFault vas fun va => match translate u u.tid (BitVec.ofNat 80 va) .read with | .error c => some c | .ok _ => none with
          | some t => s.trap t
          | none => s.sketchJob u k (.add x.base x.flags) vas id id

/-- `SKSCL` (R163). -/
def execSkscl (a : AReg) (sf : SReg) (s : State) : Result :=
  let f := s.th.rs sf &&& 0xFFFFFFFF
  let u := s
  s.readSketch u false (s.th.ra a) fun s k => s.sketchJob u k (.scale f) [] id id

/-- `SKCLR` (R163). -/
def execSkclr (a : AReg) (s : State) : Result :=
  let u := s
  s.readSketch u false (s.th.ra a) fun s k => s.sketchJob u k .clear [] id id

/-- The flags byte as an element. -/
def flagsAt (s : State) (k : Sketch) : Except Trap Elem := loadAt s (BitVec.ofNat 80 ((k.base + 3) % 2 ^ 80)) 1 1

/-- `SKSAT` (R163): counted in `ld`. -/
def execSksat (d : SReg) (a : AReg) (s : State) : Result :=
  let u := s
  s.readSketch u false (s.th.ra a) fun s k =>
    s.checked (flagsAt u k) fun e =>
      s.raise true s.th.ld (s.issue (.load (.flags d) .strong true) e.va [e] fun t => { t.dropKept with ld := t.ld + 1 })

/-- `SKSAT.CLR` (R163): the job reads the flags and clears them in one step. -/
def execSksatClr (d : SReg) (a : AReg) (s : State) : Result :=
  let u := s
  s.readSketch u false (s.th.ra a) fun s k =>
    s.checked (flagsAt u k) fun e =>
      s.raise true s.th.ld (
        s.sketchJob u k (.satClear (s.serial + 1)) []
          (fun s => s.issueOut (.load (.flags d) .strong true) e.va [e] id) fun t => { t with ld := t.ld + 1 })

/-! ### The parts of a sketch job (R161, R163, R164) -/

/-- How many parts a job has: part 0 is the descriptor or the flags byte, the others whole rows (15 R301); for updates, one row of one
pair. -/
def sketchParts (k : Sketch) (op : SkOp) : Nat :=
  match op with
  | .update _ pairs => pairs.length * k.d
  | .init _ | .clear | .add _ _ | .scale _ => 1 + k.d
  | .satClear _ => 1

/-- Sets bits of the flags byte, which is written only where it changes. -/
def orFlags (s : State) (j : Job) (k : Sketch) (x : Nat) : State :=
  let va := (k.base + 3) % 2 ^ 80
  match wordAt s j va with
  | none => lostWrite s j va
  | some a =>
    let old := (truthByte s a).toNat
    if old ||| x = old then s else writeFor s j va [(BitVec.ofNat 8 (old ||| x), 0)]

/-- A counter of the sketch: none where it reads as poisoned or cannot be read. -/
def readCounter (s : State) (j : Job) (va : Nat) : Option Int :=
  match readFor { s with ev := { s.ev with bytes := [], flag := false } } j va 4 with
  | some bs => if bs.any fun b => b.2 != 0 then none else some (sextNat (natOfBytes (bs.map (·.1))) 32)
  | none => none

/-- Writes a counter, saturated, and flags its row where it saturates. -/
def writeCounter (s : State) (j : Job) (k : Sketch) (row va : Nat) (x : Int) : State :=
  let y := satS x 32
  let s := writeFor s j va ((bytesOfNat 4 (BitVec.ofInt 32 y).toNat).map fun b => (b, 0))
  if y = x then s else orFlags s j k (2 ^ row)

/-- The nearest integer to x × 2^e, ties to even. -/
def nearestInt (neg : Bool) (m : Nat) (e : Int) : Int :=
  let r := (roundAt neg m e false 0 .even).1
  if neg then -(r : Int) else r

/-- One row's update by a pair (R161). -/
def updateRow (s : State) (c : Nat) (j : Job) (k : Sketch) (f64 : Bool) (key v : Word) (i : Nat) : State :=
  let s := s.count (16 * c + 9) 1
  let va := k.counter i (k.hash i key)
  let minus := k.minus i key
  match (if f64 then fp64 else fp32).decode v.toNat with
  | .nan _ => orFlags s j k (2 ^ i)
  | .inf neg =>
    match readCounter s j va with
    | none => s
    | some _ => writeCounter s j k i va (if neg != minus then -(2 ^ 40) else 2 ^ 40)
  | .fin neg m e _ =>
    match readCounter s j va with
    | none => s
    | some x =>
      let q := nearestInt neg m (e - k.e)
      writeCounter s j k i va (x + (if minus then -q else q))

/-- A row zeroed, whole. -/
def zeroRow (s : State) (j : Job) (k : Sketch) (row : Nat) : State := putSpan s j (k.counter row 0) (List.replicate (4 * k.width) 0)

/-- One counter of a row plus the source's counter (R163, R164). -/
def addCounter (s : State) (j : Job) (k : Sketch) (row n : Nat) (src : List (Byte × Nat)) : State :=
  let va := k.counter row n
  match readCounter s j va with
  | none => s
  | some d =>
    if src.any fun b => b.2 != 0 then poisonFor s j va 4
    else writeCounter s j k row va (d + sextNat (natOfBytes (src.map (·.1))) 32)

/-- One counter of a row times a factor (R163). -/
def scaleCounter (s : State) (j : Job) (k : Sketch) (neg : Bool) (m : Nat) (e : Int) (row n : Nat) : State :=
  let va := k.counter row n
  match readCounter s j va with
  | none => s
  | some d => writeCounter s j k row va (nearestInt ((d < 0) != neg) (d.natAbs * m) e)

/-- One part of a sketch job: none where its data has not come. -/
def sketchPart (s : State) (c : Nat) (j : Job) (k : Sketch) (op : SkOp) (q : Nat) : Option State :=
  match op with
  | .init desc => some (if q = 0 then putSpan s j k.base desc else zeroRow s j k (q - 1))
  | .clear => some (if q = 0 then putSpan s j ((k.base + 3) % 2 ^ 80) [0] else zeroRow s j k (q - 1))
  | .update f64 pairs =>
    match pairs[q / k.d]? with
    | some p => some (updateRow s c j k f64 p.1 p.2 (q % k.d))
    | none => some s
  | .add src flags =>
    if q = 0 then some (orFlags s j k (flags.toNat % 2 ^ k.d))
    else
      let row := { k with base := src }.counter (q - 1) 0
      (readFor s j row (4 * k.width)).map fun bs =>
        (range 0 k.width).foldl (fun s n => addCounter s j k (q - 1) n ((bs.drop (4 * n)).take 4)) (touchFor s j row (4 * k.width))
  | .scale f =>
    match fp32.decode f.toNat with
    | .fin neg m e _ => some (if q = 0 then s else (range 0 k.width).foldl (fun s n => scaleCounter s j k neg m e (q - 1) n) s)
    | _ => some (if q = 0 then orFlags s j k (2 ^ k.d - 1) else s)
  | .satClear n =>
    let va := (k.base + 3) % 2 ^ 80
    match readFor { s with ev := { s.ev with bytes := [], flag := false } } j va 1 with
    | none => some s
    | some bs =>
      let bad := bs.any fun b => b.2 != 0
      let s := match (s.thread j.tid).out? n with
        | some o =>
          finishLoad (setElem s j.tid o 0 { (o.elems.headD { va := 0, pa := 0, size := 1 }) with
            bytes := bs.map (·.1), got := true, home := true, poison := bad }) j.tid n
        | none => s
      some (if bad then s else putSpan s j va [0])

/-- Performs part q of a sketch job: none where it cannot be performed yet. The pairs of an update go in their order (R161,
12 R270). -/
def sketchStep (s : State) (c : Nat) (j : Job) (k : Sketch) (op : SkOp) (q : Nat) : Option State :=
  let inOrder := match op with | .update _ _ => (range 0 q).all j.partsDone.contains | _ => true
  if inOrder then (sketchPart s c j k op q).map fun s => setJob s c { j with partsDone := j.partsDone ++ [q] } else none

/-- Performs every part left, in order. -/
def sketchRest (s : State) (c id : Nat) (k : Sketch) (op : SkOp) : List Nat → Option State
  | [] => some s
  | q :: r =>
    match jobAt s c id with
    | none => some s
    | some j => if j.partsDone.contains q then sketchRest s c id k op r else (sketchStep s c j k op q).bind fun s => sketchRest s c id k op r

end Sys2Proof.Machine
end

