-- ==== Sys2Proof/Machine/Sync.lean ====
section
/-!
DEFINITION. Watches, waits, barrier objects, writer-key instructions and `STASHCFG` (10 R219–R229; 05 R103, R108–R113).
-/
namespace Sys2Proof.Machine

/-! ### Watches -/

/-- The packet of a watch on another module's word (20 R356): the scope stands above the address's 56 bits. -/
def watchPacket (src m serial pa : Nat) (threshold : Word) (sc : Scope) : LinkPacket :=
  let c := match (spaceOf (localOf pa)).cluster? with | some c => c | none => 0
  let code := match sc with | .thread => 0 | .tile => 1 | .cluster => 2 | .module => 3 | .domain => 4
  { typ := 4, net := 0, src := src, dst := m * 2 ^ 14 + c * 2 ^ 8 + 0x45
    tag := serial % 65536, status := 0, body := bytesOfNat 7 pa ++ [BitVec.ofNat 8 code] ++ bytesOfNat 8 threshold.toNat }

/-- `WATCH` (R219): completes at issue. -/
def execWatch (sc : Scope) (slot : BitVec 3) (a : AReg) (b : SReg) (s : State) : Result :=
  let va := s.th.ra a
  s.checked (loadAt s va 8 8) fun e =>
    if e.place = .host then s.trap { code := 0x06, fva := va }
    else
      s.access false (if meets s [e] then s.stall else
        let e := pullPlace s e
        let n := s.serial
        let s := match e.place with
          | .cluster _ => flushElems s s.tid [e]
          | .remote m _ => { s with egress := s.egress ++ [watchPacket (endpointOf s (clusterOf s.tid) (s.cur % 36)) m n e.pa (s.th.rs b) sc] }
          | _ => s
        let r : WatchReq := { tid := s.tid, phys := s.th.sup.act, serial := n, va := va, page := e.page, asid := asidOf s s.tid
                              pa := e.pa, place := e.place
                              threshold := s.th.rs b, scope := sc }
        let s := { s with watchReqs := s.watchReqs ++ [r], serial := n + 1 }
        s.retire 4 fun t => t.setSlotAt slot (.placed va sc n))

/-- A watch arrives at the owner's port (05 R108, R110): answered at once where the word has reached the threshold or is
poisoned, with status full where the table is full, and entered otherwise. -/
def placeWatch (s : State) (c pa : Nat) (e : WatchEntry) : State :=
  let s := wakeCluster s c
  let x := truthWord s (localOf pa)
  if truthPoison s (localOf pa) then answerWatch s e pa x .poison
  else if e.threshold.toNat ≤ x.toNat then answerWatch s e pa x .normal
  else if Config.watchEntries ≤ (s.cluster c).watches.length then answerWatch (s.count (16 * c + 14) 1) e pa x .full
  else s.updCluster c fun cl => { cl with watches := cl.watches ++ [e] }

/-- Whether a read from another module is admitted (19 R345, 21 R373): the source's ranges cover the whole line. -/
def admitted (s : State) (src gpa : Nat) (keyhole : Bool) : Bool :=
  !fencedModule s src && s.regs.mstate != 3 &&
    (range 0 16).any fun i =>
      match s.ranges.find? (src * 16 + i) with
      | some (base, len, kh) =>
        base * 4096 ≤ localOf gpa / 64 * 64 && localOf gpa / 64 * 64 + 64 ≤ (base + len) * 4096 && (kh || !keyhole)
      | none => false

/-- Whether a packet that came over the fabric waits for one before it from its endpoint to its port (06 R129). -/
def fabricBehind (s : State) (i : Nat) (p : LinkPacket) (types : List Nat) : Bool :=
  (s.ingress.take i).any fun q => types.contains q.typ && q.src == p.src && q.dst == p.dst

/-- `WATCH_REQUEST` (05 R108): request a of this module arrives at its port, or, with the flag, packet a that came over
the fabric. A translation that fails at the target is answered with poison (R219). -/
def execWatchRequest (s : State) : Result :=
  if s.ev.flag then
    match s.ingress[s.ev.a]? with
    | some p =>
      if p.typ ≠ 4 ∨ fabricBehind s s.ev.a p [2, 4] then .next s
      else
        let s := s.dropIngress s.ev.a
        let gpa := natAt p.body 0 7
        let e : WatchEntry := { word := localOf gpa, threshold := BitVec.ofNat 64 (natAt p.body 8 8), tid := 0, serial := 0, link := some p }
        match (spaceOf (localOf gpa)).cluster? with
        | some c =>
          if moduleOf gpa == s.regs.modnum && backed s (localOf gpa) && gpa % 8 == 0 && admitted s (p.src / 2 ^ 14) gpa false then
            .next (placeWatch s c gpa e)
          else .next (answerWatch s e gpa 0 .poison)
        | none => .next (answerWatch s e gpa 0 .poison)
    | none => .next s
  else
    match s.watchReqs[s.ev.a]? with
    | some r =>
      match r.place with
      | .cluster c =>
        if watchBehind s r.tid r.serial r.place || portBehind s r.tid r.serial 0 r.place (fun e => !e.got) then .next s
        else
          let s := { s with watchReqs := dropNth s.watchReqs s.ev.a }
          let e : WatchEntry := { word := localOf r.pa, threshold := r.threshold, tid := r.tid, serial := r.serial }
          match portAddr s r.phys (slotOfAsid s r.asid) r.va r.pa with
          | some pa => .next (placeWatch s (((spaceOf (localOf pa)).cluster?).getD c) pa { e with word := localOf pa })
          | none => .next (answerWatch s e r.pa 0 .poison)
      | _ => .next s
    | none => .next s

/-- An answer to a watch that a collective engine has placed (07 R153). -/
def Job.hear (j : Job) (x : WatchAns) : Job :=
  { j with watches := j.watches.map fun w => if w.2.1 = x.serial then (w.1, x.serial, some x.status) else w }

/-- An answer to the network engine's watch on a doorbell (20 R361). -/
def QPair.hear (q : QPair) (x : WatchAns) : QPair := if q.watch = some x.serial then { q with watch := none } else q

/-- A watch answer reaches its slot (05 R109), wherever the context now is, or the engine that placed the watch; an answer to a
watch that was replaced is discarded. -/
def landAnswer (s : State) (x : WatchAns) : State :=
  let s := { s with clusters := s.clusters.map fun c => (c.1, { c.2 with jobs := c.2.jobs.map fun j => j.hear x })
                    net := { s.net with qps := s.net.qps.map fun q => (q.1, q.2.hear x) } }
  mapContexts s fun t =>
    if t.slots.any fun (sl : WatchSlot) => match sl with | .placed _ _ n => n == x.serial | _ => false then
      { t with slots := t.slots.map fun (sl : WatchSlot) => match sl with
          | .placed va sc n => if n = x.serial then WatchSlot.answered va sc x.gpa x.value x.status else sl
          | _ => sl }.wake
    else t

/-- Whether an answer is one to an engine's watch, whose endpoint is its own. -/
def forEngine (s : State) (x : WatchAns) : Bool :=
  (s.clusters.any fun c => c.2.jobs.any fun j => j.watches.any fun w => w.2.1 == x.serial) || s.net.qps.any fun q => q.2.watch == some x.serial

/-- Whether answer i of another cluster's port to a core waits: for one given before it, or for the reply to a read that the core sent to
that port before the watch (06 R129). -/
def answerBehind (s : State) (i : Nat) (x : WatchAns) : Bool :=
  let port := fun (y : WatchAns) => (spaceOf (localOf y.gpa)).cluster?
  match port x with
  | none => false
  | some c =>
    !forEngine s x && c != clusterOf x.tid &&
      (((s.watchAnss.take i).any fun y => !forEngine s y && coreOf y.tid == coreOf x.tid && port y == some c) ||
        portBehind s x.tid x.serial 0 (.cluster c) fun e => e.got && !e.home)

/-- `WATCH_ANSWER` (05 R109): answer a of this module's ports, or, with the flag, packet a from another module, each after those before it
from its port to its endpoint (06 R129). -/
def execWatchAnswer (s : State) : Result :=
  if s.ev.flag then
    match s.ingress[s.ev.a]? with
    | some p =>
      if p.typ ≠ 5 ∨ fabricBehind s s.ev.a p [3, 5] then .next s
      else
        let s := s.dropIngress s.ev.a
        let mine := fun (r : WatchReq) => r.link.isNone && r.serial % 65536 == p.tag && (match r.place with | .remote _ _ => true | _ => false)
        match s.watchReqs.find? mine with
        | some r =>
          let st : AnswerStatus := match p.status with | 0 => .normal | 1 => .full | _ => .poison
          .next (landAnswer { s with watchReqs := s.watchReqs.filter (· != r) }
            { tid := r.tid, serial := r.serial, gpa := r.pa, value := BitVec.ofNat 64 (natAt p.body 0 8), status := st })
        | none => .next s
    | none => .next s
  else
    match s.watchAnss[s.ev.a]? with
    | some x => .next (if answerBehind s s.ev.a x then s else landAnswer { s with watchAnss := dropNth s.watchAnss s.ev.a } x)
    | none => .next s

/-- `WAITW` (R220, 05 R109). -/
def execWaitw (d : SReg) (slot : BitVec 3) (s : State) : Result :=
  s.point <|
    match s.th.slotAt slot with
    | .free => s.retireS d 0
    | .placed _ _ _ => s.wait
    | .answered va sc gpa value st =>
      match st with
      | .normal =>
        (acquireWord s s.tid sc gpa value).retire 4 fun t =>
          { (t.ws d value).setSlotAt slot .free with fill := some (gpa, value) }
      | .full => s.retire 4 fun t => (t.ws d value).setSlotAt slot .free
      | .poison => s.trap { code := 0x16, fva := va }

/-- `WAITA` (R221, 05 R111): its reads are strong. -/
def execWaita (ge acq : Bool) (d : SReg) (a : AReg) (b : SReg) (s : State) : Result :=
  s.point <|
    let va := s.th.ra a
    s.checked (ownAt s va 8 8 true) fun e =>
      s.access false (if meets s [e] then s.stall else
        let r := strongRead s s.tid (spaceAsid s s.tid s.th.sup.act) e
        let s := r.1
        if r.2.2 then s.trap { code := 0x16, fva := va }
        else
          let x : Word := BitVec.ofNat 64 (natOfBytes r.2.1)
          if x = s.th.rs b ∨ (ge ∧ (s.th.rs b).toNat ≤ x.toNat) then
            (if acq then acquireWord s s.tid .domain e.pa x else s).retireS d x
          else s.wait)

/-- Whether a counter meets a limit of `WAITC`: 31 means any (R222). -/
def underLimit (n : Nat) (limit : BitVec 5) : Bool := limit == 31 || n ≤ limit.toNat

/-- `WAITC` (R222): not an acquire. -/
def execWaitc (ldl stl cpl mxl : BitVec 5) (s : State) : Result :=
  s.point <|
    let t := s.th
    if underLimit t.ld ldl && underLimit t.st stl && underLimit t.cp cpl && underLimit t.mx mxl then s.skip 4 else s.wait

/-! ### Barrier objects -/

/-- The checks of a barrier object (R223): the thread's own scratch part, HBM or tier two. The store forms of host memory are
cause 0x07 (01 R14, 05 R97, 10 R209; log entry 126). -/
def barrierAt (s : State) (va : Addr) (store : Bool) : Except Trap Elem :=
  match loadAt s va 64 64 with
  | .error t => .error t
  | .ok x =>
    if store && x.place == .host then storeAt s va 64 64
    else
      match ownAt s va 64 64 false with
      | .error t => .error t
      | .ok e => if store then storeAt s va 64 64 else .ok e

/-- `BARINIT` (R223): the thread stalls until the object is written. Where its generation word is poisoned nothing is written, and cause 0x16
pends (DESIGN CHOICE: log entry 29). -/
def execBarinit (d : SReg) (a : AReg) (b : SReg) (s : State) : Result :=
  s.checked (barrierAt s (s.th.ra a) true) fun e =>
    s.access true (if meets s [e] then s.stall else
      let s := flushElems s s.tid [e]
      let x := localOf e.pa
      if truthBad s (x + 8) 8 then (addPending s s.tid { code := 0x16, fva := e.va }).skip 4
      else
        let n := s.th.rs b
        let gen := truthWord s (x + 8) + 1
        (threadWrite s s.tid s.th.sup.act e (bytesOfNat 8 n.toNat ++ bytesOfNat 8 gen.toNat ++ bytesOfNat 8 n.toNat ++ bytesOfNat 40 0)).retireS d gen)

/-- `BARADD` (R223): performed as a release of cluster scope. -/
def execBaradd (a : AReg) (b : SReg) (s : State) : Result :=
  s.checked (barrierAt s (s.th.ra a) true) fun e =>
    s.access true ((flushElems s s.tid [e]).issue (.baradd (s.th.rs b)) e.va [e])

/-- `BARWAIT` (R223, 05 R113). -/
def execBarwait (a : AReg) (b : SReg) (s : State) : Result :=
  s.point <|
    s.checked (barrierAt s (s.th.ra a) false) fun e =>
      s.access false (if meets s [e] then s.stall else
        let r := strongRead s s.tid (spaceAsid s s.tid s.th.sup.act) { e with size := 16 }
        let s := r.1
        if r.2.2 then s.trap { code := 0x16, fva := e.va }
        else
          let remaining := sextNat (natAt r.2.1 0 8) 64
          let gen := natAt r.2.1 8 8
          if (s.th.rs b).toNat < gen ∨ (gen = (s.th.rs b).toNat ∧ remaining ≤ 0) then (acquire s s.tid .cluster).skip 4
          else s.wait)

/-! ### Writer keys -/

/-- The code of the party the thread stores as: its own, or the supervisor's inside the handler (19 R347). -/
def partyOf (s : State) (tid : Nat) : Nat := if (s.thread tid).sup.act then keySup else codeOf tid

/-- Checks 1 and 2 of the key instructions (R225): translation, then the thread's own memory. -/
def keyPlace (s : State) (va : Addr) : Except Trap Nat :=
  match translate s s.tid va .read with
  | .error c => .error { code := c, fva := va }
  | .ok l => if placeOf s (clusterOf s.tid) l.pa = .own then .ok (localOf l.pa) else .error { code := 0x06, fva := va }

/-- The live entry of the thread's job that covers an address. -/
def jobEntry (s : State) (a : Nat) : Option (Nat × KeyEntry) :=
  match keyAt (s.cluster (clusterOf s.tid)) (unitOf a) with
  | some (i, e) => if e.job = slotOf s s.tid then some (i, e) else none
  | none => none

/-- The codes a thread may name (R225). -/
def givable (s : State) (code : Nat) : Bool :=
  (code < 0x90 && codeOk s (clusterOf s.tid) code) || code == keyHost || (code == keyNet && codeOk s (clusterOf s.tid) code) ||
    (code == keyOpen && !detOf s s.tid) || code == keyNone

/-- The region of an entry as bytes of a dirty word or an access. -/
def inEntry (e : KeyEntry) (a n : Nat) : Bool := overlap a n (e.base * 4096) (e.len * 4096)

/-- Whether an earlier operation of the thread on a region is still outstanding. -/
def regionBusy (s : State) (e : KeyEntry) : Bool :=
  (s.th.owed.any fun o => o.elems.any fun x => inEntry e (localOf x.pa) x.size) ||
    (s.tile (tileOf s.tid)).queue.any fun q => q.tid == s.tid && q.spans.any fun p => inEntry e p.1 p.2

/-- `KEYGIVE` (R225): after the region's dirty words are written through and the thread's accesses to it are
performed, the entry changes in one step. -/
def execKeygive (a : AReg) (b : SReg) (s : State) : Result :=
  let va := s.th.ra a
  s.checked (keyPlace s va) fun x =>
    match jobEntry s x with
    | none => s.trap { code := 0x07, fva := va }
    | some (i, e) =>
      let me := partyOf s s.tid
      if ¬ (e.holder = me ∨ (e.holder = keyOpen ∧ me ≠ keySup)) then s.trap { code := 0x07, fva := va }
      else if ¬ givable s ((s.th.rs b).toNat % 256) then s.trap { code := 0x06, fva := va }
      else
        s.access true (if regionBusy s e then s.stall else
          let ws := ((s.core s.cur).dirty.map (·.1)).filter fun w => inEntry e (w * 4) 4
          let s := flushWords s s.cur ws
          let s := s.updCluster (clusterOf s.tid) fun cl => { cl with keys := cl.keys.put i (giveEntry e me ((s.th.rs b).toNat % 256)) }
          s.skip 4)

/-- `KEYTAKE` (R226): status 0 is an acquire of cluster scope. -/
def execKeytake (d : SReg) (a : AReg) (s : State) : Result :=
  let va := s.th.ra a
  s.checked (keyPlace s va) fun x =>
    match jobEntry s x with
    | none => s.trap { code := 0x07, fva := va }
    | some (i, e) =>
      let me := partyOf s s.tid
      if e.pending = me then
        s.access false
          ((acquire (s.updCluster (clusterOf s.tid) fun cl => { cl with keys := cl.keys.put i { e with holder := me, pending := keyNone } })
            s.tid .cluster).retireS d 0)
      else s.retireS d (if e.holder = me then 1 else 2)

/-- The word of `KEYQRY` (R227). -/
def keyWord (me i : Nat) (e : KeyEntry) : Word :=
  BitVec.ofNat 64 (i % 4096 * 2 ^ 52 + e.len % 2 ^ 24 * 2 ^ 28 + e.lender % 256 * 2 ^ 20 + e.pending % 256 * 2 ^ 12 +
    e.holder % 256 * 2 ^ 4 + (if e.lender ≠ 0xFF then 8 else 0) + (if e.holder = me then 4 else 0) +
    (if e.pending = me then 2 else 0) + 1)

/-- `KEYQRY` (R227). -/
def execKeyqry (d : SReg) (a : AReg) (s : State) : Result :=
  s.checked (keyPlace s (s.th.ra a)) fun x =>
    s.retireS d (match jobEntry s x with | some (i, e) => keyWord (partyOf s s.tid) i e | none => 0)

/-! ### Stash configuration -/

/-- The ranges a block names (R228). -/
def stashRanges (bs : List Byte) (asid job : Nat) : List StashRange :=
  (range 0 (natAt bs 2 1)).map fun i =>
    { base := BitVec.ofNat 80 (natAt bs (16 * i + 16) 10), len := natAt bs (16 * i + 26) 4, asid := asid, job := job }

/-- The first check of R229: reserved bytes, way counts, ranges. -/
def stashBlockOk (cl : Cluster) (bs : List Byte) : Bool :=
  let n := natAt bs 2 1
  let rs := stashRanges bs 0 0
  allZero (sliceBytes bs 3 13) && natAt bs 0 1 + natAt bs 1 1 + cl.prot ≤ 24 && n ≤ 8 &&
    (range 0 n).all (fun i => allZero (sliceBytes bs (16 * i + 30) 2)) &&
    rs.all (fun r => r.base.toNat % 0x10000 == 0 && r.len != 0) &&
    (range 0 n).all fun i => (range 0 i).all fun j =>
      match rs[i]?, rs[j]? with
      | some x, some y => !overlap x.base.toNat (x.len * 0x10000) y.base.toNat (y.len * 0x10000)
      | _, _ => true

/-- The second and third checks of R229 on one 64 KiB unit of a range: its first failing cause. -/
def stashUnit (s : State) (va : Addr) : Option Nat :=
  match translate s s.tid va .read with
  | .error c => some c
  | .ok l => if placeOf s (clusterOf s.tid) l.pa = .host then some 0x06 else none

/-- The units of a range. -/
def rangeUnits (r : StashRange) : List Addr := (range 0 r.len).map fun i => r.base + BitVec.ofNat 80 (i * 0x10000)

/-- The first unit of the ranges that fails with a given cause. -/
def stashFault (s : State) (rs : List StashRange) (code : Nat) : Option Addr :=
  (rs.flatMap rangeUnits).find? fun va => stashUnit s va == some code

/-- Zeroes the store's bytes from offset lo to hi of a cluster (05 R103 step 4). -/
def zeroStore (s : State) (c lo hi : Nat) : State :=
  { s with mem := s.mem.filter fun (p : Nat × Byte) => !(storeBase c + lo ≤ p.1 && p.1 < storeBase c + hi)
           poison := s.poison.filter fun w => !(storeBase c + lo ≤ w * 8 && w * 8 < storeBase c + hi) }

/-- Changes the roles of a cluster's ways (05 R103): dirty stash lines are written back, remote lines dropped, ways that
enter or leave the scratch role zeroed. -/
def setRoles (s : State) (c scratch stash : Nat) (rs : List StashRange) : State :=
  let old := (s.cluster c).scratch
  let s := writeBackStash s c
  let s := zeroStore s c (min old scratch * 0x40000) (max old scratch * 0x40000)
  s.updCluster c fun cl => { cl with scratch := scratch, stash := stash, ranges := rs, stashLines := [], remote := [], tracked := [] }

/-- Whether an outstanding operation has an access still to be performed, or a line still to fill. -/
def Out.inFlight (o : Out) : Bool :=
  match o.kind with
  | .load _ _ _ => o.elems.any fun e => !e.home
  | _ => !o.elems.isEmpty

/-- Whether a thread or an engine of a cluster has an access in flight: the accesses issued before a change of roles are performed under
the old roles, and fills still to come are waited for (05 R103). -/
def clusterBusy (s : State) (c : Nat) : Bool :=
  (s.threads.any fun t => clusterOf t.1 == c && t.2.outs.any Out.inFlight) || (s.cluster c).jobs.any fun j => !j.unanswered.isEmpty

/-- Writes through the dirty words of every core of a cluster. -/
def flushCluster (s : State) (c : Nat) : State := (range (c * 36) 36).foldl flushCore s

/-- `STASHCFG` (R229): completes as a full fence of cluster scope. A block that reads as poisoned traps exactly (DESIGN CHOICE: log entry 140). -/
def execStashcfg (d : SReg) (a : AReg) (s : State) : Result :=
  let va := s.th.ra a
  let c := clusterOf s.tid
  if !aligned va 16 then s.trap { code := 0x03, fva := va }
  else
    let parts := (range 0 9).map fun i => loadAt s (va + BitVec.ofNat 80 (16 * i)) 16 16
    s.checked (parts.foldr (fun x r => match x, r with
        | .error t, _ => .error t
        | .ok _, .error t => .error t
        | .ok e, .ok es => .ok (e :: es)) (.ok [] : Except Trap (List Elem))) fun es =>
      s.access true (if !s.th.owed.isEmpty || mxEarlier s s.tid s.serial then s.stall else
        s.awaitRead false false .strong va es fun s es =>
          match es.find? (·.poison) with
          | some e => s.trap { code := 0x16, fva := e.va }
          | none =>
            let bs := es.flatMap (·.bytes)
            let cl := s.cluster c
            let n := natAt bs 0 1
            let rs := stashRanges bs (asidOf s s.tid) (slotOf s s.tid)
            let kept := fun (e : Nat × KeyEntry) =>
              inEntry e.2 (storeBase c + n * 0x40000) ((cl.scratch - n) * 0x40000) && n < cl.scratch &&
                !(e.2.holder == partyOf s s.tid || e.2.holder == keyNone || (e.2.holder == keyOpen && e.2.job == slotOf s s.tid))
            if !stashBlockOk cl bs then s.trap { code := 0x01 }
            else
              match stashFault s rs 0x05, stashFault s rs 0x06 with
              | some v, _ => s.trap { code := 0x05, fva := v }
              | none, some v => s.trap { code := 0x06, fva := v }
              | none, none =>
                match List.find? kept cl.keys with
                | some _ => s.trap { code := 0x07, fva := va }
                | none =>
                  if clusterBusy s c then s.stall else
                  let s := setRoles (flushCluster s c) c n (natAt bs 1 1) rs
                  (acquire s s.tid .cluster).retireS d (BitVec.ofNat 64 (cl.scratch + 256 * cl.stash)))

end Sys2Proof.Machine
end

