-- ==== Sys2Proof/Machine/Collectives.lean ====
section
/-!
DEFINITION. Collectives (07 R149–R154, 12 R267, 18 R328): the parameter block, its checks, and the steps of one member. A
member's partial and final values are published in its receive buffer.
-/
namespace Sys2Proof.Machine

/-! ### The parameter block (R149). A job's card is the block followed by the block's address -/

def collOp (b : List Byte) : Nat := natAt b 0 1
def collFmt (b : List Byte) : Nat := natAt b 1 1
def collRed (b : List Byte) : Nat := natAt b 2 1
def collAlg (b : List Byte) : Nat := natAt b 3 1
def collRadix (b : List Byte) : Nat := natAt b 4 1
def collDet (b : List Byte) : Bool := fld (natAt b 5 1) 0 1 == 1
def collAcc (b : List Byte) : Bool := fld (natAt b 5 1) 1 1 == 1
def collClass (b : List Byte) : Nat := natAt b 6 1
def collGroup (b : List Byte) : Nat := natAt b 8 4
def collRoot (b : List Byte) : Nat := natAt b 12 4
def collCount (b : List Byte) : Nat := natAt b 16 8
def collChunk (b : List Byte) : Nat := if natAt b 24 8 = 0 then 262144 else natAt b 24 8
def collSend (b : List Byte) : Nat := natAt b 32 10
def collRecv (b : List Byte) : Nat := natAt b 48 10
def collSeq (b : List Byte) : Nat := natAt b 64 10
def collBase (b : List Byte) : Nat := natAt b 80 8
def collCpl (b : List Byte) : Nat := natAt b 88 10
def collValue (b : List Byte) : Word := BitVec.ofNat 64 (natAt b 104 8)
def collStride (b : List Byte) : Int := sextNat (natAt b 112 8) 64
def collSel (b : List Byte) : Nat := natAt b 120 2
def collBlock (b : List Byte) : Nat := natAt b 128 10

/-- Whether the members only move bits. -/
def collMoves (b : List Byte) : Bool := collOp b == 2 || collOp b == 3

/-- Bytes of one element of a reduction. -/
def collElem (b : List Byte) : Nat :=
  match collFmt b with
  | 0x02 | 0x03 => 2
  | 0x21 => 8
  | _ => 4

/-- Bytes of one member's data (R153). `sk` is the bytes of a sketch. -/
def collBytes (b : List Byte) (sk : Nat) : Nat :=
  if collOp b = 4 then sk
  else if collMoves b && collFmt b != 0x20 && collFmt b != 0x21 then rowBytes (collFmt b) (collCount b)
  else collCount b * collElem b

def isPow2 (n : Nat) : Bool := n != 0 && n == 2 ^ Nat.log2 n

/-- The algorithm in force: 1 pull tree with its radix, 2 pull ring, 3 recursive halving (R151). -/
def collPlan (b : List Byte) (n sk : Nat) : Nat × Nat :=
  if collMoves b then (1, if collAlg b = 1 then collRadix b else 8)
  else
    match collAlg b with
    | 1 => (1, collRadix b)
    | 2 => (2, 0)
    | 3 => (3, 0)
    | _ =>
      if collBytes b sk ≤ 262144 then (1, 8)
      else if isPow2 n then (3, 0)
      else if collCount b % n = 0 then (2, 0)
      else (1, 4)

/-- Steps of one chunk (R153): of a move, the first moves the data and the others only advance the word. -/
def collSteps (b : List Byte) (n sk : Nat) : Nat :=
  match if collMoves b then (if collAlg b < 2 then 0 else collAlg b) else (collPlan b n sk).1 with
  | 0 => 1
  | 1 => 2
  | 2 => 2 * (n - 1)
  | _ => 2 * Nat.log2 n

/-- Chunks of a member's data. -/
def collChunks (b : List Byte) (sk : Nat) : Nat := (collBytes b sk + collChunk b - 1) / collChunk b

/-! ### The group (18 R328) -/

/-- The members of a directory entry: none where R328 refuses it, and whether that is for poison. -/
def groupOf (s : State) (slot g : Nat) : Option (List Nat) × Bool :=
  let sl := s.slot slot
  if g ≥ sl.grpn then (none, false)
  else
    let e := sl.grpt + 16 * g
    if truthBad s e 16 then (none, true)
    else
      let bs := truthRead s e 16
      let list := natAt bs 0 8
      let n := natAt bs 8 4
      if natAt bs 12 4 ≠ 0 ∨ n = 0 ∨ n > 65536 then (none, false)
      else if truthBad s list (4 * n) then (none, true)
      else
        let ws := (range 0 n).map fun i => natAt (truthRead s (list + 4 * i) 4) 0 4
        if ws.any (fun w => w / 2 ^ 24 != 0 || w % 256 != 0x42) || !decide ws.Nodup then (none, false) else (some ws, false)

/-- The rank of a cluster's collective engine. -/
def rankOf (s : State) (c : Nat) (ms : List Nat) : Option Nat :=
  (ms.zipIdx.find? fun p => p.1 == endpointOf s c 0x42).map (·.2)

/-! ### Checks (R150, R267) -/

/-- Reserved and out-of-range fields of a block (R149). -/
def blockBad (b : List Byte) : Bool :=
  let zero := fun (lo n : Nat) => allZero (sliceBytes b lo n)
  let fmt := collFmt b
  let reduces := [0, 2, 3, 0x20, 0x21].contains fmt
  let fmtOk := match collOp b with
    | 0 | 1 => reduces
    | 2 | 3 => reduces || fmt < 0x18
    | _ => fmt == 0
  let redOk := if collOp b = 4 then collRed b == 3 else collRed b ≤ 2
  let radixOk := if collAlg b = 1 then 2 ≤ collRadix b && collRadix b ≤ 16 else collRadix b == 0
  let chunk := natAt b 24 8
  !(collOp b ≤ 4 && fmtOk && redOk && collAlg b ≤ 3 && radixOk && natAt b 5 1 < 4 && collClass b ≤ 3 && zero 7 1 &&
    collGroup b < 4096 && (collOp b == 3 || collRoot b == 0) && (chunk == 0 || (chunk % 64 == 0 && chunk ≤ 2097152)) &&
    zero 42 6 && zero 58 6 && zero 74 6 && zero 98 6 && zero 122 2 && collSel b < 128 && (collOp b != 4 || collCount b == 0))

/-- The refusals of R150 for a group of n members; a ring or a halving that a gather or a broadcast names needs them too (DESIGN CHOICE:
log entry 138). -/
def groupBad (s : State) (c : Nat) (b : List Byte) (n : Nat) : Bool :=
  let divides := (collOp b == 1 || collAlg b == 2 || collAlg b == 3) && collCount b % n != 0
  let results := if collOp b = 1 then collCount b / n else collCount b
  divides || (collAlg b == 3 && !isPow2 n) || (collOp b == 3 && collRoot b ≥ n) ||
    (collAcc b && !((collOp b == 0 || collOp b == 1) && (collFmt b == 0 || collFmt b == 3) && results ≤ 4096 &&
      collSel b / 16 < 6 && tilePresent s (c * 6 + collSel b / 16)))

/-- Bytes of a sketch in the send buffer, if the operation is a sketch-sum. -/
def collSketch (s : State) (p : Party) (b : List Byte) : Option Sketch :=
  if collOp b = 4 then
    match walkAs s p.cluster p.phys p.slot (collSend b) with
    | some l => if truthBad s (localOf l.pa) 128 then none else sketchOf (collSend b) (truthRead s (localOf l.pa) 128)
    | none => none
  else none

/-- The buffers and words of a block as shapes: send, receive. -/
def collSendShape (b : List Byte) (sk : Nat) : Shape := { base := collSend b, stride := 0, n := collBytes b sk, rows := 1 }
def collRecvShape (b : List Byte) (n sk : Nat) : Shape :=
  { base := collRecv b, stride := 0, n := (if collOp b = 2 then n else 1) * collBytes b sk, rows := 1 }

/-- A check that an address lies in the cluster's own memory, writable where asked. -/
def ownFault (s : State) (p : Party) (store : Bool) (va : Nat) : Option Nat :=
  match walkAs s p.cluster p.phys p.slot va with
  | none => none
  | some l => if placeOf s p.cluster l.pa = .own && (!store || l.w) then none else some 0x06

/-- The checks of R145 on buffers and words. -/
def collFault (s : State) (p : Party) (b : List Byte) (n sk : Nat) : Option Trap :=
  let unmapped := fun (va : Nat) => if (walkAs s p.cluster p.phys p.slot va).isNone then some 0x05 else none
  let send := (collSendShape b sk).units.map (·.2)
  let recv := (collRecvShape b n sk).units.map (·.2)
  let words := [collSeq b, collCpl b]
  (faultIf (collSeq b % 8 != 0) 0x03 (collSeq b)).orElse fun _ =>
  (faultIf (collCpl b % 8 != 0) 0x03 (collCpl b)).orElse fun _ =>
  (firstFault (recv ++ words ++ send) unmapped).orElse fun _ =>
  (firstFault (recv ++ words) (ownFault s p true)).orElse fun _ =>
  (firstFault send (ownFault s p false)).orElse fun _ =>
  firstFault (recv ++ words) (keyFault s p)

/-- Whether a group spans modules that only scale-out reaches. -/
def needsScaleOut (s : State) (ms : List Nat) : Bool :=
  ms.any fun e => e / 2 ^ 14 != s.regs.modnum && s.regs.nlroute.get 0 (e / 2 ^ 14) % 2 ^ 18 == 0

/-- `COLL` (R267). -/
def execColl (a : AReg) (s : State) : Result :=
  let va := s.th.ra a
  let p := threadParty s
  if !aligned va 64 then s.trap { code := 0x03, fva := va }
  else
    s.checked (loadAt s va 64 64) fun e0 => s.checked (loadAt s (va + 64) 64 64) fun e1 =>
      match [e0, e1].find? fun e => e.place != .own with
      | some e => s.trap { code := 0x06, fva := e.va }
      | none =>
        match [e0, e1].find? fun e => !threadMayStore s s.tid (localOf e.pa) 64 with
        | some e => s.trap { code := 0x07, fva := e.va }
        | none =>
          s.access true (if meets s [e0, e1] then s.stall else s.thenHold [e0.va, e1.va] <|
            let r := readNow s .strong [e0, e1]
            let s := r.1
            match r.2.find? (·.poison) with
            | some e => s.trap { code := 0x16, fva := e.va }
            | none =>
              let b := r.2.flatMap (·.bytes) ++ bytesOfNat 10 va.toNat
              let g := groupOf s p.slot (collGroup b)
              if blockBad b then s.illegal
              else
                match g.1 with
                | none => (if g.2 && settled s then logEvent s 3 0x16 p.slot (endpointOf s p.cluster 0x42) 0 0 else s).illegal
                | some ms =>
                  match rankOf s p.cluster ms with
                  | none => s.illegal
                  | some rank =>
                    if groupBad s p.cluster b ms.length then s.illegal
                    else
                      let sk := collSketch s p b
                      if collOp b = 4 ∧ sk = none ∧ (walkAs s p.cluster p.phys p.slot (collSend b)).isSome then s.trap { code := 0x17 }
                      else
                        let skb := (sk.map Sketch.bytes).getD 128
                        match collFault s p b ms.length skb with
                        | some t => s.trap t
                        | none =>
                          if s.fuse.lite && needsScaleOut s ms then s.trap { code := 0x0A }
                          else if s.th.cp ≥ 63 ∨ Config.jobPlaces ≤ (s.cluster p.cluster).jobs.length then s.stall
                          else
                            let recv := vaUnits s p ((collRecvShape b ms.length skb).units.map (·.2))
                            let words := vaUnits s p [collSeq b, collCpl b, va.toNat, va.toNat + 64]
                            let acc := if collAcc b ∧ (s.slot p.slot).det then
                              [accumUnit (p.cluster * 6 + collSel b / 16) (collSel b % 16)] else []
                            let j : Job :=
                              { id := 0, kind := .coll ms rank, tid := p.tid, engine := 0xA2, card := b
                                reads := vaUnits s p ((collSendShape b skb).units.map (·.2)), writes := recv ++ words ++ acc }
                            (enterJob s p j (recv ++ words) []).retire 4 fun t => { t with cp := t.cp + 1 })

/-! ### Combining (R152) -/

/-- One combination of two elements. -/
def combine (b : List Byte) (x y : Nat) : Nat :=
  let floats := fun (fm : Fmt) =>
    if collRed b = 0 then (fm.finish .even (fm == bf16) (addVal .even (fm.decode x) (fm.decode y)).1).1
    else
      match cmpTotal (fm.decode x) (fm.decode y) with
      | none => fm.nanBits
      | some o => if (o == .lt) == (collRed b == 1) then y else x
  let ints := fun (w : Nat) =>
    let i := sextNat x w
    let k := sextNat y w
    if collRed b = 0 ∨ collRed b = 3 then (BitVec.ofInt w (satS (i + k) w)).toNat
    else if (i < k) == (collRed b == 1) then y else x
  if collOp b = 4 then ints 32
  else match collFmt b with
    | 0x02 => floats fp16
    | 0x03 => floats bf16
    | 0x20 => ints 32
    | 0x21 => ints 64
    | _ => floats fp32

/-- Whether a sketch-add of two counters saturates. -/
def saturates (x y : Nat) : Bool := let t := sextNat x 32 + sextNat y 32; satS t 32 != t

/-- Combines two lists of marked bytes element by element; a poisoned element poisons the result. -/
def combineBytes (b : List Byte) (es : Nat) : Nat → List (Byte × Nat) → List (Byte × Nat) → List (Byte × Nat)
  | 0, _, _ => []
  | fuel + 1, x, y =>
    if x.isEmpty then []
    else
      let m := ((x.take es).map (·.2)).foldl max (((y.take es).map (·.2)).foldl max 0)
      ((bytesOfNat es (combine b (natOfBytes ((x.take es).map (·.1))) (natOfBytes ((y.take es).map (·.1))))).map fun z => (z, m)) ++
        combineBytes b es fuel (x.drop es) (y.drop es)

/-- Whether some counter of two lists saturates. -/
def anySaturates : Nat → List (Byte × Nat) → List (Byte × Nat) → Bool
  | 0, _, _ => false
  | fuel + 1, x, y =>
    if x.isEmpty then false
    else saturates (natOfBytes ((x.take 4).map (·.1))) (natOfBytes ((y.take 4).map (·.1))) || anySaturates fuel (x.drop 4) (y.drop 4)

/-! ### Steps (R151, R153) -/

/-- What one step pulls from one peer: its rank, how many steps it must have completed (none: only that its collective
runs), and whether from its send buffer. -/
structure Pull where
  rank : Nat
  after : Option Nat
  fromSend : Bool
  /-- The peer's value is the left operand. -/
  first : Bool := false
  deriving DecidableEq, Repr

/-- What a step of a member does: what its own value is (none, send buffer or receive buffer), its pulls, the byte ranges
within a member's vector, and where in the receive buffer each pull lands. -/
structure Step where
  own : Option Bool
  pulls : List Pull
  spans : List (Nat × Nat)
  /-- All-gather: member k's data lies at k times the vector. -/
  gather : Bool := false
  deriving DecidableEq, Repr

/-- The bytes of segment g's slice in chunk j: of n segments over e elements of es bytes, in c chunks. -/
def sliceSpan (e es n c g j : Nat) : Nat × Nat :=
  let lo := g * e / n
  let hi := (g + 1) * e / n
  let l := (hi - lo + c - 1) / c
  let a := min hi (lo + j * l)
  let z := min hi (lo + (j + 1) * l)
  (a * es, (z - a) * es)

/-- The step of member `rank` at position `at_` (chunk * S + step) of its work. A lone member of a ring or a halving, which has no
steps, only copies its data. -/
def collStep (b : List Byte) (n rank sk at_ : Nat) : Step :=
  let es := if collMoves b then 1 else collElem b
  let e := if collOp b = 4 then (sk - 128) / 4 else collBytes b sk / es
  let steps := collSteps b n sk
  let c := collChunks b sk
  let j := at_ / steps
  let t := at_ % steps
  let whole := [sliceSpan e es 1 c 0 j]
  let segs := fun (lo m : Nat) => (range lo m).map fun g => sliceSpan e es n c g j
  let plan := collPlan b n sk
  if steps = 0 then { own := some true, pulls := [], spans := [(0, e * es)] }
  else if collMoves b && t != 0 then { own := none, pulls := [], spans := [] }
  else if collOp b = 2 then
    { own := some true, pulls := ((range 0 n).filter (· != rank)).map fun k => { rank := k, after := none, fromSend := true }
      spans := whole, gather := true }
  else if collOp b = 3 then
    let v := (rank + n - collRoot b) % n
    if v = 0 then { own := some true, pulls := [], spans := whole }
    else { own := none, pulls := [{ rank := ((v - 1) / plan.2 + collRoot b) % n, after := some (at_ + 1), fromSend := false }], spans := whole }
  else
    match plan.1 with
    | 1 =>
      if t = 0 then
        { own := some true, spans := whole
          pulls := ((range (rank * plan.2 + 1) plan.2).filter (· < n)).map fun k => { rank := k, after := some (at_ + 1), fromSend := false } }
      else if rank = 0 then { own := none, pulls := [], spans := [] }
      else { own := none, pulls := [{ rank := (rank - 1) / plan.2, after := some (at_ + 1), fromSend := false }], spans := whole }
    | 2 =>
      let prev := (rank + n - 1) % n
      if t < n - 1 then
        { own := some true, spans := segs ((rank + 2 * n - 2 - t) % n) 1
          pulls := [{ rank := prev, after := if t = 0 then none else some at_, fromSend := t == 0, first := true }] }
      else if collOp b = 1 then { own := none, pulls := [], spans := [] }
      else
        { own := none, spans := segs ((rank + 2 * n - 1 - (t - (n - 1))) % n) 1
          pulls := [{ rank := prev, after := some at_, fromSend := false }] }
    | _ =>
      let lg := Nat.log2 n
      if t < lg then
        let m := n / 2 ^ (t + 1)
        let peer := rank ^^^ m
        { own := some (t == 0), spans := segs (rank / m * m) m
          pulls := [{ rank := peer, after := if t = 0 then none else some at_, fromSend := t == 0, first := peer < rank }] }
      else if collOp b = 1 then { own := none, pulls := [], spans := [] }
      else
        let m := n / 2 ^ (lg - (t - lg))
        let peer := rank ^^^ m
        { own := none, spans := segs (peer / m * m) m, pulls := [{ rank := peer, after := some at_, fromSend := false }] }

/-- A peer's address for one of this member's (R150). -/
def peerAddr (b : List Byte) (rank k va : Nat) : Nat := (((va : Int) + ((k : Int) - rank) * collStride b) % 2 ^ 80).toNat

/-- What a pull finds. -/
inductive Pulled where
  | wait
  | fail (status : Nat)
  | data (bs : List (Byte × Nat)) (flags : Nat)
  deriving DecidableEq, Repr

/-- The bytes of a member's block that its peers compare. -/
def sameBlock (x y : List Byte) : Bool :=
  x.take 7 == y.take 7 && sliceBytes x 8 24 == sliceBytes y 8 24 && sliceBytes x 112 8 == sliceBytes y 112 8

/-- Reads a list of byte ranges of a buffer. -/
def readSpans (s : State) (j : Job) (base : Nat) : List (Nat × Nat) → List (Byte × Nat)
  | [] => []
  | (lo, n) :: r =>
    ((readFor { s with ev := { s.ev with bytes := [], flag := true } } j ((base + lo) % 2 ^ 80) n).getD []) ++ readSpans s j base r

/-- Offset of the elements in a buffer. -/
def collOff (b : List Byte) : Nat := if collOp b = 4 then 128 else 0

/-- The descriptor of a buffer of a sketch-sum: none where it is poisoned or no sketch (R152, R159). -/
def sketchHead (s : State) (j : Job) (va : Nat) : Option Sketch :=
  match readFor { s with ev := { s.ev with bytes := [], flag := true } } j va 128 with
  | some x => if x.any fun y => y.2 != 0 then none else sketchOf 0 (x.map (·.1))
  | none => none

/-- One pull of a step (R150, R153). The engine hears of a word of another module by its watch. -/
def pullPeer (s : State) (j : Job) (ms : List Nat) (rank sk : Nat) (st : Step) (p : Pull) : Pulled :=
  let b := j.card
  let ep := (ms[p.rank]?).getD 0
  let m := ep / 2 ^ 14
  if m ≠ s.regs.modnum then
    let heard := match p.after with | some _ => (j.watches.find? p.rank).bind (·.2) | none => some .normal
    match s.ev.peers.find? fun x => x.rank == p.rank with
    | none => if unreachable s m || heard == some .poison then .fail 3 else .wait
    | some x =>
      if x.unreachable || unreachable s m || heard == some .poison then .fail 3
      else if heard ≠ some .normal then .wait
      else if x.mismatch then .fail (if x.data.isEmpty then 1 else 2)
      else if x.data.length < (st.spans.map (·.2)).sum + (if collOp b = 4 then 1 else 0) then .wait
      else .data (x.data.map fun y => (y, 0)) (if collOp b = 4 then (x.data.getLastD 0).toNat else 0)
  else
    let quiet := { s with ev := { s.ev with bytes := [], flag := true } }
    let seq := readFor quiet j (peerAddr b rank p.rank (collSeq b)) 8
    let word := natOfBytes ((seq.getD []).map (·.1))
    let bad := match seq with | none => true | some x => x.any fun y => y.2 != 0
    let total := collBase b + collChunks b sk * collSteps b ms.length sk
    let runs := (s.cluster (ep / 2 ^ 8 % 64)).jobs.any fun x => match x.kind with
      | .coll ms' r => ms' == ms && r == p.rank && collSeq x.card == peerAddr b rank p.rank (collSeq b)
      | _ => false
    let ready : Bool := match p.after with
      | some k => collBase b + k ≤ word
      | none => runs || total ≤ word
    if bad then .fail 3
    else if !ready then .wait
    else
      let block := (readFor quiet j (peerAddr b rank p.rank (collBlock b)) 128).getD []
      if block.any fun y => y.2 != 0 then .fail 3
      else if !sameBlock (block.map (·.1)) b then .fail 1
      else
        let buf := peerAddr b rank p.rank (if p.fromSend then collSend b else collRecv b)
        let same : Bool := match sketchHead s j buf, sketchHead s j (collSend b) with
          | some x, some y => decide ({ x with flags := 0 } = { y with flags := 0 })
          | _, _ => false
        if collOp b = 4 ∧ ¬ same then .fail 2
        else .data (readSpans s j (buf + collOff b) st.spans) (((sketchHead s j buf).map (·.flags.toNat)).getD 0)

/-- The engine waits on a peer by a watch on its word (R153; 05 R108); one answered full is placed again. -/
def awaitPeer (s : State) (c id : Nat) (rank : Nat) (p : Pull) : State :=
  match jobAt s c id, p.after with
  | some j, some k =>
    let va := peerAddr j.card rank p.rank (collSeq j.card)
    let th := BitVec.ofNat 64 (collBase j.card + k)
    match j.watches.find? p.rank, walkAs s j.cluster j.phys j.slot va with
    | some (_, none), _ | _, none => s
    | w, some l =>
      let n := s.serial
      let s' := (setJob s c { j with watches := j.watches.put p.rank (n, none) }).bump
      match placeOf s c l.pa with
      | .own | .cluster _ =>
        placeWatch s' (((spaceOf (localOf l.pa)).cluster?).getD c) l.pa { word := localOf l.pa, threshold := th, tid := 0, serial := n }
      | .remote m ch =>
        if w.bind (·.2) = some .normal then s
        else
          { s' with egress := s'.egress ++ [watchPacket (endpointOf s c 0x42) m n l.pa th .domain]
                    watchReqs := s'.watchReqs ++ [{ tid := 0, phys := j.phys, serial := n, va := BitVec.ofNat 80 va, asid := j.asid, pa := l.pa
                                                    place := .remote m ch, threshold := th, scope := .domain }] }
      | .host => s
  | _, _ => s

/-- The order in which a tree's children are combined: ascending where order is deterministic, otherwise as the event
gives it (R151). -/
def pullOrder (det : Bool) (order : List Nat) (ps : List Pull) : List Pull :=
  if det then ps
  else (order.filterMap fun k => List.find? (fun (p : Pull) => p.rank == k) ps).eraseDups ++ ps.filter fun p => !order.contains p.rank

/-- Writes bytes over byte ranges of the receive buffer, in the words written now. -/
def writeSpans (keep : Option (Nat → Bool)) (s : State) (j : Job) (base : Nat) : List (Nat × Nat) → List (Byte × Nat) → State
  | [], _ => s
  | (lo, n) :: r, bs => writeSpans keep (putKept keep s j ((base + lo) % 2 ^ 80) (bs.take n)) j base r (bs.drop n)

/-- The parts of a step's ranges that lie in the words written now. -/
def keptSpans (keep : Option (Nat → Bool)) (base : Nat) (spans : List (Nat × Nat)) : List (Nat × Nat) :=
  spans.flatMap fun p => (keptPieces keep (base + p.1) p.2).map fun w => (p.1 + w.1, w.2)

/-- Combines or copies what the pulls of a step returned, left to right; the flags a sketch-sum gathers. -/
def foldPulls (b : List Byte) (acc : Option (List (Byte × Nat))) (flags : Nat) :
    List (Pull × List (Byte × Nat) × Nat) → Option (List (Byte × Nat)) × Nat
  | [] => (acc, flags)
  | (p, bs, f) :: r =>
    match acc with
    | none => foldPulls b (some bs) (flags ||| f) r
    | some x =>
      let sat := if collOp b = 4 ∧ anySaturates (x.length + 1) x bs then 1 else 0
      foldPulls b (some (if p.first then combineBytes b (collElem b) (x.length + 1) bs x else combineBytes b (collElem b) (x.length + 1) x bs))
        (flags ||| f ||| sat * 256) r

/-- The sketch of a member's send buffer, and the bytes of one member's sketch. -/
def memberSketch (s : State) (j : Job) : Option Sketch :=
  if collOp j.card = 4 then (sketchHead s j (collSend j.card)).map fun k => { k with base := collSend j.card } else none

def memberBytes (s : State) (j : Job) : Nat := ((memberSketch s j).map Sketch.bytes).getD 128

/-- The step a member is at. -/
def memberStep (s : State) (j : Job) (n rank : Nat) : Step := collStep j.card n rank (memberBytes s j) j.steps

/-- The ranges of its own buffers that a member's step moves: its own value read, and what it writes. -/
def stepMoves (s : State) (j : Job) (n rank : Nat) : List (Nat × Nat) :=
  let b := j.card
  let st := memberStep s j n rank
  let each := fun (base : Nat) => st.spans.map fun p => (base + p.1, p.2)
  let recv := collRecv b + collOff b
  let size := collBytes b (memberBytes s j)
  (if collOp b = 4 ∧ j.steps = 0 then [(collSend b, 128), (collRecv b, 128)] else []) ++
    (match st.own with | some send => each ((if send then collSend b else collRecv b) + collOff b) | none => []) ++
    (if st.gather then (range 0 n).flatMap fun k => each (recv + k * size) else each recv)

/-- Bytes of some ranges that lie in the cluster store, and in HBM. -/
def tokenBytes (s : State) (j : Job) (moves : List (Nat × Nat)) : Nat × Nat :=
  let pieces := moves.flatMap fun x => (range 0 ((x.1 % 4096 + x.2 + 4095) / 4096)).map fun i =>
    let a := if i = 0 then x.1 else (x.1 / 4096 + i) * 4096
    (a, min (x.1 + x.2) ((x.1 / 4096 + i + 1) * 4096) - a)
  pieces.foldl (fun t x =>
    match walkAs s j.cluster j.phys j.slot (x.1 % 2 ^ 80) with
    | some l => (match spaceOf (localOf l.pa) with
      | .store _ _ => (t.1 + x.2, t.2)
      | .hbm _ _ => (t.1, t.2 + x.2)
      | _ => t)
    | none => t) (0, 0)

/-- Whether a step may run now (R154): in classes 0 and 1 it waits while a bucket it draws on is empty. A bucket whose rate in
force is 0 is never empty (18 R337). -/
def tokensOk (s : State) (c : Nat) (j : Job) (n rank : Nat) : Bool :=
  let t := tokenBytes s j (stepMoves s j n rank)
  let cl := s.cluster c
  collClass j.card ≥ 2 ||
    ((t.1 == 0 || cl.rateCs.get 0 j.slot == 0 || cl.tokCs.get 0 j.slot > 0) &&
      (t.2 == 0 || cl.rateHb.get 0 j.slot == 0 || cl.tokHb.get 0 j.slot > 0))

/-- Each byte the engine moves through a resource costs a token of its bucket (R154). -/
def spendTokens (s : State) (c slot : Nat) (t : Nat × Nat) : State :=
  s.updCluster c fun cl =>
    { cl with tokCs := if t.1 = 0 then cl.tokCs else cl.tokCs.put slot (cl.tokCs.get 0 slot - t.1)
              tokHb := if t.2 = 0 then cl.tokHb else cl.tokHb.put slot (cl.tokHb.get 0 slot - t.2) }

/-- Raises the member's sequence word as a release of domain scope (R153). -/
def raiseSeq (s : State) (c : Nat) (j : Job) (x : Word) : State :=
  let s := writeBackStash s c
  match wordAt s j (collSeq j.card) with
  | none => lostWrite s j (collSeq j.card)
  | some a => if truthBad s a 8 ∨ x.toNat ≤ (truthWord s a).toNat then s else writeWord s j (collSeq j.card) x

/-- The rows of a sketch whose counters lie in byte ranges saturate as one flag each: the flags to set for a step. -/
def rowFlags (k : Sketch) (spans : List (Nat × Nat)) (x y : List (Byte × Nat)) : Nat :=
  let offs := spans.flatMap fun p => (range 0 (p.2 / 4)).map fun i => (p.1 / 4 + i) / k.width
  (offs.zipIdx).foldl (fun f p =>
    let at_ := fun (l : List (Byte × Nat)) => natOfBytes (((l.drop (4 * p.2)).take 4).map (·.1))
    if saturates (at_ x) (at_ y) then f ||| 2 ^ p.1 else f) 0

/-- What a member's step moves now: of a step that combines, the words written now. -/
def stepNow (s : State) (j : Job) (n rank : Nat) : Step :=
  let st := memberStep s j n rank
  if st.gather then st else { st with spans := keptSpans (wordsNow j.partsDone s.ev.c) (collRecv j.card + collOff j.card) st.spans }

/-- A sketch-sum's first step copies the send buffer's descriptor: the word of its flags before any row is flagged, the others with the
words written now. -/
def copyHead (keep : Option (Nat → Bool)) (s : State) (j : Job) : State :=
  let head := (readFor { s with ev := { s.ev with bytes := [], flag := true } } j (collSend j.card) 128).getD []
  let s := if j.partsDone.isEmpty then putMarked s j (collRecv j.card) (head.take 8) else s
  putKept keep s j ((collRecv j.card + 8) % 2 ^ 80) (head.drop 8)

/-- Performs the next step of a member, or with c of it the 8-byte word c − 1 of memory (06 R131). -/
def performStep (s : State) (c : Nat) (j : Job) (ms : List Nat) (rank : Nat) : State :=
  let b := j.card
  let n := ms.length
  let sk := memberSketch s j
  let skb := memberBytes s j
  let st := stepNow s j n rank
  let keep := wordsNow j.partsDone s.ev.c
  let det := collDet b || (s.slot j.slot).det
  let got := (pullOrder det s.ev.nats st.pulls).map fun p => (p, pullPeer s j ms rank skb st p)
  if got.any fun g => g.2 == .wait then got.foldl (fun s g => if g.2 = .wait then awaitPeer s c j.id rank g.1 else s) s
  else
    let recv := collRecv b + collOff b
    let failed := got.filterMap fun g => match g.2 with | .fail k => some (g.1, k) | _ => none
    match failed with
    | (p, code) :: _ =>
      let s := if code = 3 then
          let due := (memberStep s j n rank).spans
          let base := if st.gather then recv + p.rank * collBytes b skb else recv
          writeSpans none s j base due (List.replicate (due.map (·.2)).sum (0, 2))
        else s
      setJob s c { j with status := code + 256 * p.rank }
    | [] =>
      let cost := tokenBytes s j (stepMoves s j n rank)
      let data := got.filterMap fun g => match g.2 with | .data bs f => some (g.1, bs, f) | _ => none
      let own := st.own.map fun send => readSpans s j ((if send then collSend b else collRecv b) + collOff b) st.spans
      let moved := ((memberStep s j n rank).spans.map (·.2)).sum * (st.pulls.length + 1)
      let s := (stepMoves s j n rank).foldl (fun s x => touchFor s j (x.1 % 2 ^ 80) x.2) s
      let s := if collOp b = 4 ∧ j.steps = 0 then copyHead keep s j else s
      let s :=
        if st.gather then
          let s := match own with | some x => writeSpans keep s j (recv + rank * collBytes b skb) st.spans x | none => s
          data.foldl (fun s d => writeSpans keep s j (recv + d.1.rank * collBytes b skb) st.spans d.2.1) s
        else
          let r := foldPulls b own 0 data
          let s := match r.1 with | some x => writeSpans none s j recv st.spans x | none => s
          match sk with
          | none => s
          | some k =>
            let sat := data.foldl (fun (q : Nat × Option (List (Byte × Nat))) d => match q.2 with
              | none => (q.1, some d.2.1)
              | some x => (q.1 ||| rowFlags k st.spans x d.2.1, some (combineBytes b 4 (x.length + 1) x d.2.1))) (0, own)
            orFlags s j { k with base := collRecv b } ((sat.1 ||| r.2) % 2 ^ k.d)
      if s.ev.c ≠ 0 then setJob s c { j with partsDone := j.partsDone ++ [s.ev.c - 1] }
      else
        let s := withdrawPeers (spendTokens (s.count (16 * c + 8) moved) c j.slot cost) j
        let s := if collSteps b n skb = 0 then s else raiseSeq s c j (BitVec.ofNat 64 (collBase b + j.steps + 1))
        setJob s c { j with steps := j.steps + 1, watches := [], partsDone := [] }

/-- The steps of a member in all; a lone member's copy where the algorithm has none. -/
def totalSteps (s : State) (j : Job) (n : Nat) : Nat :=
  let steps := collSteps j.card n (memberBytes s j)
  if steps = 0 then 1 else collChunks j.card (memberBytes s j) * steps

/-- `COLLECTIVE_STEP` (R151, R153): member b of cluster a does its next step, where its peers have come so far. -/
def execCollectiveStep (s : State) : Result :=
  match jobAt s s.ev.a s.ev.b with
  | none => .next s
  | some j =>
    match j.kind with
    | .coll ms rank =>
      if j.started && !j.cancelled && j.status == 0 && j.steps < totalSteps s j ms.length && tokensOk s s.ev.a j ms.length rank then
        .next (performStep s s.ev.a j ms rank)
      else .next s
    | _ => .next s

/-- Adds the final result into the selected accumulator (R152). -/
def addResult (s : State) (c : Nat) (j : Job) (n rank : Nat) : State :=
  let b := j.card
  if !collAcc b then s
  else
    let es := collElem b
    let count := if collOp b = 1 then collCount b / n else collCount b
    let lo := if collOp b = 1 then rank * count * es else 0
    let bs := readSpans s j (collRecv b) [(lo, count * es)]
    (range 0 ((count + 63) / 64)).foldl (fun s r =>
      addRow s (c * 6 + collSel b / 16) (collSel b % 16) r 0 ((range 0 (min 64 (count - 64 * r))).map fun i =>
        let x := (bs.drop ((64 * r + i) * es)).take es
        if x.any fun y => y.2 != 0 then none else some (natOfBytes (x.map (·.1)) * (if es = 2 then 65536 else 1)))) s

/-- `COLLECTIVE_COMPLETION` (R150, R152): the status, then the completion word, and in that step the keys return. -/
def execCollectiveCompletion (s : State) : Result :=
  let c := s.ev.a
  match jobAt s c s.ev.b with
  | none => .next s
  | some j =>
    match j.kind with
    | .coll ms rank =>
      let n := ms.length
      let done := j.steps ≥ totalSteps s j n
      if !j.started || (!j.cancelled && j.status == 0 && !done) then .next s
      else
        let code := if j.status ≠ 0 then j.status % 256 else if done then 0 else 4
        let s := if code = 0 then addResult s c j n rank else s
        let s := putSpan s j ((collBlock j.card + 124) % 2 ^ 80) (bytesOfNat 1 code ++ bytesOfNat 3 (j.status / 256))
        let s := writeWord s j (collCpl j.card) (collValue j.card)
        .next (signalJob (withdrawPeers s j) c j)
    | _ => .next s

/-! ### Job events over every kind -/

/-- The line reads that part q of a job needs are sent to the modules that hold its source. -/
def askPart (s : State) (j : Job) (q : Nat) : State :=
  match j.kind with
  | .card => if isBulk j && cardKind j.card != 5 then askLines s j q (partSource j q).1 (partSource j q).2 else s
  | .sketch k (.add src _) => if q = 0 then s else askLines s j q ({ k with base := src }.counter (q - 1) 0) (4 * k.width)
  | .lodgeCopy owner h => match (s.cluster owner).lodgings.find? h with
    | some lg => askLines s j q (lg.src + 64 * q) 64
    | none => s
  | _ => s

/-- `ENGINE_PAYLOAD_PART` (R146, R147, R161, R163; 05 R113–R115): part c of job b of cluster a, with the bytes the event
brings for a source in another module (the flag: that read failed); or words that part reads, alone (06 R131). Where there is no such
job, the matrix engine of the tile that the slot names writes words of a tensor that it drains (06 R118). -/
def execEnginePayloadPart (s : State) : Result :=
  let c := s.ev.a
  let q := s.ev.c
  match jobAt s c s.ev.b with
  | none => .next ((s.ev.slot.map (drainWords s s.ev.nats)).getD s)
  | some j =>
    if s.ev.nats.any (64 ≤ ·) then .next (readAhead s c j q)
    else if !j.started || j.partsDone.contains q then .next s
    else
      let do_ := fun (s : State) => let j := (jobAt s c j.id).getD j; match j.kind with
        | .card => (bulkPart s c j q).getD s
        | .sketch k op => (sketchStep s c j k op q).getD s
        | .lodgeCopy owner h => setJob (lodgeLine s j owner h q) c { j with partsDone := j.partsDone ++ [q] }
        | .coll _ _ => s
      let has : Bool := match j.kind with
        | .card => isBulk j && (bulkParts j).contains q
        | .sketch k op => q < sketchParts k op
        | .lodgeCopy _ _ => q < lodgeLen j.card / 64
        | .coll _ _ => false
      .next (if has then do_ (askPart s j q) else s)

/-- `ENGINE_JOB_COMPLETION` (R148, 06 R130): job b of cluster a performs the parts left and signals. -/
def execEngineJobCompletion (s : State) : Result :=
  let c := s.ev.a
  match jobAt s c s.ev.b with
  | none => .next s
  | some j =>
    if !j.started then .next s
    else
      match j.kind with
      | .card => .next ((completeCard s c j).getD s)
      | .sketch k op =>
        .next (((sketchRest { s with ev := { s.ev with bytes := [], nats := [] } } c j.id k op (range 0 (sketchParts k op))).map fun s =>
          signalJob s c ((jobAt s c j.id).getD j)).getD s)
      | .lodgeCopy _ _ | .coll _ _ => .next s

end Sys2Proof.Machine
end

