-- ==== Sys2Proof/Machine/Control.lean ====
section
/-!
DEFINITION. Branches, jumps, calls, hardware loops and `REALIGN` (09 R201–R207).
-/
namespace Sys2Proof.Machine

/-- A transfer to a target (R205 step 1). -/
def State.jump (s : State) (target : Addr) : Result := .next (s.upd fun t => t.jump target)

/-- A conditional branch (R201). -/
def State.branch (s : State) (taken : Bool) (off : BitVec 15) : Result :=
  if taken then s.jump (targetOf s.th.pc off) else s.skip 4

/-- A call that covers the last word of an armed loop traps (R205). -/
def State.callCheck (s : State) (k : Result) : Result :=
  let t := s.th
  if (t.loop1.armed && covers t.pc 4 t.loop1.last) || (t.loop0.armed && covers t.pc 4 t.loop0.last) then s.illegal else k

/-- A call (R202, R203): `a7` takes the return address and no loop is disarmed. -/
def State.callTo (s : State) (target : Addr) : Result :=
  .next (s.upd fun t => { t.wa 7 (t.pc + 4) with pc := target })

/-- A transfer to the address in a register (R203): misaligned targets trap. -/
def State.checkTarget (s : State) (target : Addr) (k : Result) : Result :=
  if target &&& 3 = 0 then k else s.trap { code := 0x03, fva := target }

/-- `BEQ` (R201). -/
def execBeq (a b : SReg) (off : BitVec 15) (s : State) : Result :=
  let x := s.th.rs a
  let y := s.th.rs b
  s.branch (x == y) off

/-- `BNE` (R201). -/
def execBne (a b : SReg) (off : BitVec 15) (s : State) : Result :=
  let x := s.th.rs a
  let y := s.th.rs b
  s.branch (x != y) off

/-- `BLT` (R201). -/
def execBlt (a b : SReg) (off : BitVec 15) (s : State) : Result :=
  let x := s.th.rs a
  let y := s.th.rs b
  s.branch (x.slt y) off

/-- `BGE` (R201). -/
def execBge (a b : SReg) (off : BitVec 15) (s : State) : Result :=
  let x := s.th.rs a
  let y := s.th.rs b
  s.branch (!x.slt y) off

/-- `BLTU` (R201). -/
def execBltu (a b : SReg) (off : BitVec 15) (s : State) : Result :=
  let x := s.th.rs a
  let y := s.th.rs b
  s.branch (x.ult y) off

/-- `BGEU` (R201). -/
def execBgeu (a b : SReg) (off : BitVec 15) (s : State) : Result :=
  let x := s.th.rs a
  let y := s.th.rs b
  s.branch (!x.ult y) off

/-- `JMP` (R202). -/
def execJmp (off : BitVec 25) (s : State) : Result := s.jump (targetOf s.th.pc off)

/-- `CALL` (R202). -/
def execCall (off : BitVec 25) (s : State) : Result := s.callCheck (s.callTo (targetOf s.th.pc off))

/-- `JR` (R203). -/
def execJr (a : AReg) (s : State) : Result := s.checkTarget (s.th.ra a) (s.jump (s.th.ra a))

/-- `CALLR` (R203): the target is read before `a7` is written. -/
def execCallr (a : AReg) (s : State) : Result := s.callCheck (s.checkTarget (s.th.ra a) (s.callTo (s.th.ra a)))

/-- `RET` (R203). -/
def execRet (s : State) : Result := s.checkTarget (s.th.ra 7) (s.jump (s.th.ra 7))

/-- Arms a loop of count c over the len words after pc (R204): of two armed loops the younger is `loop1`. -/
def State.arm (s : State) (c : Word) (len : BitVec 12) : Result :=
  let t := s.th
  if t.loop0.armed && t.loop1.armed then s.illegal
  else
    let e := t.pc + BitVec.ofNat 80 (4 * (len.toNat + 1))
    if c = 0 then .next (s.upd fun t => t.nextAt 4 (e + 4))
    else
      let l : Loop := { first := t.pc + 4, last := e, remaining := c, armed := true }
      .next (s.upd fun t =>
        let t := t.next 4
        if t.loop1.armed then { t with loop0 := t.loop1, loop1 := l }
        else if t.loop0.armed then { t with loop1 := l } else { t with loop0 := l })

/-- `LOOP` (R204). -/
def execLoop (a : SReg) (len : BitVec 12) (s : State) : Result := s.arm (s.th.rs a) len

/-- `LOOPI` (R204). -/
def execLoopi (c : BitVec 11) (len : BitVec 12) (s : State) : Result := s.arm (c.setWidth 64) len

/-- `REALIGN` (R207): stalls until the event that ends it; a limit of 0 completes at once. -/
def execRealign (limit : BitVec 15) (s : State) : Result :=
  if limit = 0 ∨ s.th.hold = some .done then .next (s.upd fun t => { t with hold := none }.next 4)
  else (s.upd fun t => { t with hold := some .realign }).stall

/-- `REALIGN_LIMIT_EXPIRY` (R207): the stall of thread `a` ends, at its limit or because the fetch port served the
block to another core. -/
def execRealignLimitExpiry (s : State) : Result :=
  .next (s.updThread s.ev.a fun t => if t.hold = some .realign then { t with hold := some .done } else t)

end Sys2Proof.Machine
end

