-- ==== Sys2Proof/Machine/Extended.lean ====
section
/-!
DEFINITION. Extended precision (04 R76–R94; 13 R271–R276): values of 1 to 16 limbs in windows of the window file,
rounded once to PREC.p bits.
-/
namespace Sys2Proof.Machine

/-! ### Values and limbs (04 R76–R78) -/

def extBias : Int := 4194303
/-- Fraction bits of a value of n limbs. -/
def fracBits (n : Nat) : Nat := 36 + 64 * (n - 1)

/-- The fraction F of limbs, header first: the header's low 36 bits, then 64 bits of each further limb. -/
def extFrac : List Word → Nat
  | [] => 0
  | h :: r => r.foldl (fun f x => f * 2 ^ 64 + x.toNat) (fld h.toNat 0 36)

/-- The value of limbs (R77). -/
def extVal (ls : List Word) : Val :=
  let h := (ls.headD 0).toNat
  let neg := fld h 63 1 == 1
  let e := fld h 36 23
  let f := extFrac ls
  if e = 0 then .zero neg
  else if e = 0x7FFFFF then (if f = 0 then .inf neg else .nan (fld h 35 1 == 0))
  else .fin neg (2 ^ fracBits ls.length + f) ((e : Int) - extBias - fracBits ls.length) false

/-- Limbs of a header without its fraction, and a fraction of fracBits n bits. -/
def extLimbs (n : Nat) (neg : Bool) (e f : Nat) : List Word :=
  let h := (if neg then 2 ^ 63 else 0) + (n - 1) * 2 ^ 59 + e * 2 ^ 36 + f / 2 ^ (64 * (n - 1))
  BitVec.ofNat 64 h :: ((range 0 (n - 1)).map fun i => BitVec.ofNat 64 (f / 2 ^ (64 * (n - 2 - i))))

/-- A rounded value in n limbs; a NaN is the canonical one. -/
def extEncode (n : Nat) (v : Val) : List Word :=
  match v with
  | .nan _ => extLimbs n false 0x7FFFFF (2 ^ (fracBits n - 1))
  | .inf neg => extLimbs n neg 0x7FFFFF 0
  | .fin neg m e _ =>
    if m = 0 then extLimbs n neg 0 0
    else
      let l := Nat.log2 m
      let f := if l ≤ fracBits n then m * 2 ^ (fracBits n - l) else m / 2 ^ (l - fracBits n)
      extLimbs n neg ((l : Int) + e + extBias).toNat (f - 2 ^ fracBits n)

/-- NLimbs (R78). -/
def nLimbs (p : Nat) : Nat := if p ≤ 37 then 1 else 1 + (p - 37 + 63) / 64

/-! ### The precision register (04 R79, R80) -/

def precP (w : Word) : Nat := field w 0 10
def precG (w : Word) : Nat := field w 24 8
def precNl (w : Word) : Bool := w.getLsbD 16
def rmOf : Nat → RMode
  | 0 => .even
  | 1 => .zero
  | 2 => .up
  | 3 => .down
  | _ => .away
def precRm (w : Word) : RMode := rmOf (field w 12 3)

/-- Whether a value may be written to `PREC` (R80). -/
def precOk (w : Word) : Bool := 8 ≤ precP w && precP w ≤ 997 && field w 12 3 ≤ 4

/-- The writable bits of `PREC`; reserved bits stay zero. -/
def precMask : Word := 0x00001F1FFF0173FF

/-- Flags in the bit order of `PREC` [36:32]. -/
def precOrder (f : Nat) : Nat :=
  (if fld f 4 1 = 1 then 1 else 0) + (if fld f 3 1 = 1 then 2 else 0) + (if fld f 2 1 = 1 then 4 else 0) +
    (if fld f 1 1 = 1 then 8 else 0) + (if fld f 0 1 = 1 then 16 else 0)

/-- Rounds to p significant bits (R81), with the flags of overflow, underflow and inexactness. -/
def roundExt (p : Nat) (rm : RMode) (v : Val) : Flagged :=
  match v with
  | .nan _ => (.nan false, 0)
  | .inf s => (.inf s, 0)
  | .fin s m e k =>
    if m = 0 && !k then (.zero s, 0)
    else
      let u := (Nat.log2 m : Int) + e - p + 1
      let r := roundAt s m e k u rm
      let x := (Nat.log2 r.1 : Int) + u
      if x > 4194303 then
        (if overInf rm s then .inf s else .fin s (2 ^ p - 1) (4194304 - p) false, flagOf + flagNx)
      else if x < -4194302 then
        (if (rm == .up && !s) || (rm == .down && s) then .fin s 1 (-4194302) false else .zero s, flagUf + flagNx)
      else (.fin s r.1 u false, if r.2 then flagNx else 0)

/-! ### Windows (04 R84–R87) -/

/-- The limbs of a window, header first. -/
def Thread.limbs (t : Thread) (w : Win) : List Word := (range w.base w.len).map fun i => t.wfile.get 0 i

/-- Writes limbs into the window file from a base on. -/
def Thread.setLimbs (t : Thread) (base : Nat) (ls : List Word) : Thread :=
  { t with wfile := (ls.zipIdx base).foldl (fun f p => Assoc.put f p.2 p.1) t.wfile
           bad := t.bad.filter fun b => match b with
             | .limb i => !(base ≤ i && i < base + ls.length)
             | _ => true }

def Thread.winVal (t : Thread) (w : Win) : Val := extVal (t.limbs w)

/-- The window limit of a thread (R84); a thread without a launch has none of its limbs (log entry 106). -/
def windowLimit (s : State) (tid : Nat) : Nat := min (wcap s tid) (((launchOf s tid).map (·.windows)).getD 0)

/-- Cause 0x09 with a sub-cause (R86). -/
def State.windowFault (s : State) (sub : Nat) : Result := s.trap { code := 0x09, sub := sub }

/-- Runs with live windows, or faults (R86). -/
def State.live (s : State) (ws : List WReg) (k : Result) : Result :=
  if ws.all fun w => (s.th.rw w).isSome then k else s.windowFault 1

def Thread.winAt (t : Thread) (w : WReg) : Win := (t.rw w).getD { base := 0, len := 1 }

/-- The limbs a live window holds after its length changes (R84). -/
def resizeLimbs (ls : List Word) (n : Nat) : List Word :=
  let cut := (ls ++ List.replicate n 0).take n
  let h := (cut.headD 0).toNat
  let h' := h - fld h 59 4 * 2 ^ 59 + (n - 1) * 2 ^ 59
  match extVal ls with
  | .nan _ => if extFrac cut = 0 then extEncode n (.nan false) else BitVec.ofNat 64 h' :: cut.drop 1
  | _ => BitVec.ofNat 64 h' :: cut.drop 1

/-- `XALLOC` (R84, R86): sub-cause 4 before 3 before 2. -/
def execXalloc (d : WReg) (base : BitVec 8) (n : BitVec 5) (s : State) : Result :=
  let t := s.th
  let b := base.toNat
  let k := n.toNat
  let clash := (List.finRange 32).any fun i => BitVec.ofNat 5 i.val != d &&
    match t.win[i] with
    | some w => overlap b k w.base w.len
    | none => false
  if k = 0 ∨ k > 16 then s.windowFault 4
  else if b + k > windowLimit s s.tid then s.windowFault 3
  else if clash then s.windowFault 2
  else
    let ls := match t.rw d with
      | some w => resizeLimbs (t.limbs w) k
      | none => extEncode k (.zero false)
    s.retire 4 fun t => (t.setLimbs b ls).ww d (some { base := b, len := k })

/-- `XFREE` (R84). -/
def execXfree (d : WReg) (s : State) : Result := s.retire 4 fun t => t.ww d none

/-- A write of `PREC` (R80). -/
def State.setPrec (s : State) (w : Word) : Result :=
  if precOk w then s.retire 4 fun t => { t with prec := w &&& precMask } else s.illegal

/-- `XSETP` (R275). -/
def execXsetp (a : SReg) (s : State) : Result := s.setPrec (s.th.rs a)

/-- `XGETP` (R275). -/
def execXgetp (d : SReg) (s : State) : Result := s.retireS d s.th.prec

/-! ### The rounding procedure (R271) -/

/-- `nv` for a signalling NaN. -/
def snanX (v : Val) : Nat := match v with | .nan true => flagNv | _ => 0

def Val.finite : Val → Bool
  | .fin _ _ _ _ => true
  | _ => false
def Val.nonzero : Val → Bool
  | .fin _ m _ k => m != 0 || k
  | _ => true

/-- Whether the cancellation guard trips (R91, sub-cause 3). -/
def guardTrips (g : Nat) (ops : List Val) (y : Val) : Bool :=
  g != 0 && y.finite && y.nonzero && ops.all (·.finite) &&
    ops.any fun v => v.nonzero && v.exp - y.exp > g

/-- Ends an instruction with flags (R83): an enabled one traps; else they are added to `PREC`. -/
def State.extFlags (s : State) (flags : Nat) (f : Thread → Thread) : Result :=
  let fl := precOrder flags
  let hit := fl &&& field s.th.prec 40 5
  if hit ≠ 0 then s.trap { code := 0x0F, flags := hit, xp := true }
  else s.retire 4 fun t => { f t with prec := t.prec ||| BitVec.ofNat 64 (fl * 2 ^ 32) }

/-- Rounds an exact value into a window: precision, guard, exceptions, write (R271). `ops` are the operands the guard
compares; none where the member is not guarded. -/
def State.extResult (s : State) (d : WReg) (r : Flagged) (ops : List Val) : Result :=
  let t := s.th
  let w := t.winAt d
  let y := roundExt (precP t.prec) (precRm t.prec) r.1
  if nLimbs (precP t.prec) > w.len then s.trap { code := 0x08, sub := 1 }
  else if !ops.isEmpty && guardTrips (precG t.prec) ops y.1 then s.trap { code := 0x08, sub := 3 }
  else s.extFlags (r.2 ||| y.2) fun t => t.setLimbs w.base (extEncode w.len y.1)

/-- A member of two windows. -/
def State.ext2 (s : State) (d a b : WReg) (guarded : Bool) (op : Thread → Val → Val → Flagged) : Result :=
  s.live [d, a, b] (
    let t := s.th
    let x := t.winVal (t.winAt a)
    let y := t.winVal (t.winAt b)
    let r := op t x y
    s.extResult d (r.1, r.2 ||| snanX x ||| snanX y) (if guarded then [x, y] else []))

/-- A member of one window. -/
def State.ext1 (s : State) (d a : WReg) (op : Thread → Val → Flagged) : Result :=
  s.live [d, a] (
    let t := s.th
    let x := t.winVal (t.winAt a)
    let r := op t x
    s.extResult d (r.1, r.2 ||| snanX x) [])

/-- `XADD` (R272). -/
def execXadd (d a b : WReg) (s : State) : Result := s.ext2 d a b true fun t x y => addVal (precRm t.prec) x y

/-- `XSUB` (R272). -/
def execXsub (d a b : WReg) (s : State) : Result := s.ext2 d a b true fun t x y => addVal (precRm t.prec) x y.neg

/-- `XMUL` (R272). -/
def execXmul (d a b : WReg) (s : State) : Result := s.ext2 d a b false fun _ x y => mulVal x y

/-- `XFMA` (R272): the guard compares the exact product and the addend. -/
def execXfma (d a b : WReg) (s : State) : Result :=
  s.live [d, a, b] (
    let t := s.th
    let x := t.winVal (t.winAt a)
    let y := t.winVal (t.winAt b)
    let z := t.winVal (t.winAt d)
    let p := mulVal x y
    let r := addVal (precRm t.prec) p.1 z
    s.extResult d (r.1, p.2 ||| r.2 ||| snanX x ||| snanX y ||| snanX z) [p.1, z])

/-- `XDIV` (R272). -/
def execXdiv (d a b : WReg) (s : State) : Result := s.ext2 d a b false fun t x y => divVal (precP t.prec) x y

/-- `XSQRT` (R272). -/
def execXsqrt (d a : WReg) (s : State) : Result := s.ext1 d a fun t x => sqrtVal (precP t.prec) x

/-- A value rounded to an integer, with `nx` where it changes (R272); a zero keeps its sign. -/
def integerVal (rm : RMode) (v : Val) : Flagged :=
  match v with
  | .fin s m e k =>
    if 0 ≤ e then (v, 0)
    else
      let r := roundAt s m e k 0 rm
      (.fin s r.1 0 false, if r.2 then flagNx else 0)
  | v => (v, 0)

/-- `XRND` (R272). -/
def execXrnd (d a : WReg) (s : State) : Result := s.ext1 d a fun t x => integerVal (precRm t.prec) x

/-- `XNEG` (R272). -/
def execXneg (d a : WReg) (s : State) : Result := s.ext1 d a fun _ x => (x.neg, 0)

/-- The magnitude of a value. -/
def Val.abs (v : Val) : Val := if v.sign then v.neg else v

/-- `XABS` (R272). -/
def execXabs (d a : WReg) (s : State) : Result := s.ext1 d a fun _ x => (x.abs, 0)

/-- `XMOV` (R272). -/
def execXmov (d a : WReg) (s : State) : Result := s.ext1 d a fun _ x => (x, 0)

/-- A value times 2^n. -/
def Val.scale (v : Val) (n : Int) : Val := match v with | .fin s m e k => .fin s m (e + n) k | v => v

/-- `XSCALE` (R272). -/
def execXscale (d a : WReg) (b : SReg) (s : State) : Result := s.ext1 d a fun t x => (x.scale (t.rs b).toInt, 0)

/-- `XEXP` (R272). -/
def execXexp (d a : WReg) (s : State) : Result := s.ext1 d a fun t x => expVal (precP t.prec) x

/-- `XCMP` (R273). -/
def execXcmp (d : SReg) (a b : WReg) (s : State) : Result :=
  s.live [a, b] (
    let t := s.th
    let x := t.winVal (t.winAt a)
    let y := t.winVal (t.winAt b)
    let r : Word := match cmpVal x y with
      | none => 8
      | some .gt => 4
      | some .eq => 2
      | some .lt => 1
    s.extFlags (snanX x ||| snanX y) fun t => t.ws d r)

/-- The length word (R273). -/
def lengthWord (need n : Nat) (v : Val) : Word :=
  let cls := match v with
    | .nan _ => 3
    | .inf _ => 2
    | .fin _ m _ _ => if m = 0 then 0 else 1
  let sig := match v with
    | .fin _ m _ _ => if m = 0 then 0 else Nat.log2 m + 1 - ctzNat (Nat.log2 m + 1) m
    | _ => 0
  BitVec.ofNat 64 ((if v.sign then 2 ^ 63 else 0) + cls * 2 ^ 30 + sig * 2 ^ 16 + need * 2 ^ 8 + n)

/-- `XLEN` (R273): no flag; the sign is that of the header. -/
def execXlen (d : SReg) (a : WReg) (s : State) : Result :=
  s.live [a] (
    let t := s.th
    let w := t.winAt a
    let sign : Word := (t.limbs w).headD 0 &&& (1#64 <<< 63)
    s.retireS d (lengthWord (nLimbs (precP t.prec)) w.len (t.winVal w) ||| sign))

/-- `XCVT.D` into a window (R273). -/
def execXcvtWindowFromInt64 (d : WReg) (a : SReg) (s : State) : Result :=
  s.live [d] (s.extResult d (.ofInt (s.th.rs a).toInt, 0) [])

/-- `XCVT.F64` into a window (R273). -/
def execXcvtWindowFromFp64 (d : WReg) (a : SReg) (s : State) : Result :=
  s.live [d] (let v := fp64.decode (s.th.rs a).toNat; s.extResult d (v, snanX v) [])

/-- `XCVT.DU` into a window (R273). -/
def execXcvtWindowFromUint64 (d : WReg) (a : SReg) (s : State) : Result :=
  s.live [d] (s.extResult d (.ofInt (s.th.rs a).toNat, 0) [])

/-- A value as int64 (R274). -/
def toInt64 (rm : RMode) (v : Val) : Int × Nat :=
  match v with
  | .nan _ => (0, flagNv)
  | .inf s => (if s then -(2 ^ 63 : Nat) else (2 ^ 63 : Nat) - 1, flagNv)
  | .fin s m e k =>
    if (Nat.log2 m : Int) + e > 70 then (if s then -(2 ^ 63 : Nat) else (2 ^ 63 : Nat) - 1, flagNv)
    else
      let r := roundAt s m e k 0 rm
      let x : Int := if s then -(r.1 : Int) else r.1
      if satS x 64 = x then (x, if r.2 then flagNx else 0) else (satS x 64, flagNv)

/-- A value as uint64 (R274). -/
def toUint64 (rm : RMode) (v : Val) : Nat × Nat :=
  match v with
  | .nan _ => (0, flagNv)
  | .inf s => (if s then 0 else 2 ^ 64 - 1, flagNv)
  | .fin s m e k =>
    if (Nat.log2 m : Int) + e > 70 then (if s then 0 else 2 ^ 64 - 1, flagNv)
    else
      let r := roundAt s m e k 0 rm
      if s && r.1 != 0 then (0, flagNv)
      else if r.1 > 2 ^ 64 - 1 then (2 ^ 64 - 1, flagNv)
      else (r.1, if r.2 then flagNx else 0)

/-- `XCVT.D` into a scalar register (R274). -/
def execXcvtScalarToInt64 (d : SReg) (a : WReg) (s : State) : Result :=
  s.live [a] (
    let r := toInt64 (precRm s.th.prec) (s.th.winVal (s.th.winAt a))
    s.extFlags r.2 fun t => t.ws d (BitVec.ofInt 64 r.1))

/-- `XCVT.F64` into a scalar register (R274). -/
def execXcvtScalarToFp64 (d : SReg) (a : WReg) (s : State) : Result :=
  s.live [a] (
    let v := s.th.winVal (s.th.winAt a)
    let rm := precRm s.th.prec
    let r := fp64.finish rm false v
    s.extFlags (r.2 ||| snanX v) fun t => t.ws d (BitVec.ofNat 64 r.1))

/-- `XCVT.DU` into a scalar register (R274). -/
def execXcvtScalarToUint64 (d : SReg) (a : WReg) (s : State) : Result :=
  s.live [a] (
    let r := toUint64 (precRm s.th.prec) (s.th.winVal (s.th.winAt a))
    s.extFlags r.2 fun t => t.ws d (BitVec.ofNat 64 r.1))

/-! ### Memory (04 R88–R90; 13 R276) -/

/-- The checks of limbs k, k + 1, … of a value (R89): the first failing limb is reported with its index. -/
def checkLimbs (f : Addr → Except Trap Elem) (va : Addr) (k : Nat) : Nat → Except Trap (List Elem)
  | 0 => .ok []
  | n + 1 =>
    match f (va + BitVec.ofNat 80 (8 * k)) with
    | .error t => .error { t with detail := k }
    | .ok e =>
      match checkLimbs f va (k + 1) n with
      | .error t => .error t
      | .ok es => .ok ({ e with lane := k } :: es)

/-- The limbs of an access in ascending order up to the first that fails its checks, and that failure (08 R188). -/
def limbPrefix (f : Addr → Except Trap Elem) (va : Addr) (k : Nat) : Nat → List Elem × Option Trap
  | 0 => ([], none)
  | n + 1 =>
    match f (va + BitVec.ofNat 80 (8 * k)) with
    | .error t => ([], some { t with detail := k })
    | .ok e =>
      let r := limbPrefix f va (k + 1) n
      ({ e with lane := k } :: r.1, r.2)

/-- The state after the limbs of an `XLD` are read: its kept reads end, and an acquire follows the last limb. -/
def loadedLimbs (s : State) (o : MOrder) (es : List Elem) : State :=
  let s := s.upd Thread.dropKept
  if o = .sync then observeElems (acquire s s.tid .domain) s.tid es else s

/-- `XLD` (R88, R276): the header's limb first, then the others in ascending order, of which the first that fails is reported
(R92, 08 R188); a poisoned limb, reported by its address, leaves the window unchanged. Its limbs are translated as it begins. -/
def execXld (o : MOrder) (d : WReg) (a : AReg) (off : BitVec 12) (s : State) : Result :=
  let limb := fun (x : Addr) => loadAt s x 8 8
  s.live [d] (
    let t := s.th
    let w := t.winAt d
    let va := memAddr t a off 8
    s.access false (s.checked (limb va) fun e0 =>
      s.awaitRead true false o va [e0] fun s hs =>
        let h := natOfBytes (hs.flatMap (·.bytes))
        let n := fld h 59 4 + 1
        if hs.any (·.poison) then (addPending (loadedLimbs s o []) s.tid { code := 0x16, fva := va }).skip 4
        else if n > w.len ∧ ¬ precNl s.th.prec then (s.upd Thread.dropKept).trap { code := 0x08, sub := 2 }
        else
          let r := limbPrefix limb va 1 (n - 1)
          s.awaitRead true false o va r.1 fun s rs =>
            match rs.find? (·.poison), r.2 with
            | some e, _ => (addPending (loadedLimbs s o []) s.tid { code := 0x16, fva := e.va }).skip 4
            | none, some tr => (s.upd Thread.dropKept).trap tr
            | none, none =>
              let s := loadedLimbs s o (hs ++ rs)
              let v := extVal ((hs ++ rs).map fun e => BitVec.ofNat 64 (natOfBytes e.bytes))
              s.extResult d (v, snanX v) []))

/-- `XST` (R88, R276): the limbs as they stand; a release precedes the first. -/
def execXst (o : MOrder) (d : WReg) (a : AReg) (off : BitVec 12) (s : State) : Result :=
  s.live [d] (
    let t := s.th
    let w := t.winAt d
    let va := memAddr t a off 8
    s.checked (checkLimbs (fun x => storeAt s x 8 8) va 0 w.len) fun es =>
      s.store o va ((es.zip (t.limbs w)).map fun p => { p.1 with bytes := bytesOfNat 8 p.2.toNat }))

end Sys2Proof.Machine
end

