-- ==== Sys2Proof/WellFormed.lean ====
section
/-!
DEFINITION. Which terms of `Instr` the encoding admits: each lane operation with a lane type it accepts (08 R180), a
prefetch hint of R178, a mask on `VSEL`, and a conversion's types one of the pairs of 11 R243. Every other field is held to its range by its type.
-/
namespace Sys2Proof

/-- Whether the instruction's fields are ones its encoding can hold (08 R178, R180; 11 R243). -/
def Instr.wellFormed : Instr → Bool
  | .pref hint _ _ => hint.toNat < 2
  | .vfadd t _ _ _ _ => t.isFloat
  | .vfsub t _ _ _ _ => t.isFloat
  | .vfmul t _ _ _ _ => t.isFloat
  | .vfma t _ _ _ _ => t.isFloat
  | .vfms t _ _ _ _ => t.isFloat
  | .vfnma t _ _ _ _ => t.isFloat
  | .vfdiv t _ _ _ _ => t.isFloat
  | .vfmin t _ _ _ _ => t.isFloat
  | .vfmax t _ _ _ _ => t.isFloat
  | .vfsqrt t _ _ _ => t.isFloat
  | .vfrcp t _ _ _ => t.isFloat
  | .vfrsq t _ _ _ => t.isFloat
  | .vfabs t _ _ _ => t.isFloat
  | .vfneg t _ _ _ => t.isFloat
  | .vfexp2 t _ _ _ => t.isFloat
  | .vflog2 t _ _ _ => t.isFloat
  | .vftanh t _ _ _ => t.isFloat
  | .vfclass t _ _ _ => t.isFloat
  | .vadd t _ _ _ _ => !t.isFloat
  | .vsub t _ _ _ _ => !t.isFloat
  | .vmul t _ _ _ _ => !t.isFloat
  | .vmulh t _ _ _ _ => !t.isFloat
  | .vmin t _ _ _ _ => !t.isFloat
  | .vmax t _ _ _ _ => !t.isFloat
  | .vabs t _ _ _ => !t.isFloat
  | .vsadd t _ _ _ _ => !t.isFloat
  | .vssub t _ _ _ _ => !t.isFloat
  | .vand t _ _ _ _ => !t.isFloat
  | .vor t _ _ _ _ => !t.isFloat
  | .vxor t _ _ _ _ => !t.isFloat
  | .vnot t _ _ _ => !t.isFloat
  | .vshl t _ _ _ _ => !t.isFloat
  | .vshr t _ _ _ _ => !t.isFloat
  | .vsar t _ _ _ _ => !t.isFloat
  | .vfcmpEq t _ _ _ _ => t.isFloat
  | .vfcmpLt t _ _ _ _ => t.isFloat
  | .vfcmpLe t _ _ _ _ => t.isFloat
  | .vfcmpUn t _ _ _ _ => t.isFloat
  | .vcmpEq t _ _ _ _ => !t.isFloat
  | .vcmpLt t _ _ _ _ => !t.isFloat
  | .vcmpLe t _ _ _ _ => !t.isFloat
  | .vcmpLtu t _ _ _ _ => !t.isFloat
  | .vcmpLeu t _ _ _ _ => !t.isFloat
  | .vsel _ _ _ _ m => m != 0
  | .vcvt t src _ _ _ => t.converts src
  | .vpack t src _ _ _ => t.packs src
  | .vunpack t src _ _ _ => t.unpacks src
  | .iflush _ _ | .tlbi _ _ | .trap _ | .ctlr _ _ | .ctlw _ _ | .add _ _ _ | .sub _ _ _ | .and _ _ _
  | .or _ _ _ | .xor _ _ _ | .andn _ _ _ | .shl _ _ _ | .shr _ _ _ | .sar _ _ _ | .mul _ _ _ | .mulh _ _ _
  | .mulhu _ _ _ | .div _ _ _ | .divu _ _ _ | .rem _ _ _ | .remu _ _ _ | .min _ _ _ | .max _ _ _
  | .minu _ _ _ | .maxu _ _ _ | .seq _ _ _ | .sne _ _ _ | .slt _ _ _ | .sltu _ _ _ | .clz _ _ | .ctz _ _
  | .popc _ _ | .brev _ _ | .bswap _ _ | .sext _ _ _ | .zext _ _ _ | .cmov _ _ _ | .addi _ _ _
  | .andi _ _ _ | .ori _ _ _ | .xori _ _ _ | .shli _ _ _ | .shri _ _ _ | .sari _ _ _ | .slti _ _ _
  | .sltiu _ _ _ | .movi _ _ | .moviLong _ _ | .movhi _ _ | .adrpc _ _ | .adrpcLong _ _ | .adda _ _ _
  | .suba _ _ _ | .movas _ _ | .movsa _ _ | .movah _ _ | .movha _ _ | .aidx _ _ _ | .slta _ _ _
  | .addai _ _ _ | .addaiLong _ _ _ | .beq _ _ _ | .bne _ _ _ | .blt _ _ _ | .bge _ _ _ | .bltu _ _ _
  | .bgeu _ _ _ | .jmp _ | .call _ | .jr _ | .callr _ | .loop _ _ | .loopi _ _ | .realign _ | .ld _ _ _ _ _
  | .st _ _ _ _ _ | .ldv _ _ _ _ _ | .stv _ _ _ _ _ | .pull _ _ _ _ _ | .pullv _ _ _ _ | .amoadd _ _ _ _ _
  | .amoand _ _ _ _ _ | .amoor _ _ _ _ _ | .amoxor _ _ _ _ _ | .amomin _ _ _ _ _ | .amomax _ _ _ _ _
  | .amominu _ _ _ _ _ | .amomaxu _ _ _ _ _ | .amoswap _ _ _ _ _ | .amocas _ _ _ _ _ | .fence _ _
  | .seqadvMax _ _ _ _ | .seqadvAdd _ _ _ _ | .watch _ _ _ _ | .waitw _ _ | .waita _ _ _ _ _
  | .waitc _ _ _ _ | .barinit _ _ _ | .barwait _ _ | .baradd _ _ | .keygive _ _ | .keytake _ _
  | .keyqry _ _ | .stashcfg _ _ | .mand _ _ _ | .mor _ _ _ | .mnot _ _ | .mpopc _ _ | .vbcast _ _ _ _
  | .vmovs _ _ _ _ | .vins _ _ _ _ | .vperm _ _ _ _ _ | .vslide _ _ _ _ _ | .viota _ _ _ | .vredadd _ _ _ _
  | .vredmax _ _ _ _ | .vredmin _ _ _ _ | .vredmaxi _ _ _ _ | .vredmini _ _ _ _
  | .vgather _ _ _ _ _ | .vscatter _ _ _ _ _ | .mma _ _ _ _ _
  | .mzero _ | .mdrain _ _ _ _ | .mload _ _ _ | .semsig _ | .semwait _ | .mcfg _ | .bfmt _ _
  | .bpull _ _ _ _ _ | .bpulla _ _ _ _ _ | .bcopy _ _ _ _ _ | .ecmd _ | .mdec _ _ _ _ _ _
  | .lodge _ _ _ _ _ _ | .msend _ _ | .msendPost _ _ | .msendRetry _ | .mrecv _ | .mrecvRep _ | .mpeek _
  | .mpeekRep _ | .mreply _ | .mbind _ _ | .coll _ | .skinit _ _ _ | .skinitTab _ _ _ | .skupd _ _ _ _
  | .skupdV _ _ _ _ | .skqry _ _ _ | .skadd _ _ | .skscl _ _ | .skclr _ | .sksat _ _ | .sksatClr _ _
  | .xadd _ _ _ | .xsub _ _ _ | .xmul _ _ _ | .xfma _ _ _ | .xdiv _ _ _ | .xsqrt _ _ | .xrnd _ _
  | .xneg _ _ | .xabs _ _ | .xmov _ _ | .xscale _ _ _ | .xexp _ _ | .xcmp _ _ _ | .xlen _ _
  | .xcvtWindowFromInt64 _ _ | .xcvtWindowFromFp64 _ _ | .xcvtWindowFromUint64 _ _ | .xcvtScalarToInt64 _ _
  | .xcvtScalarToFp64 _ _ | .xcvtScalarToUint64 _ _ | .xld _ _ _ _ | .xst _ _ _ _ | .xalloc _ _ _
  | .xfree _ | .xsetp _ | .xgetp _ | .tspawn _ _ _ | .tjoin _ _ | .texit _ | .tpath _ _ | .cores _ _
  | .tcancel _ _ _ | .grun _ _ _ | .gcond _ _ | .gstat _ _ | .nop | .idle | .bkpt | .eret | .halt | .ret
  | .tyield | .ujidxDiscard | .realignLimitExpiry | .idleTimeout | .matrixCompletion | .taskDispatch
  | .preemption | .supervisorRestoreEntry | .quantumExpiry | .cancelGraceExpiry | .watchdogExpiry
  | .asyncTrapEntry | .queueLaunchEntry | .queueGraphEntry | .queuePhaseBoundary | .graphLaunchNode
  | .graphEngineJobNode | .graphConditionalNode | .graphWhileNode | .graphSignalNode | .lineRead
  | .lineReply | .loadCompletion | .keyholeRead | .watchRequest | .watchAnswer | .storePerformed
  | .atomicPerformed | .l1WriteThrough | .stashEviction | .messageRequest | .messageReply
  | .postedAcceptance | .postedRefusal | .sendQueueAcceptance | .engineJobStart | .enginePayloadPart
  | .engineJobCompletion | .collectiveStep | .collectiveCompletion | .mediaFrame | .lodgingCopyCompletion
  | .powerUp | .mreset | .cxlHotReset | .cxlLinkDown | .fwgo | .firmwareVerificationDone | .bar2HostRead
  | .bar2HostWrite | .keyhand | .jobctlEnable | .jobctlEnd | .jobctlCancel | .glcmdLoad | .glcmdUnload
  | .graphLoaderCompletion | .qtailWrite | .qctlCancel | .qctlClearError | .queueSwitchOut
  | .queueSwitchOutDone | .queueSwitchIn | .queueSwitchInDone | .powerStateEntry | .powerWake
  | .powerWindow | .thermalLimit | .tokenBucketRefill | .htlbcmd | .tlbInvalidationDone | .sropCommit
  | .sropCommitDone | .skopWrite | .skopRead | .skopFree | .sctxSave | .sctxRestore | .sprotWrite
  | .nlctlTrain | .nlctlDown | .nlctlClearFailed | .narlorPortUp | .dataFlit | .idleFlit | .retryRequest
  | .narlorPortFailure | .neqpopCreate | .neqpopForceError | .neqpopDestroy | .nergopRegister
  | .nergopDeregister | .deregistrationDone | .workDeposit | .workRead | .depositData | .depositLast
  | .readRequest | .readData | .ack | .nak | .retransmitTimeout | .depositAbandonTimeout
  | .lockInterfaceRequest | .startInterfaceRequest | .stopInterfaceRequest | .getDeviceInterfaceReport
  | .ideStreamFailure | .ideKm | .getVersion | .getCapabilities | .negotiateAlgorithms | .getDigests
  | .getCertificate | .challenge | .getMeasurements | .keyExchange | .finish | .endSession | .preset
  | .mfence | .fencemWrite | .remapWindow | .patrolScrub | .uncorrectableError | .tsnap | .registerWrite
  | .illegalInstruction | .fetchTranslation | .firmwareFailure | .keyholePortUp | .keyholePortDown => true

/-- A well-formed instruction, as a proposition. -/
abbrev Instr.WF (i : Instr) : Prop := i.wellFormed = true

end Sys2Proof
end

