-- ==== Sys2Proof/Machine/Fetch.lean ====
section
/-!
DEFINITION. Fetching an instruction (06 R134, 08 R172, R183, R184; 21 R379), the two traps a fetch ends in, and the
conditions under which a decoded instruction does not issue yet (10 R210, R213).
-/
namespace Sys2Proof.Machine

/-- What fetching one 32-bit word gives: the word, a failed translation, a poisoned line, a line of this module that the
instruction cache does not hold, or one that has to come from another module first. -/
inductive WordFetch where
  | word (w : Nat)
  | fault
  | poison
  | miss (line : Nat)
  | away (e : Elem)
  deriving DecidableEq, Repr

/-- The word at an address of a line. -/
def lineWord (v : Vec) (a : Nat) : Nat := v.toNat / 2 ^ (8 * (a % 64)) % 2 ^ 32

/-- Fetches one word through the tile's instruction cache: its line as the cache holds it or as memory holds it now, as
the free choice says (R134); a line with a poisoned word is a poisoned line (21 R379). -/
def fetchWord (s : State) (va : Addr) : WordFetch :=
  match translate s s.tid va .fetch with
  | .error _ => .fault
  | .ok l =>
    let g := l.pa / 64
    let held := (s.tile (tileOf s.tid)).icache.find? g
    if moduleOf l.pa == s.regs.modnum then
      let bad := truthBad s (localOf l.pa / 64 * 64) 64
      match held with
      | some v =>
        let now := natOfBytes (truthRead s (localOf l.pa) 4)
        if lineWord v l.pa = now && !bad then .word now
        else if Config.fetchesOld s.serial g s.cur then .word (lineWord v l.pa)
        else if bad then .poison
        else .word now
      | none => if bad then .poison else .miss g
    else
      match held with
      | some v => .word (lineWord v l.pa)
      | none => .away { va := va &&& ~~~(63 : Addr), pa := l.pa / 64 * 64, size := 64, place := placeOf s (clusterOf s.tid) (l.pa / 64 * 64) }

/-- What fetching the instruction at the PC gives. -/
inductive Fetch where
  | instr (i : Instr)
  | illegal
  | fault (va : Addr)
  | poison (va : Addr)
  | miss (line : Nat)
  | away (e : Elem)
  deriving DecidableEq, Repr

/-- The decoder's answer to the fetched words. -/
def fetchDecoded (d : Decoded) : Fetch :=
  match d with
  | .ok i => if i.wellFormed then .instr i else .illegal
  | .bad _ => .illegal

/-- Fetches the current thread's instruction (R184): the first word's failure is reported before the extension
word's, and a word without a long form needs no second word. -/
def fetchInstr (s : State) : Fetch :=
  let pc := s.th.pc
  match fetchWord s pc with
  | .fault => .fault pc
  | .poison => .poison pc
  | .miss l => .miss l
  | .away e => .away e
  | .word w =>
    if needsExt w then
      match fetchWord s (pc + 4) with
      | .fault => .fault (pc + 4)
      | .poison => .poison (pc + 4)
      | .miss l => .miss l
      | .away e => .away e
      | .word x => fetchDecoded (decodeWords w x)
    else fetchDecoded (decodeWords w 0)

/-- `FETCH_TRANSLATION` (R184): the fetch of the thread's instruction fails; nothing where it does not. -/
def execFetchTranslation (s : State) : Result :=
  match fetchInstr s with
  | .fault va => s.trap { code := 0x04, fva := va }
  | _ => .next s

/-- `ILLEGAL_INSTRUCTION` (R183): the words at the PC are no instruction; nothing where they are one. -/
def execIllegalInstruction (s : State) : Result :=
  match fetchInstr s with
  | .illegal => s.illegal
  | _ => .next s

/-- Lines one instruction cache holds (64 KiB; 01 R10). -/
def icacheLines : Nat := 1024

/-- The instruction cache of a tile takes a line; where it is full its first line leaves (log entry 129). -/
def Tile.cacheCode (t : Tile) (line : Nat) (v : Vec) : Tile :=
  let left : Assoc Vec := if icacheLines ≤ t.icache.length && (t.icache.find? line).isNone then List.drop 1 t.icache else t.icache
  { t with icache := left.put line v }

/-- The tile's instruction cache takes a line of this module (01 R10); the translation of the fetch may be held from now on (19 R340). -/
def State.fetchMiss (s : State) (line : Nat) : State :=
  ((s.holdLeaves s.tid [s.th.pc, s.th.pc + 4]).serve false (line * 64 % 2 ^ 44 / 64 * 64) 64).updTile (tileOf s.tid) fun t => t.cacheCode line (truthLine s (line * 64 % 2 ^ 44 / 64))

/-- A line of code comes from another module: a line read is outstanding until its reply, which the instruction cache
takes (06 R116), unless an `IFLUSH` came between: the line is then read anew. -/
def State.fetchAway (s : State) (e : Elem) : Result :=
  let mine := fun (o : Out) => match o.kind, o.elems with
    | .load .keep _ _, [x] => x.va == e.va && x.size == 64
    | _, _ => false
  match List.find? mine s.th.outs with
  | some o =>
    if o.elems.all (·.home) then
      let s := s.upd fun t => t.dropOut o.serial
      if o.elems.any (·.poison) then .next (takeTrap s s.tid { code := 0x16, fva := if s.th.pc &&& ~~~(63 : Addr) = e.va then s.th.pc else s.th.pc + 4 } true s.th.pc)
      else if o.elems.any (·.nofill) then .next s
      else .next (s.updTile (tileOf s.tid) fun t => t.cacheCode (e.pa / 64) (vecOfBytes (o.elems.flatMap (·.bytes))))
    else s.stall
  | none => (s.issueOut (.load .keep .weak false) e.va [e] id).stall

/-! ### Whether an instruction issues -/

/-- The registers that accepted matrix instructions of a thread are to write (12 R251). -/
def drainDests (s : State) (tid : Nat) : List Reg :=
  (s.tile (tileOf tid)).queue.filterMap fun q =>
    if q.tid = tid then match q.instr with | .mdrain d _ _ _ => some (.s d) | _ => none else none

/-- The instructions that wait in `Thread.hold` and go on where they find their wait over. -/
def holdsOn (i : Instr) : Bool := match i with | .idle | .realign _ | .tlbi _ _ => true | _ => false

/-- The registers an instruction of a thread names; the return from a supervisor handler writes the three that its entry saved (19 R348). -/
def namedBy (t : Thread) (i : Instr) : List Reg :=
  match i with
  | .eret => if t.sup.act then [.s 30, .s 31, .a 6] else []
  | _ => instrNames i

/-- Whether an instruction of the current thread names a register that an outstanding load, pull, atomic, sequence
advance, matrix drain or sketch query is to write (10 R210); `s0` is never waited for. Another instruction than the one that began a wait,
fetched in its place (06 R134), first drops that wait. -/
def waitsFor (s : State) (i : Instr) : Bool :=
  (s.th.hold.isSome && !holdsOn i) || (namedBy s.th i).any fun r =>
    r != .s 0 && ((s.th.outs.any fun o => o.dest == some r) || (drainDests s s.tid).contains r)

/-- The 8-byte words of a vector register that an instruction which names it reads: all of them (11 R231), but for a store of its low
bytes (10 R212). -/
def wordsRead (i : Instr) : Nat :=
  match i with
  | .stv .lo32 _ _ _ _ => 4
  | .stv .lo16 _ _ _ _ => 2
  | .stv .lo8 _ _ _ _ => 1
  | _ => 8

/-- Whether an instruction reads a register word an uncorrectable error has struck (21 R379). -/
def readsBad (t : Thread) (i : Instr) : Bool :=
  (match i with
    | .ctlr _ n => (n == 0x105 && t.sup.savBad.contains (.s 30)) || (n == 0x106 && t.sup.savBad.contains (.s 31)) ||
        (n == 0x107 && t.sup.savBad.contains (.a 6))
    | _ => false) || !t.bad.isEmpty && ((maskReads i).any fun m => t.bad.contains (.m m)) || !t.bad.isEmpty && (instrReads i).any fun r =>
    match r with
    | .s x => x != 0 && t.bad.contains (.s x)
    | .a x => t.bad.contains (.a x)
    | .v x => (range 0 (wordsRead i)).any fun w => t.bad.contains (.v x (BitVec.ofNat 3 w))
    | .w x => match t.rw x with
        | some w => (range w.base w.len).any fun k => t.bad.contains (.limb k)
        | none => false

end Sys2Proof.Machine
end

