-- ==== Sys2Proof/Machine/Graphs.lean ====
section
/-!
DEFINITION. Resident graphs: the nodes' moves (02 R30, R31; 18 R329) and the graph loaders (18 R330). A graph's key is
64 times its die plus its index.
-/
namespace Sys2Proof.Machine

/-! ### Edges (02 R31) -/

/-- The global physical 4 KiB units of a region of a job's address space. -/
def regionUnits (s : State) (j : Nat) (r : Addr × Nat) : List Nat :=
  (range 0 r.2).filterMap fun i => (walkSlot s j (r.1 + BitVec.ofNat 80 (4096 * i))).map (·.pa / 4096)

/-- Cleans and invalidates units at module scope: dirty L1 words of them are written through, and every core's clean
copies, remote lines and read-only stash lines of them are dropped. -/
def syncUnits (s : State) (us : List Nat) : State :=
  let mine := (us.filter fun u => u / 2 ^ 32 == s.regs.modnum).map (· % 2 ^ 32)
  let s := (s.cores.map (·.1)).foldl (fun s k =>
    flushWords s k (((s.core k).dirty.map (·.1)).filter fun w => mine.contains (w / 1024))) s
  let out := fun (gline : Nat) => us.contains (gline / 64)
  { s with cores := s.cores.map fun (k : Nat × Core) => (k.1, { k.2 with lines := k.2.lines.filter fun l => !out l.1 })
           clusters := s.clusters.map fun (c : Nat × Cluster) => (c.1, { c.2 with
             remote := c.2.remote.filter fun l => !out l.1
             stashLines := c.2.stashLines.filter fun l => l.2.owned || !out (l.1 % 2 ^ 60) }) }

/-- The regions of a node's incoming edges. -/
def incoming (g : Graph) (n : Nat) : List (Addr × Nat) :=
  g.nodes.flatMap fun p => (p.succs.zip p.edges).flatMap fun x => if x.1 = n then x.2 else []

/-! ### Nodes -/

/-- A node of a running graph that may start now, of one of the given kinds (02 R31). -/
def dueNode (s : State) (k n kind : Nat) : Option (Graph × GraphRun × Node) :=
  match s.graphs.find? k with
  | none => none
  | some g =>
    match g.run, g.nodes[n]? with
    | some r, some x => if x.kind = kind ∧ r.cancel = false ∧ nodeReady g r n then some (g, r, x) else none
    | _, _ => none

/-- A node starts: its incoming regions are cleaned and invalidated first. -/
def beginNode (s : State) (k n : Nat) (g : Graph) : State :=
  let s := syncUnits s ((incoming g n).flatMap (regionUnits s g.slot))
  s.updGraph k fun g => { g with run := g.run.map fun r =>
    { r with states := setNth r.states n .started, due := r.due.filter (· != n) } }

/-- The graph is cancelled with a cause that one of its nodes met (18 R329). -/
def failNode (s : State) (k n cause : Nat) : State := nodeCancelled (cancelGraph s false k cause) k n cause

/-- `GRAPH_LAUNCH_NODE` (02 R30, R33): node b of graph a. A refused launch counts as complete. -/
def execGraphLaunchNode (s : State) : Result :=
  match dueNode s s.ev.a s.ev.b 1 with
  | none => .next s
  | some (g, _, x) =>
    let s := beginNode s s.ev.a s.ev.b g
    match (if allZero (sliceBytes x.command 32 32) then acceptLaunch s g.slot x.command else none) with
    | some l => .next (startLaunch s { l with node := some (s.ev.a, s.ev.b) } (vecOfBytes (sliceBytes x.command 64 64)))
    | none => .next (nodeDone (refuseLaunch s g.slot) s.ev.a s.ev.b x.succs)

/-- The party a graph node's card is checked under: the graph walker's, on the cluster the node names (18 R329). -/
def nodeParty (s : State) (k n : Nat) (g : Graph) (x : Node) : Party :=
  { tid := x.selector * 144, task := none, cluster := x.selector, slot := g.slot, asid := (s.slot g.slot).asid
    code := keySup, graph := some (k, n) }

/-- `GRAPH_ENGINE_JOB_NODE` (02 R30, 18 R329): node b of graph a hands its card to the engines of its cluster, once there
is a place. -/
def execGraphEngineJobNode (s : State) : Result :=
  match dueNode s s.ev.a s.ev.b 2 with
  | none => .next s
  | some (g, _, x) =>
    let p := nodeParty s s.ev.a s.ev.b g x
    if Config.jobPlaces ≤ (s.cluster p.cluster).jobs.length then .next s
    else
      let s := beginNode s s.ev.a s.ev.b g
      match readJob s g.slot x.word 256 with
      | none => .next (failNode s s.ev.a s.ev.b (if (walkSlot s g.slot x.word).isNone then 0x05 else 0x16))
      | some card =>
        match cardFault s p false card with
        | some t => .next (failNode s s.ev.a s.ev.b t.code)
        | none => .next (acceptCard s p false card)

/-- The condition word of a node, read with an acquire of module scope (02 R31). -/
def condition (s : State) (g : Graph) (x : Node) : Option Nat := (readJob s g.slot x.word 8).map natOfBytes

/-- A conditional or while node chooses among its successors. -/
def chooseNode (s : State) (kind : Nat) (pick : Node → Nat → Option Nat) : Result :=
  match dueNode s s.ev.a s.ev.b kind with
  | none => .next s
  | some (g, _, x) =>
    let s := beginNode s s.ev.a s.ev.b g
    match condition s g x with
    | none => .next (failNode s s.ev.a s.ev.b (if (walkSlot s g.slot x.word).isNone then 0x05 else 0x16))
    | some w => .next (nodeDone s s.ev.a s.ev.b ((pick x w).toList))

/-- `GRAPH_CONDITIONAL_NODE` (02 R30): successor min(w, n − 1). -/
def execGraphConditionalNode (s : State) : Result :=
  chooseNode s 3 fun x w => x.succs[min w (x.succs.length - 1)]?

/-- `GRAPH_WHILE_NODE` (02 R30): the body while the word is nonzero, then the exit. -/
def execGraphWhileNode (s : State) : Result :=
  chooseNode s 4 fun x w => x.succs[if w = 0 then 1 else 0]?

/-- The unit a signal node may write (18 R329): cluster-open for its job, or held by the supervisor, at the owner. -/
def signalKey (s : State) (slot a : Nat) : Bool :=
  match (spaceOf a).cluster? with
  | none => false
  | some c => match keyAt (s.cluster c) (unitOf a) with
    | some (_, e) => e.holder == keySup || (e.holder == keyOpen && e.job == slot && !(s.slot slot).det)
    | none => false

/-- The word a signal node writes, or the cause that cancels its graph. -/
def signalWord (s : State) (j : Nat) (va : Addr) : Except Nat Nat :=
  match walkSlot s j va with
  | none => .error 0x05
  | some l =>
    if va.toNat % 8 ≠ 0 then .error 0x03
    else if moduleOf l.pa ≠ s.regs.modnum ∨ ¬ l.w then .error 0x06
    else if ¬ backed s (localOf l.pa) then .error 0x05
    else if signalKey s j (localOf l.pa) then .ok (localOf l.pa) else .error 0x07

/-- `GRAPH_SIGNAL_NODE` (02 R30, 18 R329): raises a sequence word, writes a completion word, or advances the graph's host
progress count: that of the queue that started the run; a run started by `GRUN` has none, and nothing advances (log entry 116).
A poisoned sequence word is not written. -/
def execGraphSignalNode (s : State) : Result :=
  match dueNode s s.ev.a s.ev.b 5 with
  | none => .next s
  | some (g, r, x) =>
    let s := beginNode s s.ev.a s.ev.b g
    if x.selector = 2 then
      let s := match r.queue with
        | some (q, _) => s.updQueue q fun qu => { qu with sig := (qu.sig + 1) % 2 ^ 16 }
        | none => s
      .next (nodeDone s s.ev.a s.ev.b x.succs)
    else
      match signalWord s g.slot x.word with
      | .error c => .next (failNode s s.ev.a s.ev.b c)
      | .ok a =>
        let v := if x.selector = 0 then max (truthWord s a).toNat x.v.toNat else x.v.toNat
        let s := wakeAt s a
        let s := if x.selector = 0 && truthBad s a 8 then s else truthWrite s (s.slot g.slot).asid x.word a (bytesOfNat 8 v)
        .next (nodeDone s s.ev.a s.ev.b x.succs)

/-! ### Loading (18 R329, R330) -/

/-- The node record at an offset of an image of n nodes. -/
def nodeOf (bs : List Byte) (n i : Nat) : Node :=
  let o := 64 + 256 * i
  let k := min 8 (natAt bs (o + 1) 1)
  let edge := fun (x : Nat) => (range 0 4).filterMap fun r =>
    let p := 64 + 256 * n + 512 * i + 64 * x + 16 * r
    if natAt bs (p + 10) 4 = 0 then none else some (BitVec.ofNat 80 (natAt bs p 10), natAt bs (p + 10) 4)
  { kind := natAt bs o 1, selector := natAt bs (o + 2) 1, succs := (range 0 k).map fun x => natAt bs (o + 8 + 2 * x) 2
    word := BitVec.ofNat 80 (natAt bs (o + 32) 10), v := BitVec.ofNat 64 (natAt bs (o + 48) 8)
    command := sliceBytes bs (o + 64) 128, edges := (range 0 k).map edge }

/-- Whether a node record is well formed (status 1): kind, selector, reserved bytes, successor indices. -/
def nodeForm (bs : List Byte) (n die i : Nat) : Bool :=
  let o := 64 + 256 * i
  let x := nodeOf bs n i
  let k := natAt bs (o + 1) 1
  let zero := fun (a m : Nat) => allZero (sliceBytes bs (o + a) m)
  let edges := 64 + 256 * n + 512 * i
  1 ≤ x.kind && x.kind ≤ 5 &&
    (match x.kind with
      | 2 => x.selector < 64 && dieOf x.selector == die
      | 5 => x.selector ≤ 2
      | _ => x.selector == 0) &&
    zero 3 5 && zero (8 + 2 * min 8 k) (16 - 2 * min 8 k) && zero 24 8 && zero 42 6 && zero 56 8 && zero 192 64 &&
    (x.kind == 5 || zero 48 8) && (x.kind == 1 || zero 64 128) &&
    (x.kind == 2 || x.kind == 3 || x.kind == 4 || (x.kind == 5 && x.selector ≤ 1) || zero 32 10) &&
    (x.kind != 4 || k == 2) && x.succs.all (· < n) &&
    (range 0 (4 * min 8 k)).all (fun r => allZero (sliceBytes bs (edges + 16 * r + 14) 2)) &&
    allZero (sliceBytes bs (edges + 64 * min 8 k) (512 - 64 * min 8 k))

/-- Whether a node's regions are aligned and its condition word lies in a region of an incoming edge (status 3). -/
def nodeRegions (g : Graph) (i : Nat) : Bool :=
  match g.nodes[i]? with
  | none => true
  | some x =>
    (x.edges.flatMap id).all (fun r => r.1.toNat % 4096 == 0) &&
      ((x.kind != 3 && x.kind != 4) || (incoming g i).any fun r =>
        r.1.toNat ≤ x.word.toNat && x.word.toNat + 8 ≤ r.1.toNat + 4096 * r.2)

/-- The nodes that lie on a cycle that no while node's body closes (R329). -/
def cyclic (ns : List Node) : List Nat :=
  let next := fun i => match ns[i]? with
    | some x => if x.kind = 4 then x.succs.drop 1 else x.succs
    | none => []
  (range 0 ns.length).filter fun i => (reach next ns.length (next i)).contains i

/-- The status of loading an image (R330) and its first offending node, or the graph. -/
def parseGraph (s : State) (die slot addr : Nat) : Except (Nat × Nat) Graph :=
  let ok := fun (a : Nat) => match spaceOf a with
    | .hbm _ _ | .tier2 _ _ => backed s a
    | _ => false
  if !ok addr || truthBad s addr 64 then .error (7, 0)
  else
    let h := truthRead s addr 64
    let n := natAt h 6 2
    if natAt h 0 4 ≠ 0x47524E53 ∨ natAt h 4 2 ≠ 1 ∨ ¬ allZero (sliceBytes h 16 48) ∨ n = 0 then .error (1, 0)
    else if n > 1024 then .error (2, 0)
    else if natAt h 8 8 ≠ 64 + 768 * n then .error (1, 0)
    else if !((range 0 (12 * n + 1)).all fun i => ok (addr + 64 * i)) || truthBad s addr (64 + 768 * n) then .error (7, 0)
    else
      let bs := truthRead s addr (64 + 768 * n)
      let ns := (range 0 n).map (nodeOf bs n)
      let g : Graph := { slot := slot, nodes := ns }
      match (range 0 n).find? fun i => natAt bs (64 + 256 * i + 1) 1 > 8, (range 0 n).find? fun i => !nodeForm bs n die i,
          cyclic ns, (range 0 n).find? fun i => !nodeRegions g i with
      | some i, _, _, _ => .error (2, i)
      | none, some i, _, _ => .error (1, i)
      | none, none, i :: _, _ => .error (1, i)
      | none, none, [], some i => .error (3, i)
      | none, none, [], none => .ok g

/-- A write of `GLCMD` of die d that takes effect (R330): one operation, no other bit set, no command in progress. -/
def loaderWrite (s : State) (die : Nat) (v : Word) (op : Nat) : State :=
  let d := die % 2
  if s.regs.glBusy[d]! ∨ field v 16 2 ≠ op ∨ v &&& ~~~(0x30F3F : Word) ≠ 0 then s
  else { s with regs := { s.regs with glBusy := s.regs.glBusy.set! d true, glCmd := s.regs.glCmd.set! d v.toNat } }

/-- `GLCMD_LOAD` (R330): die a, value v. -/
def execGlcmdLoad (s : State) : Result := .next (loaderWrite s s.ev.a s.ev.v 1)

/-- `GLCMD_UNLOAD` (R330). -/
def execGlcmdUnload (s : State) : Result := .next (loaderWrite s s.ev.a s.ev.v 2)

/-- A loader's command performed: the new state with the status and the offending node. -/
def loaderWork (s : State) (die cmd : Nat) : State × Nat × Nat :=
  let j := fld cmd 8 4
  let k := die * 64 + fld cmd 0 6
  let sl := s.slot j
  if !sl.en || (s.regs.pcfg && sl.part != die) then (s, 6, 0)
  else if fld cmd 16 2 = 1 then
    if (s.graphs.find? k).isSome then (s, 4, 0)
    else
      match parseGraph s die j s.regs.glAddr[die]! with
      | .error (st, n) => (wakeAt s s.regs.glAddr[die]!, st, n)
      | .ok g => ({ wakeAt s s.regs.glAddr[die]! with graphs := s.graphs.put k g }, 0, 0)
  else
    match s.graphs.find? k with
    | some g => if g.slot = j ∧ g.run.isNone then ({ s with graphs := s.graphs.drop k }, 0, 0) else (s, 5, 0)
    | none => (s, 5, 0)

/-- `GRAPH_LOADER_COMPLETION` (R330): the loader of die a performs its command in one step. -/
def execGraphLoaderCompletion (s : State) : Result :=
  let d := s.ev.a % 2
  if !s.regs.glBusy[d]! then .next s
  else
    let r := loaderWork s d s.regs.glCmd[d]!
    .next { r.1 with regs := { r.1.regs with glBusy := r.1.regs.glBusy.set! d false, glStatus := r.1.regs.glStatus.set! d r.2.1
                                             glNode := r.1.regs.glNode.set! d r.2.2 } }

end Sys2Proof.Machine
end

