-- ==== Sys2Proof/Machine/Queues.lean ====
section
/-!
DEFINITION. Host accesses to BAR0 (18 R323), host queues (18 R331–R333) and the phases of jobs (02 R29).
-/
namespace Sys2Proof.Machine

/-! ### Host accesses to BAR0 (18 R323, R334; 20 R366) -/

/-- Logs a host-port error (18 R334): the first is kept until the host clears it, and signals vector 65. -/
def logHerr (s : State) (cause addr : Nat) : State :=
  if s.regs.herrV then { s with regs := { s.regs with herrOvf := true } }
  else State.signal { s with regs := { s.regs with herrV := true, herrCause := cause, herrAddr := BitVec.ofNat 64 addr } } 65

/-- The BAR0 ranges of an interface: its slot's block, its queues' registers and its token buckets (18 R324). -/
def interfaceRanges (s : State) (j : Nat) : List (Nat × Nat) :=
  [(0x080000 + 0x100 * j, 0x100), (0x100000 + 0x1000 * j, 0x1000)] ++
    (s.queues.filter fun q => q.2.slot == j).map fun q => (0x200000 + 0x1000 * q.1, 0x1000)

/-- Whether an interface's traffic on a stream is rejected (R366): its own stream alone is accepted while it is in
CONFIG_LOCKED or RUN. -/
def wrongStream (s : State) (j : Nat) (stream : Option Nat) : Bool :=
  ((s.slot j).tdi == .locked || (s.slot j).tdi == .run) && !(stream == some j && (s.slot j).ide.isSome)

/-- Whether a host access to a BAR0 offset comes on a stream that an interface rejects. -/
def barRejected (s : State) (off : Nat) (stream : Option Nat) : Bool :=
  (range 0 16).any fun j => wrongStream s j stream && (interfaceRanges s j).any fun r => r.1 ≤ off && off < r.1 + r.2

/-- A host write of a BAR0 register, dropped and logged where its stream is rejected. -/
def State.barWrite (s : State) (off : Nat) (t : State) : Result :=
  .next (if barRejected s off s.ev.slot then logHerr s 0x06 off else t)

/-- Whether a job slot's work may start: the module runs, and the slot is enabled, in RUN and not ending (18 R325, R327; 20
R365). -/
def slotRuns (s : State) (j : Nat) : Bool :=
  s.regs.mstate == 2 && (s.slot j).en && (s.slot j).tdi == .run && (s.slot j).ending.isNone

/-- Line i of the next entry of a queue, as host memory holds it (R331). -/
def entryLine (s : State) (q i : Nat) : List Byte :=
  let qu := s.queue q
  truthRead s (hostBase + (qu.base + 128 * (qu.started % 2 ^ qu.k) + 64 * i) % 2 ^ 43) 64

/-- The 128 bytes of the next entry of a queue: each line as it was read ahead, or else as it is (R332). -/
def entryBytes (s : State) (q : Nat) : List Byte :=
  (((s.queue q).ahead.find? 0).getD (entryLine s q 0)) ++ (((s.queue q).ahead.find? 1).getD (entryLine s q 1))

/-- Whether a queue's next entry may be looked at. -/
def queueReady (s : State) (q : Nat) : Bool :=
  let qu := s.queue q
  q < 64 && qu.enable && qu.where_ == .resident && !qu.err && qu.started != qu.tail && slotRuns s qu.slot

/-- A queue goes into error (R332). -/
def queueError (s : State) (q cause : Nat) : State := s.updQueue q fun qu => { qu with err := true, cause := cause }

/-- The next entry starts as some work. -/
def startEntry (s : State) (q : Nat) (w : EntryWork) (done : Bool) : State :=
  let s := s.updQueue q fun qu =>
    { qu with entries := qu.entries ++ [{ idx := qu.started, work := w, done := done }], started := (qu.started + 1) % 2 ^ 32
              ahead := [] }
  if done then settleQueue s q else s

/-- Whether every entry started before the next is complete. -/
def earlierDone (s : State) (q : Nat) : Bool := (s.queue q).entries.all (·.done)

/-- The entry's type, and whether its own bytes [63:32] are well formed. -/
def entryForm (bs : List Byte) : Bool :=
  allZero (sliceBytes bs 35 29) && natAt bs 34 1 ≤ 1 &&
    (natAt bs 32 1 == 2 && natAt bs 33 1 / 64 % 2 == 0 || natAt bs 33 1 == 0)

/-- Runs the next entry of queue a where it has one of the event's types; with the flag the read of the ring fails. With b the
launch unit only reads line b − 1 of the entry, ahead of starting it. -/
def queueEntry (s : State) (typ : Nat → Bool) (k : Nat → List Byte → State) : Result :=
  let q := s.ev.a
  if !queueReady s q then .next s
  else if s.ev.flag then .next (queueError s q 3)
  else if s.ev.b = 1 ∨ s.ev.b = 2 then
    .next (s.updQueue q fun qu => { qu with ahead := qu.ahead.put (s.ev.b - 1) (entryLine s q (s.ev.b - 1)) })
  else
    let bs := entryBytes s q
    let prev : Bool := match (s.queue q).entries.getLast? with | some e => e.done | none => true
    if !typ (natAt bs 32 1) || (natAt bs 34 1 % 2 == 1 && !prev) then .next s
    else if !entryForm bs then .next (startEntry s q .refused true)
    else .next (k q bs)

/-- `QUEUE_LAUNCH_ENTRY` (R331): the next entry of queue a is a launch, or of a type that is refused. -/
def execQueueLaunchEntry (s : State) : Result :=
  queueEntry s (fun t => t != 2 && t != 3) fun q bs =>
    let j := (s.queue q).slot
    match (if natAt bs 32 1 = 1 then acceptLaunch s j bs else none) with
    | some l =>
      let i := (s.queue q).started
      startLaunch (startEntry s q (.launch l.handle) false) { l with queue := some (q, i) } (vecOfBytes (bs.drop 64))
    | none => startEntry (refuseLaunch s j) q .refused true

/-- `QUEUE_GRAPH_ENTRY` (R331): the next entry of queue a names a resident graph. -/
def execQueueGraphEntry (s : State) : Result :=
  queueEntry s (· == 2) fun q bs =>
    let k := natAt bs 33 1 / 128 * 64 + natAt bs 33 1 % 64
    match s.graphs.find? k with
    | some g =>
      if g.slot = (s.queue q).slot ∧ g.run.isNone then
        startGraph (startEntry s q (.graph k s.nextHandle) false) k (some (q, (s.queue q).started))
      else startEntry s q .refused true
    | none => startEntry s q .refused true

/-- Whether the job of a slot has no launch, graph or engine job left (02 R29). -/
def phaseOver (s : State) (j : Nat) : Bool :=
  (s.launches.all fun l => l.2.slot != j || l.2.state != .running) &&
    (s.graphs.all fun g => g.2.slot != j || g.2.run.isNone) &&
    s.clusters.all fun c => c.2.jobs.all fun x => x.slot != j

/-- `QUEUE_PHASE_BOUNDARY` (02 R29, R331): the boundary is reached once every earlier entry and all work of the phase is
complete; `JPROG` counts it. -/
def execQueuePhaseBoundary (s : State) : Result :=
  queueEntry s (· == 3) fun q _ =>
    let j := (s.queue q).slot
    if earlierDone s q && phaseOver s j then startEntry (s.updSlot j fun x => { x with prog := x.prog + 1 }) q .phase true else s

/-! ### Tail writes and control -/

/-- A write of a queue's tail (R332, R333). -/
def tailWrite (s : State) (q : Nat) (v : Word) : State :=
  let qu := s.queue q
  let t := field v 0 32
  let prev := qu.savedTail.getD qu.tail
  let s := wakePart s (s.slot qu.slot).part
  if (t + 2 ^ 32 - qu.prog) % 2 ^ 32 > 2 ^ qu.k then queueError s q 1
  else if (t + 2 ^ 32 - prev) % 2 ^ 32 ≥ 2 ^ 31 then queueError s q 2
  else if qu.where_ = .resident ∨ ¬ qu.enable then s.updQueue q fun x => { x with tail := t }
  else s.updQueue q fun x => { x with savedTail := some t }

/-- `QTAIL_WRITE` (R332): queue a, value v. -/
def execQtailWrite (s : State) : Result :=
  s.barWrite (0x200010 + 0x1000 * s.ev.a) (if s.ev.a < 64 then tailWrite s s.ev.a s.ev.v else s)

/-- Cancels every pending and started entry of a queue (R331). -/
def cancelQueue (s : State) (q : Nat) : State :=
  let s := (s.queue q).entries.foldl (fun s e => match e.work with
    | .launch h => cancelLaunch s true h 0x15
    | .graph g h => if ((s.graphs.find? g).bind (·.run)).any (·.handle == h) then cancelGraph s true g 0x15 else s
    | _ => s) s
  cancelPending s q

/-- `QCTL_CANCEL` (R331). -/
def execQctlCancel (s : State) : Result := s.barWrite (0x200020 + 0x1000 * s.ev.a) (if s.ev.a < 64 then cancelQueue s s.ev.a else s)

def clearQueueError (s : State) (q : Nat) : State :=
  s.updQueue q fun x => if x.enable then x else { x with err := false, cause := 0 }

/-- `QCTL_CLEAR_ERROR` (R331): only while the queue is disabled. -/
def execQctlClearError (s : State) : Result :=
  s.barWrite (0x200020 + 0x1000 * s.ev.a) (if s.ev.a < 64 then clearQueueError s s.ev.a else s)

/-! ### Residency (R333) -/

/-- Whether a launch unit has a place for one more resident queue: 8 on each die; in the one-partition mode the dies share
theirs. -/
def residentRoom (s : State) (q : Nat) : Bool :=
  let die := (s.slot (s.queue q).slot).part
  let n := (s.queues.filter fun x => x.1 != q && x.2.enable && x.2.where_ != .saved &&
    (!s.regs.pcfg || (s.slot x.2.slot).part == die)).length
  n < if s.regs.pcfg then 8 else 16

/-- What a queue is worth a place: one more than its job's priority where entries of it wait to start, else nothing. -/
def queueRank (s : State) (q : Nat) : Nat :=
  let qu := s.queue q
  if qu.enable && !qu.err && qu.savedTail.getD qu.tail != qu.started then (s.slot qu.slot).prio + 1 else 0

/-- The other enabled queues of a queue's launch unit in some residency. -/
def rivals (s : State) (q : Nat) (where_ : Residency) : List Nat :=
  (s.queues.filter fun x => x.1 != q && x.2.enable && x.2.where_ == where_ &&
    (!s.regs.pcfg || (s.slot x.2.slot).part == (s.slot (s.queue q).slot).part)).map (·.1)

/-- Whether a resident queue gives up its place: to a saved one with entries to start and no lower priority, where no other
resident is worth less (R333; log entry 117). -/
def givesWay (s : State) (q : Nat) : Bool :=
  ((rivals s q .saved).any fun x => 0 < queueRank s x && queueRank s q ≤ queueRank s x) &&
    (rivals s q .resident).all fun x => queueRank s q ≤ queueRank s x

/-- Whether a saved queue takes a free place: no other saved one is worth more. -/
def takesPlace (s : State) (q : Nat) : Bool := residentRoom s q && (rivals s q .saved).all fun x => queueRank s x ≤ queueRank s q

/-- `QPROG` but for its switching bit (R331). -/
def progWord (q : Queue) : Word :=
  BitVec.ofNat 64 ((if q.err then 2 ^ 62 else 0) + q.cause % 64 * 2 ^ 56 + q.sig % 2 ^ 16 * 2 ^ 32 + q.prog % 2 ^ 32)

/-- A queue's residency changes; while it switches, its progress shows as it is now (R333). -/
def moveQueue (s : State) (q : Nat) (next : Residency) : State :=
  s.updQueue q fun x => { x with where_ := next, shown := progWord x }

/-- `QUEUE_SWITCH_OUT` (R333): queue a. -/
def execQueueSwitchOut (s : State) : Result :=
  .next (if (s.queue s.ev.a).where_ = .resident ∧ givesWay s s.ev.a then moveQueue s s.ev.a .switchingOut else s)

/-- `QUEUE_SWITCH_OUT_DONE` (R333). -/
def execQueueSwitchOutDone (s : State) : Result :=
  .next (if (s.queue s.ev.a).where_ = .switchingOut then s.updQueue s.ev.a fun x => { x with where_ := .saved } else s)

/-- `QUEUE_SWITCH_IN` (R333). -/
def execQueueSwitchIn (s : State) : Result :=
  .next (if (s.queue s.ev.a).where_ = .saved ∧ takesPlace s s.ev.a then moveQueue s s.ev.a .switchingIn else s)

/-- `QUEUE_SWITCH_IN_DONE` (R333): a tail written meanwhile takes effect. -/
def execQueueSwitchInDone (s : State) : Result :=
  if (s.queue s.ev.a).where_ = .switchingIn then
    .next (settleQueue (s.updQueue s.ev.a fun x =>
      { x with where_ := .resident, tail := x.savedTail.getD x.tail, savedTail := none }) s.ev.a)
  else .next s

end Sys2Proof.Machine
end

