-- ==== Sys2Proof/Machine/Trusted.lean ====
section
/-!
DEFINITION. Trusted device interfaces (20 R365–R368), the end of a job and the clearing of what it leaves, the SPDM
responder (20 R369), and the fencing of the module itself (21 R373).
-/
namespace Sys2Proof.Machine

/-! ### Clearing (R368) -/

/-- The clusters a job's launches named. -/
def jobClusters (s : State) (j : Nat) : List Nat :=
  (s.launches.flatMap fun l => if l.2.slot = j then maskClusters l.2.mask else []).eraseDups

/-- Step 2: the keys of a TDI's regions are gone, so every word of them reads as poison. -/
def zeroiseKeys (s : State) (j : Nat) : State :=
  let us := (s.attach.filter fun x => x.2 == j).map (·.1)
  { (s.updSlot j fun x => { x with keysLive := false }) with stale := us.foldl (fun t u => t.put u []) s.stale }

/-- Step 3 in one cluster: units of banks and of the scratch part under the job's entries are zeroed; lines and ranges of
its stash ranges are dropped without write-back. -/
def clearCluster (s : State) (j c : Nat) : State :=
  let s := ((s.cluster c).keys.filter fun e => e.2.job == j).foldl (fun s e =>
    match spaceOf (e.2.base * 4096) with
    | .bank _ _ _ _ | .store _ _ => zeroBytes s (e.2.base * 4096) (e.2.len * 4096)
    | _ => s) s
  s.updCluster c fun cl =>
    { cl with stashLines := cl.stashLines.filter fun l => l.2.job != j || (cl.ranges.any fun r => r.job == j) == false
              ranges := cl.ranges.filter fun r => r.job != j
              inboxes := cl.inboxes.filter fun b => b.2.job != j }

/-- Step 4 in one cluster: clean copies are dropped where the job ran, and its key entries freed. -/
def dropCopies (s : State) (j : Nat) (ran : List Nat) : State :=
  let s := (s.cores.map (·.1)).foldl (fun s k => if ran.contains (k / 36) then flushCore s k else s) s
  { s with cores := s.cores.map fun (k : Nat × Core) => if ran.contains (k.1 / 36) then (k.1, { k.2 with lines := [] }) else k
           clusters := s.clusters.map fun (c : Nat × Cluster) =>
             let keys := c.2.keys.filter fun e => e.2.job != j
             (c.1, if ran.contains c.1 then { c.2 with keys := keys, remote := [], stashLines := c.2.stashLines.filter (·.2.owned) }
               else { c.2 with keys := keys }) }

/-- The accumulators and semaphores of the tiles whose matrix state last belonged to the job. -/
def clearTiles (s : State) (j : Nat) : State :=
  { s with tiles := s.tiles.map fun (x : Nat × Tile) =>
      if x.2.lastJob = some j then (x.1, { x.2 with acc := [], shadow := [], sems := Vector.replicate 8 0 }) else x }

/-- The lodgings of a job end with it (05 R115). -/
def endLodgings (s : State) (j : Nat) : State :=
  let own := s.clusters.flatMap fun c => (c.2.lodgings.filter fun l => l.2.job == j).map fun l => (c.1, l.1)
  own.foldl (fun s x => endLodging s x.1 x.2) s

/-- The records of a job's work go with it: its handles name nothing any more (13 R282, R284). -/
def forgetWork (s : State) (j : Nat) : State :=
  let mine := fun (h : Nat) => (s.launches.find? h).any (·.slot == j)
  { s with tasks := s.tasks.filter fun t => !mine t.2.launch
           launches := s.launches.filter fun l => l.2.slot != j
           graphEnds := s.graphEnds.filter fun g => g.2.slot != j }

/-- R368 on a job whose work has ended: keys, on-die state, copies, saved queue contexts, resident graphs, lodgings. -/
def clearJob (s : State) (j : Nat) : State :=
  let ran := jobClusters s j
  let gone := s.images.filter fun x => x.2.slot == j
  let s := zeroiseKeys s j
  let s := gone.foldl (fun s x => zeroImage s x.2) s
  let s := { s with images := s.images.filter fun x => x.2.slot != j
                    graphs := s.graphs.filter fun x => x.2.slot != j
                    queues := s.queues.map fun (q : Nat × Queue) => if q.2.slot = j ∧ q.2.where_ = Residency.saved then (q.1, {}) else q }
  let s := (s.clusters.map (·.1)).foldl (fun s c => clearCluster s j c) (endLodgings s j)
  forgetWork (dropCopies (clearTiles s j) j ran) j

/-! ### The end of a job -/

def endRank (e : Ending) : Nat := match e with | .error => 0 | .off => 1 | .stop => 2 | .reset => 3

/-- The clusters of a partition. -/
def inPartition (s : State) (p c : Nat) : Bool := !s.regs.pcfg || dieOf c == p

/-- A partition's queues are disabled and its key tables empty, once no slot of it is still ending (21 R371). -/
def finishReset (s : State) (p : Nat) : State :=
  if (range 0 16).any fun j => (s.slot j).part == p && (s.slot j).ending == some .reset then s
  else
    { s with queues := s.queues.filter fun q => (s.slot q.2.slot).part != p
             clusters := s.clusters.map fun (c : Nat × Cluster) => if inPartition s p c.1 then (c.1, { c.2 with keys := [] }) else c }

/-- The last step of a job's end: what R368 clears, then the state the slot takes. -/
def finishEnding (s : State) (j : Nat) : State :=
  let s := clearJob s j
  match (s.slot j).ending with
  | none => s
  | some .error => s.updSlot j fun x => { x with ending := none }
  | some .off => s.updSlot j fun x => { x with ending := none, en := false }
  | some .stop =>
    let s := s.updSlot j fun x => { x with ending := none, en := false, tdi := .unlocked }
    { s with spdm := { s.spdm with resp := .tdi .unlocked } }
  | some .reset =>
    finishReset (s.updSlot j fun x => { x with ending := none, en := false, prio := 0, det := false }) (s.slot j).part

/-- A job's end begins, or goes on: it is cancelled (02 R43), and once all its work has ended the clearing follows. -/
def endJob (s : State) (j : Nat) (e : Ending) : State :=
  let s := s.updSlot j fun x => { x with ending := match x.ending with
    | some o => if endRank o < endRank e then some e else some o
    | none => some e }
  let s := cancelSlot s (e != .error) j 0x15
  if phaseOver s j then finishEnding s j else s

/-! ### TDI states (R365) -/

def respond (s : State) (r : Response) : State := { s with spdm := { s.spdm with resp := r } }

/-- The error response of a message that its state does not list, or that comes outside a session. -/
def refuseMessage (s : State) : State := respond s (.error 0x04)

/-- A TDISP message: only in a secure session, and for one of 16 interfaces. -/
def State.tdisp (s : State) (k : Nat → State) : Result :=
  .next (if s.spdm.open_ && s.ev.a < 16 then k s.ev.a else refuseMessage s)

/-- An interface in CONFIG_LOCKED or RUN goes to ERROR; one that leaves RUN is cleared (R368). -/
def interfaceError (s : State) (j : Nat) : State :=
  match (s.slot j).tdi with
  | .locked => s.updSlot j fun x => { x with tdi := .error }
  | .run => endJob (s.updSlot j fun x => { x with tdi := .error }) j .error
  | _ => s

/-- Whether a slot's configuration is frozen (R365): from its lock until the interface has been stopped. -/
def frozen (s : State) (j : Nat) : Bool := (s.slot j).tdi != .unlocked

/-- The driver attaches a 2 MiB region of HBM or tier two to an interface (R367): only while it, and the interface the region was
attached to, are not frozen; otherwise the frozen ones go to ERROR and nothing changes. -/
def attachRegion (s : State) (u j : Nat) : State :=
  let held := (s.attach.find? u).toList ++ [j]
  let ok := match spaceOf (u * 0x200000) with | .hbm _ _ | .tier2 _ _ => backed s (u * 0x200000) | _ => false
  if !ok then s
  else if held.any (frozen s) then (held.filter (frozen s)).foldl interfaceError s
  else { s with attach := s.attach.put u j }

/-- `LOCK_INTERFACE_REQUEST` (R365): interface a. With the flag the driver attaches region b to it instead, for which the manual
names no operation (log entry 54). -/
def execLockInterfaceRequest (s : State) : Result :=
  if s.ev.flag then .next (if s.ev.a < 16 then attachRegion s s.ev.b s.ev.a else s) else
  s.tdisp fun j =>
    if (s.slot j).tdi = .unlocked then respond (s.updSlot j fun x => { x with tdi := .locked }) (.tdi .locked)
    else refuseMessage s

/-- `START_INTERFACE_REQUEST` (R365, R367): fresh region keys are generated. -/
def execStartInterfaceRequest (s : State) : Result :=
  s.tdisp fun j =>
    if (s.slot j).tdi = .locked then
      let s := zeroiseKeys s j
      respond (s.updSlot j fun x => { x with tdi := .run, keysLive := true }) (.tdi .run)
    else refuseMessage s

/-- `STOP_INTERFACE_REQUEST` (R365, R368): answered once the clearing is complete. -/
def execStopInterfaceRequest (s : State) : Result :=
  if (s.slot s.ev.a).ending = some .stop then .next (endJob s s.ev.a .stop)
  else
    s.tdisp fun j => if (s.slot j).tdi = .unlocked then refuseMessage s else endJob s j .stop

/-- `GET_DEVICE_INTERFACE_REPORT` (R365). -/
def execGetDeviceInterfaceReport (s : State) : Result :=
  s.tdisp fun j =>
    let x := s.slot j
    respond s (.report j (if s.regs.pcfg then [x.part] else [0, 1]) x.asid x.ptb (interfaceRanges s j) ((s.attach.filter fun a => a.2 == j).map (·.1)))

/-- `IDE_STREAM_FAILURE` (R365, R366): of interface a. -/
def execIdeStreamFailure (s : State) : Result :=
  .next (if (s.slot s.ev.a).ending = some .error then endJob s s.ev.a .error else interfaceError s s.ev.a)

/-- `IDE_KM` (R366): programs the keys of stream a. -/
def execIdeKm (s : State) : Result :=
  s.tdisp fun j => respond (s.updSlot j fun x => { x with ide := some s.ev.b }) .ideKm

/-! ### Job control (18 R327) -/

/-- A slot is enabled, while its interface is in RUN (18 R327, R365). -/
def enableJob (s : State) (j : Nat) : State :=
  if (s.slot j).tdi = .run ∧ (s.slot j).ending = none ∧ s.regs.mstate = 2 then s.updSlot j fun x => { x with en := true } else s

/-- `JOBCTL_ENABLE` (18 R327): slot a. -/
def execJobctlEnable (s : State) : Result := s.barWrite (0x080000 + 0x100 * s.ev.a) (enableJob s s.ev.a)

/-- `JOBCTL.en` of a slot is written 0 (18 R327, R368): it reads 0 once the clearing is complete. -/
def endEnabled (s : State) (j : Nat) : State := if (s.slot j).en then endJob s j .off else s

/-- `JOBCTL_END` (18 R327); with the flag, an end in progress goes on. -/
def execJobctlEnd (s : State) : Result :=
  if s.ev.flag then .next (if (s.slot s.ev.a).ending = some .off then endJob s s.ev.a .off else s)
  else s.barWrite (0x080000 + 0x100 * s.ev.a) (endEnabled s s.ev.a)

/-- `JOBCTL_CANCEL` (18 R327, 02 R43). -/
def execJobctlCancel (s : State) : Result := s.barWrite (0x080000 + 0x100 * s.ev.a) (cancelSlot s true s.ev.a 0x15)

/-- `PRESET` (21 R371): resets the partition its value names. -/
def resetPartition (s : State) (v : Word) : State :=
  let p := field v 0 8
  if v.toNat ≠ 0x5E6B0100 + p ∨ p > 1 ∨ (p = 1 ∧ ¬ s.regs.pcfg) then s
  else
    let js := (range 0 16).filter fun j => (s.slot j).part == p
    let s := js.foldl (fun s j => s.updSlot j fun x => { x with ending := some .reset }) s
    finishReset (js.foldl (fun s j => endJob s j .reset) s) p

/-- `PRESET` (21 R371): value v; with the flag, a reset in progress goes on in slot a. -/
def execPreset (s : State) : Result :=
  .next (if s.ev.flag then (if (s.slot s.ev.a).ending = some .reset then endJob s s.ev.a .reset else s) else resetPartition s s.ev.v)

/-! ### The module fences itself (21 R373) -/

/-- Watches of other modules on this one's words are answered with poison. -/
def poisonWatches (s : State) : State :=
  s.clusters.foldl (fun s c =>
    let far := c.2.watches.filter fun e => e.link.isSome
    let s := s.updCluster c.1 fun cl => { cl with watches := cl.watches.filter fun e => e.link.isNone }
    far.foldl (fun s e => answerWatch s e (s.gpa e.word) 0 .poison) s) s

/-- `MSTAT.state` reads 3, every job is cancelled with cause 0x15, and interfaces go to ERROR. Requests of other modules are answered
with poison from here on. The event names the host port, as a unit of the module (log entry 122). -/
def fenceModule (s : State) : State :=
  if s.regs.mstate = 3 then s
  else
    let s := { s with regs := { s.regs with mstate := 3 } }
    let s := (range 0 16).foldl (fun s j => interfaceError (cancelSlot s false j 0x15) j) s
    logEvent (poisonWatches s) 8 0 0xFF (endpointOf s 0 0xC1) 0 0

/-- `MFENCE` (21 R373): value v. -/
def execMfence (s : State) : Result := .next (if s.ev.v = 0x5E6B0003 then fenceModule s else s)

/-- `FIRMWARE_FAILURE` (21 R373). -/
def execFirmwareFailure (s : State) : Result := .next (fenceModule s)

/-- `THERMAL_LIMIT` (18 R336). -/
def execThermalLimit (s : State) : Result := .next (fenceModule s)

/-! ### Attestation (R369) -/

/-- `MID` (18 R324). -/
def midWord (s : State) : Word :=
  BitVec.ofNat 64 (Config.stepping.toNat * 2 ^ 24 + (if s.fuse.lite then 2 else 1) * 2 ^ 16 + 0x5E6B)

/-- `HMAP` (21 R374): up to two harvested tiles of each die. -/
def hmapWord (s : State) : Word :=
  let one := fun (ts : List Nat) (i : Nat) => match ts[i]? with | some t => 2 ^ 15 + t | none => 0
  let d0 := s.fuse.harvested.filter (· < 192)
  let d1 := s.fuse.harvested.filter (192 ≤ ·)
  BitVec.ofNat 64 (one d0 0 + one d0 1 * 2 ^ 16 + one d1 0 * 2 ^ 32 + one d1 1 * 2 ^ 48)

/-- `NLROUTE` of a module (20 R358). -/
def routeWord (s : State) (m : Nat) : Nat := s.regs.nlroute.get 0 m

/-- Measurement block n. -/
def measurement (s : State) (n : Nat) : List Byte :=
  match n with
  | 1 => Config.bootRomDigest
  | 2 => s.regs.imageDigest
  | 3 => s.regs.svnDigest
  | 4 => Config.sha512 (bytesOfNat 8 (midWord s).toNat ++ bytesOfNat 8 (featWord s).toNat ++ bytesOfNat 8 (hmapWord s).toNat)
  | _ => Config.sha512 (bytesOfNat 8 s.regs.modnum ++ (range 0 1024).flatMap fun m => bytesOfNat 8 (routeWord s m))

/-- `GET_VERSION` (R369): negotiation starts over. -/
def execGetVersion (s : State) : Result := .next { s with spdm := { versioned := true, resp := .version 1 3 } }

/-- `GET_CAPABILITIES` (R369). -/
def execGetCapabilities (s : State) : Result :=
  .next (if s.spdm.versioned then { s with spdm := { s.spdm with capable := true, resp := .capabilities [.getVersion, .getCapabilities, .negotiateAlgorithms,
    .getDigests, .getCertificate, .challenge, .getMeasurements, .keyExchange, .finish, .endSession, .vendorDefined] } } else refuseMessage s)

/-- `NEGOTIATE_ALGORITHMS` (R369). -/
def execNegotiateAlgorithms (s : State) : Result :=
  .next (if s.spdm.capable then { s with spdm := { s.spdm with negotiated := true, resp := .algorithms .ecdsaP384 .sha512 .secp384r1 .aes256Gcm } } else refuseMessage s)

/-- An SPDM request that follows negotiation. -/
def State.negotiated (s : State) (r : Response) : Result := .next (if s.spdm.negotiated then respond s r else refuseMessage s)

/-- `GET_DIGESTS` (R369): of the certificate chain in slot 0. -/
def execGetDigests (s : State) : Result := s.negotiated (.digests (Config.sha512 Config.certChain))

/-- `GET_CERTIFICATE` (R369): length b at offset a of the chain. -/
def execGetCertificate (s : State) : Result := s.negotiated (.certificate ((Config.certChain.drop s.ev.a).take s.ev.b))

/-- `CHALLENGE` (R369): signed with the identity key over the nonce and the chain's digest. -/
def execChallenge (s : State) : Result :=
  s.negotiated (.challenge (Config.ecdsaSign (Config.sha512 (bytesOfNat 32 s.ev.a ++ Config.sha512 Config.certChain))))

/-- `GET_MEASUREMENTS` (R369): block a, or all for 0xFF; not ready before `MSTAT.state` has read 2. -/
def execGetMeasurements (s : State) : Result :=
  if !s.regs.ran then .next (respond s .notReady)
  else
    let ns := if s.ev.a = 0xFF then range 1 5 else if 1 ≤ s.ev.a ∧ s.ev.a ≤ 5 then [s.ev.a] else []
    if ns.isEmpty then .next (respond s (.error 0x01))
    else
      let bs := ns.map fun n => (n, measurement s n)
      s.negotiated (.measurements bs (Config.ecdsaSign (Config.sha512 (bs.flatMap (·.2)))))

/-- `KEY_EXCHANGE` (R369): with the requester's share. -/
def execKeyExchange (s : State) : Result :=
  .next (if s.spdm.negotiated then
    { s.bump with spdm := { s.spdm with secret := some (Config.ecdhSecret s.serial s.ev.bytes), open_ := false
                                        resp := .keyExchange (Config.ecdhShare s.serial s.ev.bytes) } }
    else refuseMessage s)

/-- `FINISH` (R369): opens the session where its field verifies. -/
def execFinish (s : State) : Result :=
  .next (match s.spdm.secret with
    | some k =>
      if Config.finishVerify k s.ev.bytes then { s with spdm := { s.spdm with open_ := true, resp := .finished } } else refuseMessage s
    | none => refuseMessage s)

/-- `END_SESSION` (R369). -/
def execEndSession (s : State) : Result :=
  .next (if s.spdm.open_ then { s with spdm := { s.spdm with open_ := false, secret := none, resp := .ended } } else refuseMessage s)

end Sys2Proof.Machine
end

