-- ==== Sys2Proof/Machine/Startup.lean ====
section
/-!
DEFINITION. Power-up and module reset (05 R98, 18 R325), and the verification of the firmware image (18 R326).
-/
namespace Sys2Proof.Machine

/-- Whether a physical address lies in scratchpads or cluster stores. -/
def inSram (a : Nat) : Bool := 0x40000000000 ≤ a && a < hostBase

/-- A module reset: SRAM holds zero, attached memory has lost its keys, other device memory and the host's memory keep their
bytes, and everything else is as at reset (R325, 05 R98). -/
def moduleReset (s : State) : State :=
  { mem := s.mem.filter fun (p : Nat × Byte) => !inSram p.1
    poison := s.poison.filter fun w => !inSram (w * 8)
    stale := (s.attach.map (·.1)).foldl (fun t u => t.put u []) s.stale
    fuse := s.fuse, inputs := s.inputs, cur := s.cur, serial := s.serial }

/-- `POWER_UP` (R325): device memory has lost its bytes too. -/
def execPowerUp (s : State) : Result :=
  .next { mem := s.mem.filter fun (p : Nat × Byte) => hostBase ≤ p.1, fuse := s.fuse, inputs := s.inputs, cur := s.cur, serial := s.serial }

/-- A write of `MRESET` (R324). -/
def mresetWrite (s : State) (v : Word) : State := if v = 0x5E6B0001 then moduleReset s else s

/-- `MRESET` (R324, R325): value v. -/
def execMreset (s : State) : Result := .next (mresetWrite s s.ev.v)

/-- `CXL_HOT_RESET` (R325). -/
def execCxlHotReset (s : State) : Result := .next (moduleReset s)

/-- `CXL_LINK_DOWN` (R325). -/
def execCxlLinkDown (s : State) : Result := .next (moduleReset s)

/-! ### The firmware image (R326) -/

/-- A write of `FWGO` (R325): none while a verification runs or the module does not await an image. -/
def fwgoWrite (s : State) (v : Word) : State :=
  if v = 1 ∧ s.regs.mstate = 1 ∧ ¬ s.regs.fwbusy then
    { s with regs := { s.regs with fwbusy := true, fwAt := s.regs.fwaddr, fwBytes := s.regs.fwlen } }
  else s

/-- `FWGO` (R325): value v. -/
def execFwgo (s : State) : Result := .next (fwgoWrite s s.ev.v)

/-- Check 1: magic, version, zero fields and lengths; the count of protected ways is one a module can have. -/
def headerOk (h : List Byte) (n : Nat) : Bool :=
  natAt h 0 4 == 0x464B4E53 && natAt h 4 2 == 1 && natAt h 6 2 == 0 && allZero (sliceBytes h 18 6) && allZero (sliceBytes h 32 32) &&
    allZero (sliceBytes h 580 444) && allZero (sliceBytes h 1536 2560) && natAt h 8 8 + 4096 == n && 1 ≤ natAt h 17 1 && natAt h 17 1 ≤ 8

/-- The verification's code in `FWSTAT`, for an image of n bytes at a host physical address (R326). -/
def imageCode (s : State) (at_ n : Nat) : Nat :=
  if n < 4096 ∨ n > 0x4000000 ∨ n % 4096 ≠ 0 then 1
  else if at_ + n > 2 ^ 43 ∨ truthBad s (hostBase + at_) n then 5
  else
    let h := truthRead s (hostBase + at_) 4096
    let key := sliceBytes h 64 516
    if !headerOk h n then 1
    else if Config.sha512 key ≠ s.fuse.keyDigest then 2
    else if !Config.pssVerify key (Config.sha512 (sliceBytes h 0 1024 ++ truthRead s (hostBase + at_ + 4096) (n - 4096))) (sliceBytes h 1024 512) then 3
    else if natAt h 16 1 < s.fuse.minSvn then 4 else 0

/-- What the firmware does once its image is accepted: HBM and tier two are zeroed, the protected ways set, and the module
runs (R325). -/
def startFirmware (s : State) (at_ n : Nat) : State :=
  let h := truthRead s (hostBase + at_) 18
  let svn := natAt h 16 1
  let ways := natAt h 17 1
  let s := { s with mem := s.mem.filter fun (p : Nat × Byte) => 0x40000000000 ≤ p.1
                    poison := s.poison.filter fun w => 0x40000000000 ≤ w * 8
                    stale := [], attach := [] }
  let s := (range 0 64).foldl (fun s c => s.updCluster c fun cl => { cl with prot := ways, scratch := 24 - ways, stash := 0 }) s
  State.signal { s with regs := { s.regs with mstate := 2, ran := true, svn := svn
                                              imageDigest := Config.sha512 (truthRead s (hostBase + at_) n)
                                              svnDigest := Config.sha512 [BitVec.ofNat 8 svn, BitVec.ofNat 8 ways] } } 64

/-- `FIRMWARE_VERIFICATION_DONE` (R325, R326): with the flag, a read of the image fails over CXL. -/
def execFirmwareVerificationDone (s : State) : Result :=
  if !s.regs.fwbusy then .next s
  else
    let at_ := s.regs.fwAt.toNat
    let n := s.regs.fwBytes.toNat
    let code := if s.ev.flag then 5 else imageCode s at_ n
    let s := { s with regs := { s.regs with fwbusy := false, fwcode := code } }
    .next (if code = 0 ∧ s.regs.mstate = 1 then startFirmware s at_ n else s)

end Sys2Proof.Machine
end

