-- ==== Sys2Proof/Machine/Tasks.lean ====
section
/-!
DEFINITION. Task and graph instructions (13 R277–R284; 02 R30–R38, R43).
-/
namespace Sys2Proof.Machine

/-- The current thread's task, with its number. -/
def State.withTask (s : State) (k : Nat → Task → Result) : Result :=
  match s.th.task with
  | some n => match s.tasks.find? n with
    | some t => k n t
    | none => s.illegal
  | none => s.illegal

/-- The member is none of the striker's (R277). -/
def State.notStriker (s : State) (k : Result) : Result := if roleOf s.tid = 1 then s.illegal else k

/-- A release by the current thread, performed before the instruction goes on (06 R122). -/
def State.releasing (s : State) (sc : Scope) (k : State → Result) : Result :=
  if releasable s s.tid s.serial sc then k (releaseWork s s.tid sc) else s.stall

/-! ### Spawning -/

/-- The release that comes before a child's first instruction (R278, 06 R124): performed at once where every earlier access is, else an
operation of the parent, which goes on issuing, and the child waits for it. -/
def releaseChild (s : State) (k : Nat) : State :=
  if releasable s s.tid s.serial .module then releaseWork s s.tid .module
  else
    let n := s.serial
    (s.issueOut (.store (some .module) false) 0 [] id).updTask k fun t => { t with state := .held s.tid n }

/-- `TSPAWN` (R278). -/
def execTspawn (d : SReg) (a : AReg) (b : VReg) (s : State) : Result :=
  s.taskOnly <| s.notStriker <| s.point <| s.withTask fun n t =>
    let va := s.th.ra a
    if !aligned va 4 then s.trap { code := 0x03, fva := va }
    else if t.path.length = 15 then s.retireS d (BitVec.ofInt 64 (-1))
    else if t.spawned = 4096 then s.retireS d (BitVec.ofInt 64 (-2))
    else
      match s.launches.find? t.launch with
      | none => s.illegal
      | some l =>
        match place s l (t.path ++ [t.spawned]) with
        | none => s.illegal
        | some (canon, unit) =>
          let c := unitCluster l.tile unit
          match descRoom s l c with
          | some desc =>
            let k := s.nextTask
            let s := addTask s l (some n) (t.path ++ [t.spawned]) va (s.th.rv b) unit canon desc
            let s := releaseChild (s.updTask n fun t => { t with spawned := t.spawned + 1 }) k
            s.retireS d (BitVec.ofNat 64 t.spawned)
          | none =>
            if (s.slot l.slot).det then .next (endTask (cancelLaunch s false l.handle 0x15) n true 0)
            else s.retireS d (BitVec.ofInt 64 (-3))

/-! ### Joining -/

/-- Child i of a task. -/
def childOf (s : State) (n : Nat) (t : Task) (i : Nat) : Option Task :=
  (List.find? (fun (x : Nat × Task) => x.2.parent == some n && x.2.path == t.path ++ [i]) s.tasks).map (·.2)

/-- A joined child's outcome: whether it was cancelled, and its record; none while it has not ended. -/
def outcomeOf (s : State) (n : Nat) (t : Task) (i : Nat) : Option (Bool × Vec) :=
  match childOf s n t i with
  | some c => match c.state with
    | .ended x r => some (x, r)
    | _ => none
  | none => some (false, 0)

/-- The other hardware thread that runs a task. -/
def otherThread (tid : Nat) (t : Task) : Option Nat := t.threads.find? (· != tid)

/-- Whether every context of a task is on a hardware thread: both of a pair. -/
def allResident (s : State) (t : Task) : Bool := t.threads.length == if taskTile s t then 2 else 1

/-- Whether a context may leave its thread: nothing of it is outstanding. -/
def quiet (s : State) (tid : Nat) : Bool := (s.thread tid).dropKept.outs.isEmpty && !mxEarlier s tid s.serial

/-- A context leaves its hardware thread, which becomes free: that is a release, so that the core's dirty words are written through (02 R41,
06 R117, R124); its messages leave, and its keys stay with it. -/
def leaveThread (s : State) (k tid : Nat) : State :=
  let s := acceptQueue (mapKeys (flushCore s (coreOf tid)) (clusterOf tid) (moveEntry (codeOf tid) (ctxCode k (roleOf tid == 1) (codeOf tid)))) tid
  s.updThread tid fun t => { sup := t.sup, halted := t.halted }

/-- The tile state of R250 as it travels with a pair: the instruction cache stays. -/
def tileState (x : Tile) : Tile := { x with icache := [], pair := none, lastJob := none, queue := [] }

/-- The tile takes a pair's tile state. -/
def loadTile (x st : Tile) (k j : Nat) : Tile := { st with icache := x.icache, pair := some k, lastJob := some j }

/-- Parks a task in `TJOIN` (02 R35). -/
def parkTask (s : State) (k : Nat) (t : Task) : State :=
  let tid := s.tid
  let n := tileOf tid
  let s := t.threads.foldl acceptQueue s
  let p : Parked := { th := s.th.dropKept, other := (otherThread tid t).map fun o => (s.thread o).dropKept, tid := tid
                      tile := if (otherThread tid t).isSome then some (tileState (s.tile n)) else none }
  let s := t.threads.foldl (fun s x => leaveThread s k x) s
  let s := s.updTask k fun t => { t with state := .parked p, threads := [] }
  if p.tile.isSome then s.updTile n fun x => { x with pair := none } else s

/-- Writes the records of joined children, 64 bytes each. -/
def writeRecords (s : State) (es : List Elem) (rs : List (Bool × Vec)) : State :=
  (es.zip rs).foldl (fun s p => threadWrite s s.tid s.th.sup.act p.1 (bytesOfVec (if p.2.1 then 0 else p.2.2))) s

/-- `TJOIN` (R279): parks the task while a child has not ended; issued again when it resumes. -/
def execTjoin (d : SReg) (a : AReg) (s : State) : Result :=
  s.taskOnly <| s.notStriker <| s.point <| s.withTask fun k t =>
    let n := t.spawned - t.joined
    let va := s.th.ra a
    if n = 0 then s.retireS d (BitVec.ofNat 64 (t.joined * 2 ^ 32))
    else if !aligned va 64 then s.trap { code := 0x03, fva := va }
    else
      let checks := (range 0 n).foldr (fun i (r : Except Trap (List Elem)) =>
        match storeAt s (va + BitVec.ofNat 80 (64 * i)) 64 64, r with
        | .error t, _ => .error t
        | .ok _, .error t => .error t
        | .ok e, .ok es => .ok (e :: es)) (.ok [])
      s.checked checks fun es =>
        let rs := (range t.joined n).filterMap (outcomeOf s k t)
        if rs.length = n then
          s.access true (if meets s es then s.stall else
            let s := writeRecords (flushElems s s.tid es) es rs
            let s := acquire (s.updTask k fun t => { t with joined := t.spawned }) s.tid .module
            s.retireS d (BitVec.ofNat 64 (n + (rs.filter (·.1)).length * 2 ^ 16 + t.joined * 2 ^ 32)))
        else if allResident s t && t.threads.all fun x => quiet s x && !(s.thread x).sup.act then .next { switch (parkTask s k t) with stalled := true }
        else s.stall

/-! ### Ending, paths, counts -/

/-- `TEXIT` (R280, R277): waits for engine jobs and matrix instructions, releases at module scope, and ends the task;
the first thread of a pair to reach it waits for the other. -/
def execTexit (b : Option VReg) (s : State) : Result :=
  s.taskOnly <| s.point <| s.withTask fun k t =>
    let record := match b with | some r => s.th.rv r | none => 0
    if s.th.cp ≠ 0 ∨ s.th.mx ≠ 0 then s.wait
    else
      s.releasing .module fun s =>
        if !taskTile s t then .next (endTask s k false record)
        else
          let record := if roleOf s.tid = 0 then record else t.record
          let s := (s.upd fun t => { t with exited := true }).updTask k fun t => { t with record := record }
          match otherThread s.tid t with
          | some o => if (s.thread o).exited then .next (endTask s k false record) else s.wait
          | none => s.wait

/-- `TPATH` (R281). -/
def execTpath (d a : SReg) (s : State) : Result :=
  s.taskOnly <| s.withTask fun _ t =>
    let i := field (s.th.rs a) 0 4
    s.retireS d (if i = 15 then BitVec.ofNat 64 t.path.length
      else match t.path[i]? with | some x => BitVec.ofNat 64 x | none => BitVec.allOnes 64)

/-- `TYIELD` (R281): completes, and the core takes its next ready thread. -/
def execTyield (s : State) : Result := s.taskOnly <| s.point <| .next (switch (s.done 4 id))

/-- `CORES` (R281). -/
def execCores (d a : SReg) (s : State) : Result :=
  s.taskOnly <| s.withTask fun _ t =>
    match s.launches.find? t.launch with
    | none => s.illegal
    | some l =>
      let det := (s.slot l.slot).det
      let present := ((range 0 Config.tiles).filter (tilePresent s)).length
      let units := (eligibleUnits s l).length
      s.retireS d (match (s.th.rs a).toNat with
        | 0 => BitVec.ofNat 64 (if det then 2304 else 6 * present)
        | 1 => BitVec.ofNat 64 (if det then 384 else present)
        | 6 => BitVec.ofNat 64 (if det then t.canon else t.unit)
        | 7 => BitVec.ofNat 64 (if det then canonicalCount l else units)
        | x =>
          if 2 ≤ x ∧ x ≤ 5 then
            let f := l.split.getD (x - 2) 0
            BitVec.ofNat 64 (if !det && f == 0 then units else f)
          else BitVec.allOnes 64)

/-! ### Cancellation, graphs -/

def hasEnded (t : Task) : Bool := match t.state with | .ended _ _ => true | _ => false

/-- The graph of a job slot whose run has a handle. -/
def graphRun? (s : State) (j h : Nat) : Option (Nat × Graph × GraphRun) :=
  s.graphs.findSome? fun (p : Nat × Graph) => match p.2.run with
    | some r => if r.handle = h ∧ p.2.slot = j then some (p.1, p.2, r) else none
    | none => none

/-- `TCANCEL` (R282). -/
def execTcancel (d a b : SReg) (s : State) : Result :=
  s.taskOnly <| s.notStriker <| s.withTask fun k t =>
    let x := (s.th.rs a).toNat
    let j := slotOf s s.tid
    match (s.th.rs b).toNat with
    | 0 =>
      match (if x < t.spawned then childOf s k t x else none) with
      | none => s.retireS d 2
      | some c =>
        if (subtree s c.id).all fun i => match s.tasks.find? i with | some u => hasEnded u | none => true then s.retireS d 1
        else (cancelSubtree s c.id).retireS d 0
    | 1 =>
      match s.launches.find? (if x = 0 then t.launch else x) with
      | none => s.retireS d 2
      | some l =>
        if l.slot ≠ j then s.retireS d 2
        else if l.state ≠ .running then s.retireS d 1
        else (cancelLaunch s true l.handle 0x15).retireS d 0
    | 2 =>
      match graphRun? s j x with
      | some (g, _, _) => (cancelGraph s true g 0x15).retireS d 0
      | none =>
        match s.graphEnds.find? x with
        | some e => s.retireS d (if e.slot = j then 1 else 2)
        | none => s.retireS d 2
    | _ => s.illegal

/-- `GRUN` (R283). A command that reads as poisoned starts nothing and leaves sd unchanged, and cause 0x16 pends (DESIGN CHOICE: log entry
134). -/
def execGrun (d : SReg) (a : AReg) (b : SReg) (s : State) : Result :=
  s.taskOnly <| s.notStriker <|
    let x := s.th.rs b
    let va := s.th.ra a
    let j := slotOf s s.tid
    let started := fun (s : State) (t : State) => t.retireS d (BitVec.ofNat 64 s.nextHandle)
    if field x 2 6 ≠ 0 ∨ field x 14 50 ≠ 0 then s.illegal
    else
      match field x 0 2 with
      | 0 =>
        if !aligned va 64 then s.trap { code := 0x03, fva := va }
        else
          s.checked (loadAt s va 64 64) fun e0 => s.checked (loadAt s (va + 64) 64 64) fun e1 =>
            s.access false (s.awaitRead false false .strong va [e0, e1] fun s es =>
              match es.find? (·.poison) with
              | some _ => .next ((addPending s s.tid { code := 0x16, fva := va }).done 4 id)
              | none =>
                s.releasing .module fun s =>
                  let cmd := es.flatMap (·.bytes)
                  match (if allZero (sliceBytes cmd 32 32) then acceptLaunch s j cmd else none) with
                  | some l => started s (startLaunch s l (vecOfBytes (cmd.drop 64)))
                  | none => started s (refuseLaunch s j))
      | 1 =>
        let g := dieOf (clusterOf s.tid) * 64 + field x 8 6
        s.releasing .module fun s =>
          match s.graphs.find? g with
          | some gr => started s (if gr.slot = j ∧ gr.run.isNone then startGraph s g none else refuseLaunch s j)
          | none => started s (refuseLaunch s j)
      | _ => s.illegal

/-- `GCOND` (R284): a strong store that is a release of module scope. -/
def execGcond (a : AReg) (b : SReg) (s : State) : Result :=
  s.taskOnly <|
    let va := s.th.ra a
    s.checked (storeAt s va 8 8) fun e => s.strongStore (some .module) va [{ e with bytes := bytesOfNat 8 (s.th.rs b).toNat }]

/-- The status word of R284. -/
def statusWord (count cause : Nat) (st : WorkState) : Word :=
  let code := match st with | .running => 0 | .complete => 1 | .cancelled => 2 | .refused => 3
  BitVec.ofNat 64 (min count (2 ^ 32 - 1) * 2 ^ 32 + cause % 256 * 256 + code)

/-- The status of a handle of a job, and whether reading it is an acquire. -/
def statusOf (s : State) (j h : Nat) : Word × Bool :=
  match s.launches.find? h with
  | some l =>
    if l.slot = j then (statusWord l.count l.cause l.state, l.state == .complete || l.state == .cancelled)
    else (BitVec.allOnes 64, false)
  | none =>
    match graphRun? s j h with
    | some (_, g, r) => (statusWord (graphCount g r) r.cause .running, false)
    | none =>
      match s.graphEnds.find? h with
      | some e => if e.slot = j then (statusWord 0 e.cause e.state, true) else (BitVec.allOnes 64, false)
      | none => (BitVec.allOnes 64, false)

/-- `GSTAT` (R284): a read of state 1 or 2 is an acquire of module scope. -/
def execGstat (d a : SReg) (s : State) : Result :=
  s.taskOnly <| s.withTask fun _ t =>
    let h := if s.th.rs a = 0 then t.launch else (s.th.rs a).toNat
    let r := statusOf s (slotOf s s.tid) h
    s.access false ((if r.2 then acquire s s.tid .module else s).retireS d r.1)

end Sys2Proof.Machine
end

