-- ==== Sys2Proof/Machine/HostPort.lean ====
section
/-!
DEFINITION. The host port: reads and writes of device memory through BAR2 (18 R323), the keys it holds (18 R334), the power
of partitions (18 R335, R336), and token buckets (18 R337).
-/
namespace Sys2Proof.Machine

/-! ### BAR2 (R323) -/

/-- Whether a BAR2 access touches an attached region on a stream its interface rejects (20 R366). -/
def memRejected (s : State) (a n : Nat) (stream : Option Nat) : Bool :=
  (range (a / 0x200000) ((a + n - 1) / 0x200000 - a / 0x200000 + 1)).any fun u =>
    match s.attach.find? u with
    | some t => wrongStream s t stream
    | none => false

/-- What the host reads: n bytes, and whether they are poisoned. -/
def hostRead (s : State) (a n : Nat) (stream : Option Nat) : State :=
  let ones : State := { s with hostData := List.replicate n 0xFF, hostPoison := false }
  if memRejected s a n stream then logHerr ones 0x06 a
  else if n = 0 ∨ a + n > hostBase ∨ !(range a n).all (backed s) then logHerr ones 0x05 a
  else wakeAt { s with hostData := truthRead s a n, hostPoison := truthBad s a n } a

/-- The first check a host write fails: unbacked 0x05, a rejected stream 0x06, no key 0x07 (R323, 01 R17). -/
def hostWriteFault (s : State) (a n : Nat) (stream : Option Nat) : Option Nat :=
  if memRejected s a n stream then some 0x06
  else if a + n > hostBase ∨ !(range a n).all (backed s) then some 0x05
  else if (range (unitOf a) (unitOf (a + n - 1) - unitOf a + 1)).all fun u =>
    match (spaceOf (u * 4096)).cluster? with
    | some c => mayStore s c keyHost 0 u
    | none => false
  then none else some 0x07

/-- A host write: performed whole, or dropped whole and logged. -/
def hostWrite (s : State) (a : Nat) (bs : List Byte) (stream : Option Nat) : State :=
  if bs.isEmpty then s
  else
    match hostWriteFault s a bs.length stream with
    | some c => logHerr s c a
    | none => truthWrite (wakeAt s a) physAsid 0 a bs

/-- `BAR2_HOST_WRITE` (R323): bytes at offset a. -/
def execBar2HostWrite (s : State) : Result := .next (hostWrite s s.ev.a s.ev.bytes s.ev.slot)

/-! ### `KEYHAND` (R334) -/

/-- Whether an entry covers host memory. -/
def hostEntry (e : KeyEntry) : Bool := match spaceOf (e.base * 4096) with | .host _ => true | _ => false

/-- What a key handover does: refused, done at once, or once the engine's writing jobs are over. -/
inductive Handover where
  | refused
  | done (e : KeyEntry)
  | after (e : KeyEntry)
  deriving DecidableEq, Repr

/-- The outcome of a value written to `KEYHAND` (R334). -/
def handover (s : State) (v : Word) : Handover :=
  let c := field v 0 6
  let code := field v 56 8
  if v &&& ~~~(0xFF000FFF0000003F : Word) ≠ 0 then .refused
  else
    match (s.cluster c).keys.find? (field v 32 12) with
    | none => .refused
    | some e =>
      if hostEntry e then
        if e.holder = keyHost ∧ (code = 0xA0 ∨ code = 0xA1) then .done { e with holder := code, pending := keyNone }
        else if (e.holder = 0xA0 ∨ e.holder = 0xA1) ∧ code = keyHost then .after { e with holder := keyHost, pending := keyNone }
        else .refused
      else if e.holder = keyHost ∧ ((code < 0x90 ∧ codeOk s c code) ∨ (code = keyOpen ∧ ¬ (s.slot e.job).det) ∨ code = keyNone) then
        .done (giveEntry e keyHost code)
      else .refused

/-- Whether a job of the engine that holds an entry's key writes its region. -/
def engineWrites (s : State) (c : Nat) (e : KeyEntry) : Bool :=
  (s.cluster c).jobs.any fun j => j.engine == e.holder && j.writes.any fun u => e.base ≤ u && u < e.base + e.len

/-- Performs a handover, or keeps it until the engine's jobs are over. -/
def keyhandWrite (s : State) (v : Word) : State :=
  let c := field v 0 6
  let put := fun (e : KeyEntry) => s.updCluster c fun cl => { cl with keys := cl.keys.put (field v 32 12) e }
  match handover s v with
  | .refused => logHerr s 0x07 0x50
  | .done e => put e
  | .after e =>
    match (s.cluster c).keys.find? (field v 32 12) with
    | some old => if engineWrites s c old then { s with regs := { s.regs with keyhands := s.regs.keyhands ++ [v] } } else put e
    | none => s

/-- `KEYHAND` (R334): value v, or, with the flag, waiting handover a goes on. -/
def execKeyhand (s : State) : Result :=
  if s.ev.flag then
    match s.regs.keyhands[s.ev.a]? with
    | some v => .next (keyhandWrite { s with regs := { s.regs with keyhands := dropNth s.regs.keyhands s.ev.a } } v)
    | none => .next s
  else .next (keyhandWrite s s.ev.v)

/-! ### Power (R335, R336) -/

def hasPartition (s : State) (p : Nat) : Bool := p == 0 || (p == 1 && s.regs.pcfg)

/-- Whether no task, engine job or watch is pending in a partition's clusters (S1). -/
def partQuiet (s : State) (p : Nat) : Bool :=
  (s.tasks.all fun k => hasEnded k.2 || match s.launches.find? k.2.launch with
    | some l => !inPartition s p (unitCluster l.tile k.2.unit)
    | none => true) &&
  (s.clusters.all fun c => !inPartition s p c.1 || (c.2.jobs.isEmpty && c.2.watches.isEmpty)) &&
    s.watchReqs.all fun r => !inPartition s p (clusterOf r.tid)

/-- Whether a partition is wholly idle, with nothing pending in its queues and no request in flight (S3). -/
def partIdle (s : State) (p : Nat) : Bool :=
  partQuiet s p &&
    (s.queues.all fun q => (s.slot q.2.slot).part != p || (q.2.started == q.2.savedTail.getD q.2.tail && q.2.entries.isEmpty)) &&
    (s.graphs.all fun g => (s.slot g.2.slot).part != p || g.2.run.isNone) &&
    s.ingress.isEmpty && s.egress.isEmpty && s.requests.isEmpty && s.replies.isEmpty && s.accepts.isEmpty && s.refusals.isEmpty &&
    s.regs.keyhands.isEmpty

/-- The state a partition is kept in (R335): the lowest whose wake time is within the tolerance and whose condition holds.
The table of states with its wake times is not in the manual. -/
def powerState (s : State) (p : Nat) (idle100us : Bool) : Nat :=
  let tol := (s.regs.ltol[p]!).toNat
  let fits := fun (n : Nat) => tol ≠ 0 ∧ Config.wakeTime n ≤ tol
  if fits 3 ∧ partIdle s p then 3
  else if fits 2 ∧ partQuiet s p ∧ idle100us then 2
  else if fits 1 ∧ partQuiet s p then 1 else 0

/-- A write of `PWR.ltol` (R335): a partition whose state is no longer within the tolerance goes to S0, and 0 keeps it there. -/
def ltolWrite (s : State) (p : Nat) (v : BitVec 32) : State :=
  let s := { s with regs := { s.regs with ltol := s.regs.ltol.set! p v } }
  if v.toNat ≠ 0 ∧ Config.wakeTime s.regs.pstate[p]! ≤ v.toNat then s else wakePart s p

/-- `POWER_STATE_ENTRY` (R335): partition a; the flag says that the condition of S1 has held for 100 µs. -/
def execPowerStateEntry (s : State) : Result :=
  .next (if hasPartition s s.ev.a then
    { s with regs := { s.regs with pstate := s.regs.pstate.set! s.ev.a (powerState s s.ev.a s.ev.flag) } } else s)

/-- `POWER_WAKE` (R335): partition a. -/
def execPowerWake (s : State) : Result := .next (if hasPartition s s.ev.a then wakePart s s.ev.a else s)

/-- `POWER_WINDOW` (R336): the average input power of the last millisecond is a watts. The event names the host port, as a unit of
the module (log entry 122). -/
def execPowerWindow (s : State) : Result :=
  let limit := min s.regs.plim.toNat 2800
  let old := s.regs.clock
  let clock := if s.ev.a > limit then max 900 (old - 100) else if 100 * s.ev.a ≤ 95 * limit then 1800 else old
  let s := (s.count 1024 s.ev.a).count 1025 (if old < 1800 then 1000 else 0)
  let s := { s with regs := { s.regs with clock := clock } }
  .next (if decide (old < 1800) == decide (clock < 1800) then s else logEvent s 9 0 0xFF (endpointOf s 0 0xC1) 0 0)

/-! ### Token buckets (R337) -/

/-- `TOKEN_BUCKET_REFILL` (R337, 07 R154): c microseconds' tokens for job slot a on cluster b, of the HBM bucket with the
flag: one MB/s is one byte in a microsecond. The register's depth and rate are in force from here on. -/
def execTokenBucketRefill (s : State) : Result :=
  let j := s.ev.a % 16
  let c := s.ev.b % 64
  let reg := (if s.ev.flag then (s.slot j).tbhb else (s.slot j).tbcs).get 0 c
  let more := fun (n : Nat) => min (field reg 32 32) (n + field reg 0 32 * s.ev.c)
  .next (s.updCluster c fun cl =>
    if s.ev.flag then { cl with tokHb := cl.tokHb.put j (more (cl.tokHb.get 0 j)), rateHb := cl.rateHb.put j (field reg 0 32) }
    else { cl with tokCs := cl.tokCs.put j (more (cl.tokCs.get 0 j)), rateCs := cl.rateCs.put j (field reg 0 32) })

end Sys2Proof.Machine
end

