-- ==== Sys2Proof/Machine/LoadStore.lean ====
section
/-!
DEFINITION. Loads, stores, pulls, prefetch, atomics, fences, sequence advances, and the events that perform them (10
R211–R218; 05 R102, R104, R106; 06 R116–R128).
-/
namespace Sys2Proof.Machine

/-- `LD` (R211): a load of another cluster's memory is performed as the pull of the same size and order (05 R97). -/
def execLd (k : LdKind) (o : MOrder) (d : SReg) (a : AReg) (off : BitVec 12) (s : State) : Result :=
  let va := memAddr s.th a off (ldSize k)
  s.checked (loadAt s va (ldSize k) (ldSize k)) fun e => s.load (.sreg d (ldSize k) (ldSigned k)) o va [e]

/-- `ST` (R211). -/
def execSt (k : StKind) (o : MOrder) (d : SReg) (a : AReg) (off : BitVec 12) (s : State) : Result :=
  let va := memAddr s.th a off (stSize k)
  s.checked (storeAt s va (stSize k) (stSize k)) fun e =>
    s.store o va [{ e with bytes := bytesOfNat (stSize k) (s.th.rs d).toNat }]

/-- The elements of a vector load: whole where a port serves it, its 8-byte words otherwise (06 R118). -/
def vectorElems (e : Elem) : List Elem :=
  match e.place with
  | .own | .host => wordsOf e
  | _ => [e]

/-- `LDV` (R212): the rest of the register becomes zero. -/
def execLdv (k : VKind) (o : MOrder) (d : VReg) (a : AReg) (off : BitVec 12) (s : State) : Result :=
  let va := memAddr s.th a off (vSize k)
  s.checked (loadAt s va (vSize k) (vSize k)) fun e => s.load (.vreg d) o va (vectorElems e)

/-- `STV` (R212): the low bytes of the register. -/
def execStv (k : VKind) (o : MOrder) (d : VReg) (a : AReg) (off : BitVec 12) (s : State) : Result :=
  let va := memAddr s.th a off (vSize k)
  s.checked (storeAt s va (vSize k) (vSize k)) fun e =>
    s.store o va (wordsOf { e with bytes := bytesOfNat (vSize k) (s.th.rv d).toNat })

/-- `PULL` (R214). -/
def execPull (k : StKind) (o : MOrder) (d : SReg) (a : AReg) (off : BitVec 12) (s : State) : Result :=
  let va := memAddr s.th a off (stSize k)
  s.checked (loadAt s va (stSize k) (stSize k)) fun e => s.load (.sreg d (stSize k) false) o va [pullPlace s e]

/-- `PULLV` (R214). -/
def execPullv (o : MOrder) (d : VReg) (a : AReg) (off : BitVec 12) (s : State) : Result :=
  let va := memAddr s.th a off 64
  s.checked (loadAt s va 64 64) fun e => s.load (.vreg d) o va [pullPlace s e]

/-- `PREF` (R215): never traps and counts nowhere. An own line of a stash range is filled by the touch (05 R102). Own and host lines enter L1 at once; another cluster's line is
fetched by its port; a scratchpad line, the full remote-line buffer and hint 1 on the own cluster do nothing. -/
def execPref (hint : BitVec 5) (a : AReg) (off : BitVec 12) (s : State) : Result :=
  let va := memAddr s.th a off 64 &&& ~~~(63 : Addr)
  match loadAt s va 64 64 with
  | .error _ => s.skip 4
  | .ok e =>
    if s.th.outs.any (·.acquires) then s.stall
    else if !cacheable e.pa then s.skip 4
    else
      match e.place with
      | .own | .host =>
        if hint = 0 then
          let l := localOf e.pa / 64
          let s := touchRead s (clusterOf s.tid) (asidOf s s.tid) va (localOf e.pa)
          (fillL1 s (coreOf s.tid) (e.pa / 64)
            { data := truthLine s l, poison := linePoison s l, readOnly := e.readOnly, asid := asidOf s s.tid, va := va }).skip 4
        else s.skip 4
      | _ =>
        let cl := s.cluster (clusterOf s.tid)
        if hint = 1 ∧ (rangeAt cl (asidOf s s.tid) va).isNone ∧ remoteCapacity cl ≤ cl.remote.length then s.skip 4
        else s.issue (.load (.prefetch (hint == 1)) .weak false) va [e]

/-! ### Atomics -/

def amoSize (wide : Bool) : Nat := if wide then 8 else 4

/-- An atomic's issue (R216): a store form, checked before any effect; the dirty words of the core for its bytes are
written through first (06 R128). -/
def State.atomic (s : State) (op : AmoOp) (wide : Bool) (o : AOrder) (d : SReg) (a : AReg) (b : SReg) : Result :=
  let va := s.th.ra a
  s.checked (storeAt s va (amoSize wide) (amoSize wide)) fun e =>
    s.access true ((flushElems s s.tid [e]).issue (.amo op o d (s.th.rs b) (s.th.rs d)) va [e])

/-- `AMOADD` (R216). -/
def execAmoadd (wide : Bool) (o : AOrder) (d : SReg) (a : AReg) (b : SReg) (s : State) : Result :=
  s.atomic .add wide o d a b

/-- `AMOAND` (R216). -/
def execAmoand (wide : Bool) (o : AOrder) (d : SReg) (a : AReg) (b : SReg) (s : State) : Result :=
  s.atomic .and wide o d a b

/-- `AMOOR` (R216). -/
def execAmoor (wide : Bool) (o : AOrder) (d : SReg) (a : AReg) (b : SReg) (s : State) : Result :=
  s.atomic .or wide o d a b

/-- `AMOXOR` (R216). -/
def execAmoxor (wide : Bool) (o : AOrder) (d : SReg) (a : AReg) (b : SReg) (s : State) : Result :=
  s.atomic .xor wide o d a b

/-- `AMOMIN` (R216). -/
def execAmomin (wide : Bool) (o : AOrder) (d : SReg) (a : AReg) (b : SReg) (s : State) : Result :=
  s.atomic .min wide o d a b

/-- `AMOMAX` (R216). -/
def execAmomax (wide : Bool) (o : AOrder) (d : SReg) (a : AReg) (b : SReg) (s : State) : Result :=
  s.atomic .max wide o d a b

/-- `AMOMINU` (R216). -/
def execAmominu (wide : Bool) (o : AOrder) (d : SReg) (a : AReg) (b : SReg) (s : State) : Result :=
  s.atomic .minu wide o d a b

/-- `AMOMAXU` (R216). -/
def execAmomaxu (wide : Bool) (o : AOrder) (d : SReg) (a : AReg) (b : SReg) (s : State) : Result :=
  s.atomic .maxu wide o d a b

/-- `AMOSWAP` (R216). -/
def execAmoswap (wide : Bool) (o : AOrder) (d : SReg) (a : AReg) (b : SReg) (s : State) : Result :=
  s.atomic .swap wide o d a b

/-- `AMOCAS` (R216). -/
def execAmocas (wide : Bool) (o : AOrder) (d : SReg) (a : AReg) (b : SReg) (s : State) : Result :=
  s.atomic .cas wide o d a b

/-! ### Fences and sequence words -/

/-- `FENCE` (R217, 06 R127). -/
def execFence (k : FenceKind) (sc : Scope) (s : State) : Result :=
  match k with
  | .acq => if s.th.outs.any (·.reads) then s.stall else (acquire s s.tid sc).skip 4
  | .rel => s.raise true s.th.st (s.issue (.fence sc) 0 [] fun t => { t with st := t.st + 1 })
  | .ar =>
    if s.th.outs.any (·.reads) then s.stall
    else s.raise true s.th.st ((acquire s s.tid sc).issue (.fence sc) 0 [] fun t => { t with st := t.st + 1 })
  | .full => if s.th.owed.isEmpty && (sc == .thread || !mxEarlier s s.tid s.serial) then (acquire (releaseWork s s.tid sc) s.tid sc).skip 4 else s.stall

/-- The issue of a sequence advance (R218). -/
def State.seqadv (s : State) (add : Bool) (sc : Scope) (d : SReg) (a : AReg) (b : SReg) : Result :=
  let va := s.th.ra a
  s.checked (storeAt s va 8 8) fun e =>
    s.access true (s.raise true s.th.st
      ((flushElems s s.tid [e]).issue (.seqadv add sc d (s.th.rs b)) va [e] fun t => { t with st := t.st + 1 }))

/-- `SEQADV.MAX` (R218). -/
def execSeqadvMax (sc : Scope) (d : SReg) (a : AReg) (b : SReg) (s : State) : Result := s.seqadv false sc d a b

/-- `SEQADV.ADD` (R218). -/
def execSeqadvAdd (sc : Scope) (d : SReg) (a : AReg) (b : SReg) (s : State) : Result := s.seqadv true sc d a b

/-! ### Events -/

/-- The reply packet of another module for a request number, if one has arrived (20 R356). -/
def replyFor (s : State) (n : Nat) : Option LinkPacket := s.ingress.find? fun p => p.typ == 3 && p.tag == n % 65536

/-- Whether element i of an operation waits for the replies of earlier requests. -/
def replyWaits (s : State) (tid serial i : Nat) : Bool :=
  match ((s.thread tid).out? serial).bind fun o => o.elems[i]? with
  | some e => !e.home && replyBehind s tid serial i e
  | none => false

/-- Whether some outstanding read awaits a reply under a tag. -/
def tagAwaited (s : State) (tag : Nat) : Bool :=
  s.threads.any fun t => t.2.outs.any fun o => (o.elems.zipIdx o.serial).any fun e => e.1.sent && !e.1.home && e.2 % 65536 == tag

/-- `LINE_REPLY` (20 R356): the reply to element c of operation b of thread a reaches its core, with the data the event
brings or that of a reply packet that has arrived, which waits for the replies to earlier requests; with the flag, packet a,
whose read was abandoned, is discarded. -/
def execLineReply (s : State) : Result :=
  if s.ev.flag then
    match s.ingress[s.ev.a]? with
    | some p => .next (if p.typ = 3 ∧ ¬ tagAwaited s p.tag then s.dropIngress s.ev.a else s)
    | none => .next s
  else
    match s.ev.line with
    | some d => .next (lineArrives s s.ev.a s.ev.b s.ev.c (some d))
    | none =>
      match replyFor s (s.ev.b + s.ev.c) with
      | some p =>
        let d : LineData := if p.status = 0 then .data (vecOfBytes p.body) else .poison
        if replyWaits s s.ev.a s.ev.b s.ev.c then .next s
        else .next (lineArrives (freeBeats { s with ingress := s.ingress.filter (· != p) } p) s.ev.a s.ev.b s.ev.c (some d))
      | none => .next (lineArrives s s.ev.a s.ev.b s.ev.c none)

/-- `LOAD_COMPLETION` (10 R210): element c of load b of thread a is read and returns. -/
def execLoadCompletion (s : State) : Result := .next (performLoad s s.ev.a s.ev.b s.ev.c)

/-- `STORE_PERFORMED` (06 R118): element c of operation b of thread a. -/
def execStorePerformed (s : State) : Result := .next (performStore s s.ev.a s.ev.b s.ev.c)

/-- `ATOMIC_PERFORMED` (06 R128): atomic b of thread a. -/
def execAtomicPerformed (s : State) : Result := .next (performAmo s s.ev.a s.ev.b)

/-- `L1_WRITE_THROUGH` (05 R106): word b (physical address / 4) of core a, where it is dirty; its writer's earlier
operations on it have been performed, since a weak store waits for them. -/
def execL1WriteThrough (s : State) : Result := .next (flushWord s s.ev.a s.ev.b)

/-- `STASH_EVICTION` (05 R102): line b (its key in the table) of cluster a is written back, if it is owned and
dirty, and leaves the stash. -/
def execStashEviction (s : State) : Result :=
  .next ((writeBackLine s s.ev.a s.ev.b).updCluster s.ev.a fun cl => { cl with stashLines := cl.stashLines.drop s.ev.b })

end Sys2Proof.Machine
end

