-- ==== Sys2Proof/Machine/Messages.lean ====
section
/-!
DEFINITION. Program messages: the members of major 0x2D and the moves of messages between threads (07 R136–R142, 12
R268, R269).
-/
namespace Sys2Proof.Machine

/-! ### Sending -/

/-- What R140 refuses exactly: a foreign opcode, too many operand words, a target that is no message interface (20
R354), or one outside the job's partition. -/
def msgRefused (s : State) (m : Vec) : Bool :=
  let e := msgTarget m
  !(0x40 ≤ msgOpcode m && msgOpcode m ≤ 0x7F) || 6 < msgWords m || !(epUnit e < 0x24 || epUnit e == 0x44) ||
    (s.regs.pcfg && epModule e == s.regs.modnum % 1024 && dieOf (epCluster e) != (s.slot (slotOf s s.tid)).part)

/-- A send: refused, or with a place in the send queue, which it waits for or traps for (R139). A release fence issued
before it is performed first (R268). -/
def State.send (s : State) (m : Vec) (k : Result) : Result :=
  if msgRefused s m then s.trap { code := 0x0C }
  else
    s.access true (if s.th.sqDepth ≤ s.th.sq.length then (if s.th.sqTrap then s.trap { code := 0x0B } else s.stall) else k)

/-- Places a packet in the thread's send queue. -/
def Thread.queueMsg (t : Thread) (m : Vec) : Thread := { t with sq := t.sq ++ [m] }

/-- Fields of the thread a packet carries: its endpoint, and byte [9] for a slot or entry. -/
def myEndpoint (s : State) : Nat := endpointOf s (clusterOf s.tid) (coreOf s.tid % 36)
def myByte9 (s : State) (n : Nat) : Nat := n + 16 * (s.tid % 4)

/-- One of some free places, as the free choice says. -/
def freePlace (s : State) (ns : List Nat) : Option Nat := ns[Config.messageEntry s.serial % ns.length]?

def freeSlots (t : Thread) : List Nat := (range 0 16).filter fun i => t.reps[i]? == some .free
def freeEntries (t : Thread) : List Nat := (range 0 16).filter fun i => t.journal[i]? == some .free

def Thread.setRep (t : Thread) (i : Nat) (x : ReplySlot) : Thread := { t with reps := t.reps.set (i % 16) x (by omega) }
def Thread.setEntry (t : Thread) (i : Nat) (x : JournalEntry) : Thread :=
  { t with journal := t.journal.set (i % 16) x (by omega) }

/-- `MSEND` (R268): takes a reply slot, and stalls while there is none (R137). -/
def execMsend (d : SReg) (b : VReg) (s : State) : Result :=
  let m := s.th.rv b
  s.send m (match freePlace s (freeSlots s.th) with
    | none => s.stall
    | some i =>
      let m := sealMsg m false false 0 (myEndpoint s) (myByte9 s i) (asidOf s s.tid)
      (s.bump.upd fun t => (t.queueMsg m).setRep i (.reserved m s.tid s.serial)).retireS d (BitVec.ofNat 64 i))

/-- `MSEND`, posted (R268, R141): takes a journal entry, and stalls while there is none. -/
def execMsendPost (d : SReg) (b : VReg) (s : State) : Result :=
  let m := s.th.rv b
  s.send m (match freePlace s (freeEntries s.th) with
    | none => s.stall
    | some i =>
      let m := sealMsg m false true 0 (myEndpoint s) (myByte9 s i) (asidOf s s.tid)
      (s.bump.upd fun t => (t.queueMsg m).setEntry i (.sent m s.tid s.serial)).retireS d (BitVec.ofNat 64 i))

/-- The message a journal entry holds. -/
def Thread.entryMsg (t : Thread) (i : Nat) : Option Vec :=
  match t.journal[i]? with
  | some (.sent m _ _) | some (.refused m _ _) => some m
  | _ => none

/-- `UJIDX` after the retry or the discard of the entry it names (R141). -/
def Thread.clearUj (t : Thread) : Thread := { t with ujV := false, ujIdx := 0, ujSt := 0 }

/-- `MSEND`, retry (R268, R141). -/
def execMsendRetry (d : SReg) (s : State) : Result :=
  let t := s.th
  if !t.ujV then s.retireS d (BitVec.allOnes 64)
  else
    match t.entryMsg t.ujIdx with
    | none => s.retireS d (BitVec.allOnes 64)
    | some m =>
      s.send m
        (let m := sealMsg m false true 0 (myEndpoint s) (myByte9 s t.ujIdx) (asidOf s s.tid)
         (s.bump.upd fun t => ((t.queueMsg m).setEntry t.ujIdx (.sent m s.tid s.serial)).clearUj).retireS d (BitVec.ofNat 64 t.ujIdx))

/-- The entry `UJIDX` names is discarded (R141). -/
def Thread.discardEntry (t : Thread) : Thread := if t.ujV then (t.setEntry t.ujIdx .free).clearUj else t

/-- `UJIDX_DISCARD` (R141): the write of 1 to `UJIDX.v` by the current thread. -/
def execUjidxDiscard (s : State) : Result := .next (s.upd Thread.discardEntry)

/-- `MREPLY` (R268): to the endpoint, thread and slot its packet names. -/
def execMreply (b : VReg) (s : State) : Result :=
  let m := s.th.rv b
  s.send m ((s.upd fun t => t.queueMsg (sealMsg m true false 0 (myEndpoint s) (msgByte m 9) (asidOf s s.tid))).skip 4)

/-! ### Receiving -/

/-- The requests waiting for a thread: those of its context image first (R142), then those of its inbox. -/
def waitingReqs (s : State) (tid : Nat) : List Vec :=
  match (s.thread tid).inbox with
  | some n => (s.thread tid).spill ++ ((s.cluster (clusterOf tid)).inboxes.get {} n).msgs
  | none => []

/-- Removes the oldest waiting request. -/
def takeReq (s : State) (tid : Nat) : State :=
  let t := s.thread tid
  match t.spill, t.inbox with
  | _ :: r, _ => s.updThread tid fun t => { t with spill := r }
  | [], some n => s.updCluster (clusterOf tid) fun cl =>
      let b := cl.inboxes.get {} n
      { cl with inboxes := cl.inboxes.put n { b with msgs := b.msgs.drop 1 } }
  | [], none => s

/-- The oldest waiting reply, with its slot. -/
def oldestReply (t : Thread) : Option (Nat × Vec) :=
  let rs := (range 0 16).filterMap fun i => match (t.reps[i]? : Option ReplySlot) with | some (.reply m o) => some (o, i, m) | _ => none
  match least (rs.map (·.1)) with
  | some o => (List.find? (fun (x : Nat × Nat × Vec) => x.1 == o) rs).map (·.2)
  | none => none

/-- `MRECV` (R268): removes the oldest request, and waits under 02 R40 where there is none. -/
def execMrecv (d : VReg) (s : State) : Result :=
  s.point <|
    if s.th.inbox.isNone then s.retireV d 0
    else
      match waitingReqs s s.tid with
      | [] => s.wait
      | m :: _ => (takeReq s s.tid).retireV d m

/-- `MRECV`, reply form (R268). -/
def execMrecvRep (d : VReg) (s : State) : Result :=
  s.point <|
    match oldestReply s.th with
    | some (i, m) => s.retire 4 fun t => (t.setRep i .free).wv d m
    | none => if (freeSlots s.th).length = 16 then s.retireV d 0 else s.wait

/-- `MPEEK` (R268). -/
def execMpeek (d : VReg) (s : State) : Result := s.retireV d ((waitingReqs s s.tid).headD 0)

/-- `MPEEK`, reply form (R268). -/
def execMpeekRep (d : VReg) (s : State) : Result := s.retireV d (((oldestReply s.th).map (·.2)).getD 0)

/-! ### Binding -/

/-- Releases the binding of a thread: the waiting requests stay in the inbox (R138). -/
def releaseInbox (s : State) (tid : Nat) : State :=
  match (s.thread tid).inbox with
  | none => s
  | some n =>
    let spill := (s.thread tid).spill
    let s := s.updThread tid fun t => { t with inbox := none, spill := [] }
    s.updCluster (clusterOf tid) fun cl =>
      let b := cl.inboxes.get {} n
      { cl with inboxes := cl.inboxes.put n { b with bound := none, msgs := spill ++ b.msgs } }

/-- `MBIND` (R269, R138). -/
def execMbind (d a : SReg) (s : State) : Result :=
  let x := s.th.rs a
  let n := field x 0 6
  if field x 7 57 ≠ 0 then s.illegal
  else if x.getLsbD 6 then
    if s.th.inbox.isNone then s.retireS d 3 else (releaseInbox s s.tid).retireS d 2
  else
    let key := bindKey s s.tid
    match ((s.cluster (clusterOf s.tid)).inboxes.get {} n).bound with
    | some h => s.retireS d (if some h = key then 0 else 1)
    | none =>
      let s := releaseInbox s s.tid
      let s := s.updCluster (clusterOf s.tid) fun cl =>
        { cl with inboxes := cl.inboxes.put n { cl.inboxes.get {} n with bound := key, job := slotOf s s.tid } }
      (s.upd fun t => { t with inbox := some n }).retireS d 0

/-! ### Moves of messages -/

/-- Where a request addressed to a cluster of this module ends: accepted by its inbox, held while that is full, or
refused with a status (R140). -/
inductive Landing where
  | accepted (s : State)
  | held
  | refused (status : Nat)

/-- Delivers a request to the inbox it names; `ok` says whether a job may send to it. -/
def landRequest (s : State) (m : Vec) (ok : Nat → Bool) : Landing :=
  let c := epCluster (msgTarget m)
  let b := (s.cluster c).inboxes.get {} (msgInbox m)
  match b.bound with
  | none => .refused 1
  | some (k, striker) =>
    if !ok b.job then .refused 3
    else if Config.inboxDepth ≤ b.msgs.length then .held
    else
      let s := (wakeCluster s c).updCluster c fun cl => { cl with inboxes := cl.inboxes.put (msgInbox m) { b with msgs := b.msgs ++ [m] } }
      let tids := match s.tasks.find? k with | some t => t.threads | none => []
      .accepted (tids.foldl (fun s t => if (roleOf t == 1) == striker then s.updThread t Thread.wake else s) s)

/-- `MESSAGE_REQUEST` (07 R140): request a of this module's threads is performed at its target in the order of 06 R129,
or, with the flag, packet a that came over the fabric, which a module that has fenced itself refuses (21 R373; log entry 120). -/
def execMessageRequest (s : State) : Result :=
  if s.ev.flag then
    match s.ingress[s.ev.a]? with
    | some p =>
      let m := vecOfBytes p.body
      let before := (s.ingress.take s.ev.a).any fun q => q.typ == 1 && q.net == 0 && q.src == p.src && epCluster q.dst == epCluster p.dst
      if p.typ ≠ 1 ∨ p.net ≠ 0 ∨ before then .next s
      else
        let rest := s.dropIngress s.ev.a
        let back := fun (s : State) (st : Nat) => { s with egress := s.egress ++ [msgPacket (answerMsg m st) (msgTarget m)] }
        match if s.regs.mstate = 3 then Landing.refused 2 else landRequest rest m fun j => (s.slot j).asid == msgAsid m with
        | .accepted s => .next (if msgPosted m then back s 0 else s)
        | .held => .next s
        | .refused st => .next (back rest st)
    | none => .next s
  else
    match s.requests[s.ev.a]? with
    | some f =>
      let m := f.msg
      let before := (s.requests.take s.ev.a).any fun q =>
        msgSender q.msg == msgSender m && epCluster (msgTarget q.msg) == epCluster (msgTarget m)
      if before then .next s
      else
        let rest := { s with requests := dropNth s.requests s.ev.a }
        match landRequest rest m fun j => j == f.slot with
        | .accepted s => .next (if msgPosted m then answerPost s m 0 else s)
        | .held => .next s
        | .refused st =>
          .next (if msgPosted m then answerPost rest m st
            else { rest with replies := rest.replies ++ [answerMsg m st] })
    | none => .next s

/-- The number of the reservation a reply fills: of the contexts whose slot a request of that hardware thread took, the
one that took it first (R137). -/
def slotOwner (s : State) (tid slot : Nat) : Option Nat :=
  least ((contexts s).filterMap fun (t : Thread) => match t.reps[slot]? with
    | some (.reserved _ h n) => if h = tid then some n else none
    | _ => none)

/-- A reply reaches the context whose slot it names; one that names none is discarded (R137). -/
def landReply (s : State) (m : Vec) : State :=
  let tid := threadOf (msgTarget m) (msgByte m 9)
  if epUnit (msgTarget m) ≥ 0x24 ∨ msgByte m 9 ≥ 64 then s
  else
    match slotOwner s tid (msgSlot m) with
    | none => s
    | some n =>
      mapContexts s.bump fun t =>
        match t.reps[msgSlot m]? with
        | some (.reserved _ h k) => if h = tid ∧ k = n then (t.setRep (msgSlot m) (.reply m s.serial)).wake else t
        | _ => t

/-- Whether another reply of the same pair of endpoints came before packet a from another module (06 R129). -/
def replyBefore (s : State) (p : LinkPacket) : Bool :=
  (s.ingress.take s.ev.a).any fun q => q.typ == 1 && q.net == p.net && q.src == p.src && q.dst == p.dst

/-- `MESSAGE_REPLY` (07 R137): reply a on its way to this module's threads, or, with the flag, packet a from another
module; the replies from one endpoint to another arrive in the order they were sent (06 R129). -/
def execMessageReply (s : State) : Result :=
  if s.ev.flag then
    match s.ingress[s.ev.a]? with
    | some p =>
      let m := vecOfBytes p.body
      if p.typ ≠ 1 ∨ p.net = 0 ∨ msgPosted m ∨ replyBefore s p then .next s
      else .next (landReply (s.dropIngress s.ev.a) m)
    | none => .next s
  else
    match s.replies[s.ev.a]? with
    | some m =>
      let before := (s.replies.take s.ev.a).any fun q => msgSender q == msgSender m && msgTarget q == msgTarget m
      .next (if before then s else landReply { s with replies := dropNth s.replies s.ev.a } m)
    | none => .next s

/-- The number of the posted request that waits under an entry of a hardware thread. -/
def entryOwner (s : State) (tid entry : Nat) : Option Nat :=
  least ((contexts s).filterMap fun (t : Thread) => match t.journal[entry]? with
    | some (.sent _ h n) => if h = tid then some n else none
    | _ => none)

/-- A posted request's acceptance or refusal reaches its entry (R141): the entry becomes free, or is kept and cause 0x0D
pends. -/
def landPosted (s : State) (p : PostFlight) : State :=
  match entryOwner s p.tid p.entry with
  | none => s
  | some n =>
    mapContexts s.bump fun t =>
      match t.journal[p.entry]? with
      | some (.sent m h k) =>
        if h = p.tid ∧ k = n then
          if p.status = 0 then t.setEntry p.entry .free
          else { (t.setEntry p.entry (.refused m p.status s.serial)).wake with pend := t.pend ++ [{ code := 0x0D }] }
        else t
      | _ => t

/-- Whether the same port has answered an earlier posted request of the same core, and that answer is still on its way (06
R129). -/
def postBefore (s : State) (f : PostFlight) : Bool :=
  (s.accepts ++ s.refusals).any fun q => coreOf q.tid == coreOf f.tid && q.port == f.port && q.order < f.order

/-- The acceptance or refusal a packet from another module carries: a reply with the posted bit. -/
def postedOf (s : State) (p : LinkPacket) (refusal : Bool) : Option PostFlight :=
  let m := vecOfBytes p.body
  if p.typ = 1 ∧ p.net = 1 ∧ msgPosted m ∧ (msgStatus m != 0) = refusal ∧ ¬ replyBefore s p then
    some { tid := threadOf (msgTarget m) (msgByte m 9), entry := msgSlot m, status := msgStatus m }
  else none

/-- `POSTED_ACCEPTANCE` (07 R141). -/
def execPostedAcceptance (s : State) : Result :=
  if s.ev.flag then
    match (s.ingress[s.ev.a]?).bind fun p => postedOf s p false with
    | some f => .next (landPosted (s.dropIngress s.ev.a) f)
    | none => .next s
  else
    match s.accepts[s.ev.a]? with
    | some f => .next (if postBefore s f then s else landPosted { s with accepts := dropNth s.accepts s.ev.a } f)
    | none => .next s

/-- `POSTED_REFUSAL` (07 R141). -/
def execPostedRefusal (s : State) : Result :=
  if s.ev.flag then
    match (s.ingress[s.ev.a]?).bind fun p => postedOf s p true with
    | some f => .next (landPosted (s.dropIngress s.ev.a) f)
    | none => .next s
  else
    match s.refusals[s.ev.a]? with
    | some f => .next (if postBefore s f then s else landPosted { s with refusals := dropNth s.refusals s.ev.a } f)
    | none => .next s

/-- `SEND_QUEUE_ACCEPTANCE` (07 R139): the mesh takes the oldest message of a thread's queue. -/
def execSendQueueAcceptance (s : State) : Result :=
  match (s.thread s.ev.a).sq with
  | [] => .next s
  | m :: r => .next ((acceptMessage s (slotOf s s.ev.a) m).updThread s.ev.a fun t => { t with sq := r })

end Sys2Proof.Machine
end

