-- ==== Sys2Proof/Machine/Links.lean ====
section
/-!
DEFINITION. The links between modules (20 R355–R359): flits received, packets sent, ports that fail, and the reads that
owners' ports and keyhole ports perform for other modules (19 R343–R345).
-/
namespace Sys2Proof.Machine

/-! ### Ports -/

/-- The port a packet for a module leaves by (R357): the lowest that is up in its route. -/
def routePort (s : State) (m : Nat) : Option Nat :=
  let r := s.regs.nlroute.get 0 m
  (range 0 18).find? fun p => r / 2 ^ p % 2 == 1 && (s.port p).state == .up

/-! ### Requests that no module can answer (R357, 21 R373) -/

/-- A line reply with poison, and a watch answer with poison. -/
def poisonReply (src dst tag : Nat) : LinkPacket :=
  { typ := 3, net := 1, src := src, dst := dst, tag := tag, status := 1, body := List.replicate 64 0 }
def poisonAnswer (src dst tag : Nat) : LinkPacket :=
  { typ := 5, net := 1, src := src, dst := dst, tag := tag, status := 2, body := List.replicate 16 0 }

/-- A packet that ends at its source as unreachable. -/
def lostPacket (s : State) (p : LinkPacket) : State :=
  match p.typ with
  | 2 => { s with ingress := s.ingress ++ [poisonReply p.dst p.src p.tag] }
  | 4 => { s with ingress := s.ingress ++ [poisonAnswer p.dst p.src p.tag] }
  | 1 =>
    let m := vecOfBytes p.body
    if msgReply m then s
    else if msgPosted m then answerPost s m 2
    else { s with replies := s.replies ++ [answerMsg m 2] }
  | _ => s

/-- The tags of line reads of this module's threads whose replies have not come, with the module each went to. -/
def readsOwed (s : State) : List (Nat × Nat) :=
  s.threads.flatMap fun t => t.2.outs.flatMap fun o => (o.elems.zipIdx o.serial).filterMap fun e =>
    match e.1.place with
    | .remote m _ => if !e.1.sent || e.1.home then none else some (m, e.2 % 65536)
    | _ => none

/-- The same for watches. -/
def watchesOwed (s : State) : List (Nat × Nat) :=
  s.watchReqs.filterMap fun r => match r.place with
    | .remote m _ => if r.link.isNone then some (m, r.serial % 65536) else none
    | _ => none

/-- Whether a reply of a type with a tag has come. -/
def hasReply (s : State) (typ tag : Nat) : Bool := s.ingress.any fun p => p.typ == typ && p.tag == tag

/-- Whether a message for another module, no longer in its thread's queue, waits for an answer that cannot come. -/
def msgLost (s : State) (t : Thread) (m : Vec) : Bool :=
  epModule (msgTarget m) != s.regs.modnum % 1024 && unreachable s (epModule (msgTarget m)) && !t.sq.contains m

/-- Ends every request to a module that has become unreachable: its packets, and the answers that can no longer come
(R357, 21 R373). -/
def settleUnreachable (s : State) : State :=
  let dead := fun (m : Nat) => m != s.regs.modnum % 1024 && unreachable s m
  let reads := (readsOwed s).filter fun r => dead r.1 && !hasReply s 3 r.2
  let watches := (watchesOwed s).filter fun r => dead r.1 && !hasReply s 5 r.2
  let ts := contexts s
  let refused := ts.flatMap fun t => t.reps.toList.filterMap fun (r : ReplySlot) => match r with
    | .reserved m _ _ => if msgLost s t m && !s.replies.contains (answerMsg m 2) then some (answerMsg m 2) else none
    | _ => none
  let posts : List PostFlight := ts.flatMap fun t => t.journal.toList.filterMap fun (e : JournalEntry) => match e with
    | .sent m h _ =>
      let p := { postAnswer s m 2 with tid := h }
      if msgLost s t m && !s.refusals.any (fun q => q.tid == p.tid && q.entry == p.entry) then some p else none
    | _ => none
  { s with egress := s.egress.filter fun p => !dead (epModule p.dst)
           ingress := s.ingress ++ reads.map (fun r => poisonReply 0 0 r.2) ++ watches.map fun r => poisonAnswer 0 0 r.2
           replies := s.replies ++ refused, refusals := s.refusals ++ posts }

/-! ### Sending (R355–R357) -/

/-- A flit as a port would send it now: with its acknowledgement and the credits it has freed (R355). -/
def Port.flit (x : Port) (seq kind : Nat) (ps : List LinkPacket) : Flit :=
  { seq := seq, ack := (x.rxSeq + 65535) % 65536, kind := kind, reqCredits := x.reqFreed, repCredits := x.repFreed, good := true, packets := ps }

/-- A port sends a new flit. -/
def sendFlit (s : State) (q kind : Nat) (ps : List LinkPacket) : State :=
  s.updPort q fun x =>
    { x with unacked := x.unacked ++ [(x.txSeq, ps, 0)], txSeq := (x.txSeq + 1) % 65536, sent := x.sent ++ [x.flit x.txSeq kind ps]
             reqFreed := 0, repFreed := 0, owesAck := false, wantRetry := x.wantRetry && kind != 2 }

/-- Sends one packet as one data flit on a port (log entry 118), for credits of its network. -/
def sendOn (s : State) (q : Nat) (p : LinkPacket) : State :=
  (sendFlit s q 0 [p]).updPort q fun x =>
    { x with reqCredits := if p.net = 0 then x.reqCredits - p.beats else x.reqCredits
             repCredits := if p.net = 0 then x.repCredits else x.repCredits - p.beats }

/-- Whether a port has room for a packet: credits for all of its beats on its network, and a place among the last 256 flits. -/
def mayLeave (x : Port) (p : LinkPacket) : Bool :=
  p.beats ≤ (if p.net = 0 then x.reqCredits else x.repCredits) && x.unacked.length < 256

/-- The first packet, behind `before`, that leaves or ends: none overtakes another of its network on its port. -/
def drainFrom (s : State) (before : List LinkPacket) : List LinkPacket → Option State
  | [] => none
  | p :: rest =>
    let gone : State := { s with egress := before ++ rest }
    if unreachable s (epModule p.dst) then some (lostPacket gone p)
    else
      match routePort s (epModule p.dst) with
      | none => some (lostPacket gone p)
      | some q =>
        if mayLeave (s.port q) p && before.all (fun b => b.net != p.net || routePort s (epModule b.dst) != some q) then
          some (sendOn gone q p)
        else drainFrom s (before ++ [p]) rest

/-- A port that owes the far end a retry request, an acknowledgement or credits, and has no packet to send, sends a retry request
or an idle flit. -/
def drainPorts (s : State) : Option State :=
  ((range 0 18).find? fun q =>
    let x := s.port q
    x.state == .up && x.unacked.length < 256 && (x.wantRetry || x.owesAck || x.reqFreed != 0 || x.repFreed != 0)).map fun q =>
      sendFlit s q (if (s.port q).wantRetry then 2 else 1) []

/-- The keyhole port of stack k sends what it owes in a flit: its oldest reply, for credits, or an answer to the far end (R355, R359). -/
def drainKeyhole (s : State) (k : Nat) : Option State :=
  let x := s.port (18 + k)
  if !s.portUp (18 + k) || x.unacked.length ≥ 256 then none
  else
    match s.keyholeSend.find? fun p => p.1 == k && mayLeave x p.2 with
    | some p => some (sendOn { s with keyholeSend := s.keyholeSend.erase p } (18 + k) p.2)
    | none =>
      if x.wantRetry || x.owesAck || x.reqFreed != 0 || x.repFreed != 0 then some (sendFlit s (18 + k) (if x.wantRetry then 2 else 1) []) else none

/-- The fabric takes one packet that may leave, or a flit that a port owes. -/
def drainEgress (s : State) : Option State :=
  (drainFrom s [] s.egress).orElse fun _ => (drainPorts s).orElse fun _ => (range 0 8).findSome? (drainKeyhole s)

/-! ### Failing ports (R357) -/

/-- Whether two ports have one far end: a module, or a switch, of which a module has one (log entry 119). -/
def sameEnd (x y : Port) : Bool := x.sw == y.sw && (x.sw || x.peer == y.peer)

/-- What becomes of the flits of a port that goes out of use: `last` is the last sequence the far end accepted. Where another
port to the same far end is up, the packets after it go again, in order, ahead of every later one; otherwise each packet of
an unacknowledged flit ends as unreachable. -/
def failover (s : State) (p last : Nat) : State :=
  let x := s.port p
  let same := (range 0 18).any fun q => q != p % 18 && (s.port q).state == .up && sameEnd (s.port q) x
  let rest := match x.unacked.findIdx? fun u => u.1 == last with
    | some i => if same then x.unacked.drop (i + 1) else x.unacked
    | none => x.unacked
  let ps := rest.flatMap fun u => u.2.1
  let s := s.updPort p fun x => { x with unacked := [], wantRetry := false }
  let again := fun (k : LinkPacket) => same && (routePort s (epModule k.dst)).isSome
  let s := { s with egress := ps.filter again ++ s.egress }
  settleUnreachable ((ps.filter fun k => !again k).foldl lostPacket s)

/-- A port fails: an event is logged, and its traffic moves or ends. -/
def failPort (s : State) (p last : Nat) : State :=
  let s := s.updPort p fun x => { x with state := .failed }
  failover (logEvent s 10 0 0xFF (endpointOf s (p % 18 / 9 * 32) (0x90 + p % 18 % 9)) 0 0) p last

/-- `NARLOR_PORT_FAILURE` (R355, R357): port a; b is the last sequence the far end accepted. -/
def execNarlorPortFailure (s : State) : Result :=
  .next (if s.ev.a < 18 ∧ (s.port s.ev.a).state = .up then failPort s s.ev.a s.ev.b else s)

/-! ### `NLCTL` (R358) -/

/-- `NLCTL.en` is set: a port that is down begins to train. -/
def trainPort (s : State) (p : Nat) : State :=
  s.updPort p fun x => { x with en := true, state := if x.state = .down then .training else x.state }

/-- `NLCTL.en` is cleared: the port goes down. -/
def downPort (s : State) (p last : Nat) : State :=
  let st := (s.port p).state
  let s := s.updPort p fun x => { x with en := false, state := if x.state = .failed then .failed else .down }
  if st = .up then failover s p last else s

def clearPort (s : State) (p : Nat) : State :=
  s.updPort p fun x => { x with state := if x.state = .failed then .down else x.state }

/-- `NLCTL_TRAIN` (R358): port a. -/
def execNlctlTrain (s : State) : Result := .next (if s.ev.a < 18 then trainPort s s.ev.a else s)

/-- `NLCTL_DOWN` (R358): port a; b is the last sequence the far end accepted. -/
def execNlctlDown (s : State) : Result := .next (if s.ev.a < 18 then downPort s s.ev.a s.ev.b else s)

/-- `NLCTL_CLEAR_FAILED` (R358): port a. -/
def execNlctlClearFailed (s : State) : Result := .next (if s.ev.a < 18 then clearPort s s.ev.a else s)

/-- `NARLOR_PORT_UP` (R355, R358): training of port a ends; the far end is module b, or with the flag a switch. -/
def execNarlorPortUp (s : State) : Result :=
  .next (if s.ev.a < 18 ∧ (s.port s.ev.a).state = .training then
    s.updPort s.ev.a fun x =>
      { en := x.en, state := .up, peer := if s.ev.flag then 0 else s.ev.b % 1024, sw := s.ev.flag, retry := x.retry, sent := x.sent }
  else s)

/-! ### Receiving (R355, R356) -/

/-- Whether an arriving packet answers nothing any more, or is of no type: it is discarded. -/
def staleReply (s : State) (p : LinkPacket) : Bool :=
  match p.typ with
  | 1 | 2 | 4 => false
  | 3 => hasReply s 3 p.tag || !(readsOwed s).any fun r => r.2 == p.tag
  | 5 => hasReply s 5 p.tag || !(watchesOwed s).any fun r => r.2 == p.tag
  | _ => true

/-- An arriving packet lies in its port's buffer until it is taken. -/
def takePacket (s : State) (p : LinkPacket) : State := if staleReply s p then freeBeats s p else { s with ingress := s.ingress ++ [p] }

/-- A packet of a flit on port p is taken; every one on a keyhole port waits for its answer (R359). -/
def takeOn (s : State) (p : Nat) (k : LinkPacket) : State :=
  if p < 18 then takePacket s { k with via := some p } else { s with keyholeIn := s.keyholeIn ++ [(p - 18, { k with via := some p })] }

/-- The flits an acknowledgement does not cover. -/
def stillUnacked (us : List (Nat × List LinkPacket × Nat)) (ack : Nat) : List (Nat × List LinkPacket × Nat) :=
  match us.findIdx? fun u => u.1 == ack with
  | some i => us.drop (i + 1)
  | none => us

/-- A flit arrives on a port, Narlor or keyhole (R355, R359): one that is bad, out of sequence or fails its tag is discarded, and a retry request is
owed; otherwise its acknowledgement and credits count, its packets are taken, and `then_` follows. -/
def receiveFlit (s : State) (p kind : Nat) (f : Flit) (then_ : State → State) : State :=
  if p ≥ 26 ∨ !s.portUp p then s
  else if !f.good || f.kind != kind || f.seq != (s.port p).rxSeq then s.updPort p fun x => { x with wantRetry := true }
  else
    let s := s.updPort p fun x =>
      { x with rxSeq := (x.rxSeq + 1) % 65536, wantRetry := false, owesAck := x.owesAck || kind == 0, unacked := stillUnacked x.unacked f.ack
               reqCredits := min 512 (x.reqCredits + f.reqCredits), repCredits := min 512 (x.repCredits + f.repCredits) }
    then_ (f.packets.foldl (fun s k => takeOn s p k) s)

/-- An event that brings a flit to port a. -/
def State.flitEvent (s : State) (kind : Nat) (then_ : State → State) : Result :=
  .next (match s.ev.flit with
    | some f => receiveFlit s s.ev.a kind f then_
    | none => s)

/-- `DATA_FLIT` (R355). -/
def execDataFlit (s : State) : Result := s.flitEvent 0 id

/-- `IDLE_FLIT` (R355). -/
def execIdleFlit (s : State) : Result := s.flitEvent 1 id

/-- A keyhole port goes out of use: what its flit layer holds is gone, and it starts afresh. -/
def dropKeyhole (s : State) (k : Nat) : State :=
  { s.updPort (18 + k) (fun _ => {}) with
    regs := { s.regs with keyhole := s.regs.keyhole.filter (· != k) }
    keyholeIn := s.keyholeIn.filter fun p => p.1 != k, keyholeSend := s.keyholeSend.filter fun p => p.1 != k }

/-- A port sends its unacknowledged flits again, each as it was sent: the eighth failed attempt at one fails the port, and `last` is then
the last sequence that the far end accepted. -/
def resendFlits (s : State) (p last : Nat) : State :=
  let x := s.port p
  let us := x.unacked.map fun u => (u.1, u.2.1, u.2.2 + 1)
  let s := s.updPort p fun x =>
    { x with unacked := us, retry := min 0xFFFF (x.retry + us.length)
             sent := x.sent ++ us.filterMap fun u => x.sent.reverse.find? fun f => f.seq == u.1 }
  if us.all fun u => u.2.2 < 8 then s
  else if p < 18 then failPort s p last
  else logEvent (dropKeyhole s (p - 18)) 10 0 0xFF (endpointOf s ((p - 18) * 8) 0x60) 0 0

/-- `RETRY_REQUEST` (R355): on port a; b is the last sequence that the far end accepted, which a port that fails learns (R357). -/
def execRetryRequest (s : State) : Result := s.flitEvent 2 fun t => resendFlits t s.ev.a s.ev.b

/-! ### Reads for other modules -/

/-- Whether another module's read of a line may be performed: this module's own number, existing memory, and a range that
admits it (19 R345). -/
def readable (s : State) (src gpa : Nat) (keyhole : Bool) : Bool :=
  moduleOf gpa == s.regs.modnum && backed s (localOf gpa) && admitted s src gpa keyhole

/-- The reply to a line read: the line, or poison. -/
def lineAnswer (p : LinkPacket) (line : Vec) (bad : Bool) : LinkPacket :=
  if bad then poisonReply p.dst p.src p.tag
  else { typ := 3, net := 1, src := p.dst, dst := p.src, tag := p.tag, status := 0, body := bytesOfVec line }

/-- `LINE_READ` (05 R104, 19 R343, 20 R356): the owner's port performs element c of operation b of thread a, or, with the
flag, packet a from another module, each in the order of 06 R129. -/
def execLineRead (s : State) : Result :=
  if s.ev.flag then
    match s.ingress[s.ev.a]? with
    | none => .next s
    | some p =>
      if p.typ ≠ 2 ∨ fabricBehind s s.ev.a p [2, 4] then .next s
      else
        let gpa := natAt p.body 0 7
        let l := localOf gpa / 64
        let bad := !readable s (p.src / 2 ^ 14) gpa false || linePoison s l != 0
        let s := ((wakeAt s (localOf gpa)).dropIngress s.ev.a).serve false (l * 64) 64
        .next { s with egress := s.egress ++ [lineAnswer p (truthLine s l) bad] }
  else .next (portRead s s.ev.a s.ev.b s.ev.c)

/-- A line of memory itself, beneath the stash (R359). -/
def memoryLine (s : State) (line : Nat) : Vec := vecOfBytes ((range (line * 64) 64).map s.byte)

/-- The keyhole port of a stack answers a packet; it reads HBM of its own stack alone. The reply leaves in a flit. -/
def keyholeAnswer (s : State) (stack : Nat) (p : LinkPacket) : State :=
  let gpa := natAt p.body 0 7
  let l := localOf gpa / 64
  let mine := match spaceOf (localOf gpa) with | .hbm c _ => c / 8 == stack | _ => false
  let bad := p.typ != 2 || !mine || !readable s (p.src / 2 ^ 14) gpa true || (range (l * 8) 8).any fun w => memPoisoned s (w * 8)
  let r := lineAnswer p (memoryLine s l) bad
  { (wakeAt s (localOf gpa)).serve false (l * 64) 64 with keyholeOut := s.keyholeOut ++ [(stack, r)], keyholeSend := s.keyholeSend ++ [(stack, r)] }

/-- `KEYHOLE_READ` (R359): the keyhole port of stack a answers the oldest packet that its flits have brought, or the one that comes with
the event (log entry 11). -/
def execKeyholeRead (s : State) : Result :=
  match s.ev.packet with
  | some p => .next (if s.regs.keyhole.contains s.ev.a then keyholeAnswer s s.ev.a p else s)
  | none => .next (match s.keyholeIn.find? fun p => p.1 == s.ev.a with
    | some p => freeBeats (keyholeAnswer { s with keyholeIn := s.keyholeIn.erase p } p.1 p.2) p.2
    | none => s)

/-- `KEYHOLE_PORT_UP` (R359): stack a. -/
def execKeyholePortUp (s : State) : Result :=
  .next (if s.ev.a < 8 ∧ ¬ s.regs.keyhole.contains s.ev.a then { s with regs := { s.regs with keyhole := s.regs.keyhole ++ [s.ev.a] } } else s)

/-- `KEYHOLE_PORT_DOWN` (R359): stack a. -/
def execKeyholePortDown (s : State) : Result := .next (if s.regs.keyhole.contains s.ev.a then dropKeyhole s s.ev.a else s)

end Sys2Proof.Machine
end

