-- ==== Sys2Proof/Machine/Fleet.lean ====
section
/-!
DEFINITION. What fleet operators see (chapter 21): fenced modules (R373), adaptive remapping (R376), soft errors (R378,
R379) and telemetry (R382).
-/
namespace Sys2Proof.Machine

/-! ### Fenced modules -/

/-- A write of `FENCEM` word i (R373): requests to a module fenced now end at once. -/
def fencemSet (s : State) (i : Nat) (v : Word) : State :=
  settleUnreachable { s with regs := { s.regs with fencem := s.regs.fencem.put i v } }

/-- `FENCEM_WRITE` (R373): word a, value v. -/
def execFencemWrite (s : State) : Result := .next (if s.ev.a < 16 then fencemSet s s.ev.a s.ev.v else s)

/-! ### Adaptive remapping (R376, R377) -/

/-- The channel of region r of a slice. -/
def channelOf (cl : Cluster) (r : Nat) : Nat := cl.remapTable.get (r % 4) r

/-- The regions that an event's numbers name in pairs with the bytes that each served besides. -/
def extraServed : List Nat → List (Nat × Nat)
  | r :: n :: rest => (r, n) :: extraServed rest
  | _ => []

/-- The regions of a cluster's slice that have served bytes in the window, with how many: those of the accesses, and those that the event
adds, since what caches and prefetches move is not in the manual (log entry 121). -/
def windowServed (s : State) (c : Nat) : List (Nat × Nat) :=
  (s.served.filterMap fun r => if r.1 / 4096 = c then some (r.1 % 4096, r.2) else none) ++ extraServed s.ev.nats

/-- The bytes that the regions of a slice with some property have served in the window. -/
def servedBy (s : State) (c : Nat) (p : Nat → Bool) : Nat := (((windowServed s c).filter fun r => p r.1).map (·.2)).sum

/-- The bytes that channel k of a slice has served in the window. -/
def channelServed (s : State) (c k : Nat) : Nat := servedBy s c fun r => channelOf (s.cluster c) r == k

/-- The bytes that region r of a slice has served in the window. -/
def regionServed (s : State) (c r : Nat) : Nat := servedBy s c (· == r)

/-- Whether channel k has served more than thr / 10 times the mean of the four. -/
def hotChannel (s : State) (c k : Nat) : Bool :=
  40 * channelServed s c k > (s.cluster c).remapThr * ((range 0 4).map (channelServed s c)).sum

/-- The first of some numbers whose measure no other's exceeds, by the order given. -/
def firstBest (better : Nat → Nat → Bool) (f : Nat → Nat) : List Nat → Option Nat
  | [] => none
  | x :: r => match firstBest better f r with | some y => if better (f y) (f x) then some y else some x | none => some x

/-- The regions of a slice that lie on channel k. -/
def regionsOn (cl : Cluster) (k : Nat) : List Nat := (range 0 4096).filter fun r => channelOf cl r == k

/-- The swap that the end of a window asks for, if any: a channel hot for its second window gives its most-used region for the least-used
region of the least-used channel; of equals the lowest (log entry 83). -/
def remapSwap (s : State) (c : Nat) (runs : Assoc Nat) : Option (Nat × Nat × Nat × Nat) :=
  let cl := s.cluster c
  if !cl.remapEn || cl.remapSince < 10 then none
  else
    match List.find? (fun (r : Nat × Nat) => r.2 ≥ 2) runs, firstBest (fun x y => x < y) (channelServed s c) (range 0 4) with
    | some (k, _), some least =>
      if k = least then none
      else
        match firstBest (fun x y => x > y) (regionServed s c) (regionsOn cl k),
          firstBest (fun x y => x < y) (regionServed s c) (regionsOn cl least) with
        | some hot, some cold => some (k, least, hot, cold)
        | _, _ => none
    | _, _ => none

/-- The end of a window of a cluster's slice: a swap if one is due, and the counts begin again. -/
def remapWindow (s : State) (c : Nat) : State :=
  let runs := (range 0 4).map fun k => (k, if hotChannel s c k then (s.cluster c).remapRuns.get 0 k + 1 else 0)
  let x := remapSwap s c runs
  let s := { s with served := s.served.filter fun r => r.1 / 4096 != c }
  match x with
  | none => s.updCluster c fun cl => { cl with remapRuns := runs.filter (·.2 != 0), remapSince := min 10 (cl.remapSince + 1) }
  | some (k, least, hot, cold) =>
    let s := s.updCluster c fun cl =>
      { cl with remapRuns := [], remapSince := 1, remapSwaps := (cl.remapSwaps + 1) % 2 ^ 32
                remapTable := (cl.remapTable.put hot least).put cold k }
    logEvent (s.count (16 * c + 13) 1) 7 0 0xFF (endpointOf s c 0x50) (s.gpa (hbmBase c + hot * 0x200000)) 0

/-- `REMAP_WINDOW` (R376): a window of cluster a ends. No value that any access sees changes (R377). -/
def execRemapWindow (s : State) : Result := .next (if s.ev.a < 64 then remapWindow s s.ev.a else s)

/-! ### Soft errors (R378, R379) -/

/-- Word w of a line becomes poisoned. -/
def strikeWord (p : BitVec 8) (w : BitVec 3) : BitVec 8 := p ||| (1#8 <<< w.toNat)

/-- A word, or for HBM and tier two a line, of the cluster's memories is marked poisoned: in the stash where a line of an owned
range holds it. No write takes place, so no watch is evaluated. -/
def strikeMemory (s : State) (a : Nat) (inStash : Bool) : State :=
  match (if inStash then ownedLine s a else none), (spaceOf a).cluster? with
  | some l, some c => s.updCluster c fun cl =>
      { cl with stashLines := cl.stashLines.put (a / 64) { l with poison := l.poison ||| (1#8 <<< (a % 64 / 8)) } }
  | _, _ =>
    match spaceOf a with
    | .hbm _ _ | .tier2 _ _ => (range (a / 64 * 8) 8).foldl (fun s w => markWord s w true) s
    | .store _ _ | .bank _ _ _ _ => if supBacked s a then markWord s (a / 8) true else s
    | _ => s

/-- Counts an error of a cluster and logs it: type 2 for poison created, type 1 for a correction. -/
def errorSeen (s : State) (c counter typ slot unit addr : Nat) : State :=
  logEvent (s.count (16 * c + counter) 1) typ 0 slot (endpointOf s c unit) addr 0

/-- Poison created in a thread's core. -/
def threadStruck (s : State) (tid : Nat) : State := errorSeen s (clusterOf tid) 11 2 (slotOf s tid) (coreOf tid % 36) 0

/-- A word of an instruction cache that fails its parity is fetched afresh. -/
def refetch (s : State) (n line : Nat) : State := s.updTile n fun t => { t with icache := t.icache.drop line }

/-- The unit of a cluster that a site's storage belongs to. -/
def siteUnit (x : ErrSite) : Option (Nat × Nat) :=
  match x with
  | .mem a => (spaceOf a).cluster?.map fun c => (c, 0x50)
  | .sreg t _ | .areg t _ | .vreg t _ _ | .mreg t _ | .limb t _ => some (clusterOf t, coreOf t % 36)
  | .acc n _ | .code n _ => some (n / 6, n % 6 * 6 + 1)
  | .l1 k _ | .l1Line k _ _ => some (k / 36, k % 36)
  | .remote c _ _ | .shared c _ _ => some (c, 0x50)

/-- A word of a clean line of an L1. -/
def strikeL1Line (s : State) (core line : Nat) (w : BitVec 3) : State :=
  match (s.core core).lines.find? line with
  | some l => s.updCore core fun k => { k with lines := k.lines.put line { l with poison := strikeWord l.poison w } }
  | none => s

/-- An error beyond correction at a site. -/
def strike (s : State) (x : ErrSite) : State :=
  let reg := fun (tid : Nat) (b : BadReg) =>
    threadStruck (s.updThread tid fun t => { t with bad := if t.bad.contains b then t.bad else t.bad ++ [b] }) tid
  match x with
  | .mem a =>
    match (spaceOf a).cluster? with
    | some c => if supBacked s a then errorSeen (strikeMemory s a true) c 11 2 0xFF 0x50 (s.gpa a) else s
    | none => s
  | .sreg tid r => reg tid (.s r)
  | .areg tid r => reg tid (.a r)
  | .vreg tid r w => reg tid (.v r w)
  | .mreg tid r => reg tid (.m r)
  | .limb tid i => reg tid (.limb i)
  | .acc tile k =>
    let s := s.updTile tile fun t => { t with acc := t.acc.put k.toNat { t.acc.get {} k.toNat with poison := true } }
    errorSeen s (tile / 6) 11 2 0xFF (tile % 6 * 6 + 1) 0
  | .l1 core w =>
    let line := s.gpa (w * 4) / 64
    let hit := if ((s.core core).dirty.find? (otherHalf w)).isSome && ((s.core core).dirty.find? w).isSome then s
      else strikeL1Line s core line (BitVec.ofNat 3 (w % 16 / 2))
    match (s.core core).dirty.find? w with
    | some d =>
      let ws := [w / 2 * 2, w / 2 * 2 + 1].filter fun x => ((s.core core).dirty.find? x).isSome && !(s.core core).dirtyBad.contains x
      threadStruck (hit.updCore core fun k => { k with dirtyBad := k.dirtyBad ++ ws }) d.tid
    | none => if ((s.core core).lines.find? line).isSome then errorSeen hit (core / 36) 11 2 0xFF (core % 36) 0 else s
  | .l1Line core line w =>
    if ((s.core core).lines.find? line).isSome then errorSeen (strikeL1Line s core line w) (core / 36) 11 2 0xFF (core % 36) 0 else s
  | .remote c line w =>
    match (s.cluster c).remote.find? line with
    | some l => errorSeen (s.updCluster c fun cl => { cl with remote := cl.remote.put line { l with poison := strikeWord l.poison w } }) c 11 2 0xFF 0x50 0
    | none => s
  | .shared c line w =>
    match (s.cluster c).stashLines.find? (roKey line) with
    | some l => errorSeen (s.updCluster c fun cl => { cl with stashLines := cl.stashLines.put (roKey line) { l with poison := strikeWord l.poison w } }) c 11 2 0xFF 0x50 0
    | none => s
  | .code n l => refetch s n l

/-- `UNCORRECTABLE_ERROR` (R378, R379): at the event's site. -/
def execUncorrectableError (s : State) : Result := .next (match s.ev.site with | some x => strike s x | none => s)

/-- An error that is corrected: no value changes. Of a cluster's corrections one in a millisecond is logged. -/
def corrected (s : State) (c unit addr : Nat) (logged : Bool) : State :=
  if logged then errorSeen s c 10 1 0xFF unit addr else s.count (16 * c + 10) 1

/-- `PATROL_SCRUB` (R378): the patrol finds an error in line a of HBM or tier two: beyond correction with the flag, and otherwise
written back corrected, which evaluates no watch. With a site, an access meets a correctable error there. Of a cluster's
corrections b is 0 for the one in a millisecond that is logged. -/
def execPatrolScrub (s : State) : Result :=
  let a := s.ev.a * 64
  match s.ev.site with
  | some x =>
    .next (
      let s := match x with | .code n l => refetch s n l | _ => s
      match siteUnit x with | some u => corrected s u.1 u.2 (match x with | .mem p => s.gpa p | _ => 0) (s.ev.b == 0) | none => s)
  | none =>
    match spaceOf a with
    | .hbm c _ | .tier2 c _ =>
      .next (
        if !backed s a then s
        else if s.ev.flag then errorSeen (strikeMemory s a false) c 11 2 0xFF 0x50 (s.gpa a)
        else corrected s c 0x50 (s.gpa a) (s.ev.b == 0))
    | _ => .next s

/-! ### Telemetry (R382) -/

/-- A write of `TSNAP` (R382). -/
def tsnapWrite (s : State) (v : Word) : State := if v = 1 then { s.bump with snapshot := s.counters, snapAt := s.serial + 1 } else s

/-- `TSNAP` (R382): value v. -/
def execTsnap (s : State) : Result := .next (tsnapWrite s s.ev.v)

/-- Whether the table of counters lists an index. -/
def counterListed (s : State) (n : Nat) : Bool :=
  (n < 1024 && n % 16 != 15) || n == 1024 || n == 1025 || (1026 ≤ n && n ≤ 1034 && !s.fuse.lite)

/-- A cluster's active cycles at a snapshot: the manual does not give them, so that each count of its instructions adds a free number to
those before (log entry 121). -/
def activeCycles (s : State) (n : Nat) : Nat := ((range 0 (s.snapshot.get 0 (n + 1)).toNat).map (Config.traffic n)).sum

/-- Counter n as the snapshot holds it. -/
def counterWord (s : State) (n : Nat) : Word :=
  if !counterListed s n then 0 else if n < 1024 ∧ n % 16 = 0 then BitVec.ofNat 64 (activeCycles s n) else s.snapshot.get 0 n

end Sys2Proof.Machine
end

