-- ==== Sys2Proof/Machine/Matrix.lean ====
section
/-!
DEFINITION. Matrix instructions and the tile's semaphores (12 R250–R261, 02 R48–R50): the checks at issue, and the event
that completes an accepted instruction.
-/
namespace Sys2Proof.Machine

/-- Whether the thread belongs to the active tile-kernel pair of its tile. -/
def inPair (s : State) (tid : Nat) : Bool :=
  match launchOf s tid with
  | some l => l.tile && roleOf tid < 2 && (s.tile (tileOf tid)).pair == (s.thread tid).task
  | none => false

/-- Only the striker of the active pair issues to the matrix engine (R251, 02 R49). -/
def State.striker (s : State) (k : Result) : Result := if inPair s s.tid && roleOf s.tid == 1 then k else s.illegal

/-- The format word of a bank as the next instruction will find it: that of the last accepted `BFMT` of the bank. -/
def formatAt (s : State) (n : Nat) (b : BitVec 4) : Word :=
  (s.tile n).queue.foldl (fun w q => match q.instr with | .bfmt c _ => if c = b then q.x else w | _ => w)
    ((s.tile n).fmtAt b.toNat)

/-- The redundancy in force for the next instruction. -/
def redundancyAt (s : State) (n : Nat) : Nat :=
  redundancy ((s.tile n).queue.foldl (fun w q => match q.instr with | .mcfg _ => BitVec.ofNat 3 q.x.toNat | _ => w) (s.tile n).cfg)

/-- Accepts a matrix instruction: it waits in the tile's queue and counts in `mx` (R251). In asynchronous redundant mode
a drain completes before the next instruction issues, so that its trap is taken by then (R259). -/
def State.accept (s : State) (i : Instr) (x y fmtA fmtB : Word) (spans : List (Nat × Nat)) : Result :=
  let n := tileOf s.tid
  let drains := (s.tile n).queue.any fun q => match q.instr with | .mdrain _ _ _ _ => true | _ => false
  if drains && redundancyAt s n == 2 then s.stall
  else
    s.access true (s.raise true s.th.mx (
      let q : MxOp := { serial := s.serial, instr := i, tid := s.tid, x := x, y := y, fmtA := fmtA, fmtB := fmtB, spans := spans }
      ((s.updTile n fun t => { t with queue := t.queue ++ [q] }).bump).retire 4 fun t => { t with mx := t.mx + 1 }))

/-- `MCFG` (R252). -/
def execMcfg (a : SReg) (s : State) : Result :=
  let x := s.th.rs a
  s.striker (if field x 3 61 ≠ 0 ∨ field x 1 2 = 3 then s.illegal else s.accept (.mcfg a) x 0 0 0 [])

/-- The checks of `BFMT` (R253). -/
def formatOk (x : Word) : Bool :=
  let code := fmtCode x
  code < 0x18 && field x 47 17 == 0 && field x 33 7 == 0 && field x 5 11 == 0 && scaleOff x % 2 == 0 &&
    if codeScaled code then scaleBlocks x != 0 && scaleOff x + 128 * scaleBlocks x ≤ 131072
    else scaleBlocks x == 0 && scaleOff x == 0

/-- `BFMT` (R253). -/
def execBfmt (b : BitVec 4) (a : SReg) (s : State) : Result :=
  let x := s.th.rs a
  s.striker (if formatOk x then s.accept (.bfmt b a) x 0 0 0 [] else s.illegal)

/-- `MZERO` (R256). -/
def execMzero (c : BitVec 4) (s : State) : Result := s.striker (s.accept (.mzero c) 0 0 0 0 [])

/-- The bytes of a bank an operand and its scale words occupy. -/
def operandSpans (bank : Nat) (fmt : Word) (off k : Nat) : List (Nat × Nat) :=
  (bank + off, 64 * pitchOf (fmtCode fmt) k) ::
    if codeScaled (fmtCode fmt) then [(bank + scaleOff fmt, 128 * ((k + 63) / 64))] else []

/-- Checks 2 to 5 of `MMA` (R255). -/
def mmaOk (fa fb sk so : Word) : Bool :=
  let k := field sk 0 13
  let oa := field so 0 17
  let ob := field so 32 17
  let blocks := fun (f : Word) => !codeScaled (fmtCode f) || (k + 63) / 64 ≤ scaleBlocks f
  field sk 13 51 == 0 && field so 17 15 == 0 && field so 49 15 == 0 && 1 ≤ k && k ≤ 4096 && oa % 64 == 0 && ob % 64 == 0 &&
    oa + 64 * pitchOf (fmtCode fa) k ≤ 131072 && ob + 64 * pitchOf (fmtCode fb) k ≤ 131072 &&
    pairs (fmtCode fa) (fmtCode fb) && blocks fa && blocks fb

/-- `MMA` (R254, R255). -/
def execMma (c ba bb : BitVec 4) (sk so : SReg) (s : State) : Result :=
  let n := tileOf s.tid
  let fa := formatAt s n ba
  let fb := formatAt s n bb
  let x := s.th.rs sk
  let y := s.th.rs so
  s.striker (if mmaOk fa fb x y then
      s.accept (.mma c ba bb sk so) x y fa fb
        (operandSpans (bankAddr n ba) fa (field y 0 17) (field x 0 13) ++ operandSpans (bankAddr n bb) fb (field y 32 17) (field x 0 13))
    else s.illegal)

/-- The layout checks of `MDRAIN` and `MLOAD` (R256), and the destinations and sources they refuse (R257, R258). -/
def layoutOk (f so : Word) (drain : Bool) : Bool :=
  let off := field so 0 17
  let pitch := field so 32 17
  let row := rowBytes (fmtCode f) 64
  field so 17 15 == 0 && field so 49 14 == 0 && (drain || !so.getLsbD 63) && off % 64 == 0 && pitch % 64 == 0 &&
    row ≤ pitch && off + 63 * pitch + row ≤ 131072 && !codeScaled (fmtCode f) &&
    (codeClass (fmtCode f) == .float || codeClass (fmtCode f) == .int)

/-- The rows of a tensor as byte extents. -/
def tensorSpans (bank : Nat) (f so : Word) : List (Nat × Nat) :=
  (range 0 64).map fun i => (bank + field so 0 17 + i * field so 32 17, rowBytes (fmtCode f) 64)

/-- The 4 KiB units some extents touch, ascending. -/
def spanUnits (xs : List (Nat × Nat)) : List Nat :=
  xs.foldl (fun us p => (range (unitOf p.1) (unitOf (p.1 + p.2 - 1) - unitOf p.1 + 1)).foldl insertMark us) []

/-- `MDRAIN` (R257); in exact redundant mode it issues once everything before it is complete, so that a mismatch traps
exactly (R259). -/
def execMdrain (d : SReg) (c b : BitVec 4) (so : SReg) (s : State) : Result :=
  let n := tileOf s.tid
  let f := formatAt s n b
  let y := s.th.rs so
  s.striker (if !layoutOk f y true then s.illegal
    else
      let spans := tensorSpans (bankAddr n b) f y
      match (spanUnits spans).find? fun u => !threadMayStore s s.tid (u * 4096) 1 with
      | some u => s.trap { code := 0x07, fva := BitVec.ofNat 80 (u * 4096) }
      | none =>
        if redundancyAt s n = 1 ∧ (s.tile n).queue ≠ [] then s.stall
        else if redundancyAt s n = 1 ∧ ((s.tile n).accum c.toNat).paired ∧ (s.tile n).shadowOf c.toNat ≠ [] then
          (if settled s then mismatchSeen s n else s).trap { code := 0x0E, detail := n % 6 }
        else s.accept (.mdrain d c b so) 0 y f 0 spans)

/-- `MLOAD` (R258). -/
def execMload (c b : BitVec 4) (so : SReg) (s : State) : Result :=
  let n := tileOf s.tid
  let f := formatAt s n b
  let y := s.th.rs so
  s.striker (if layoutOk f y false then s.accept (.mload c b so) 0 y f 0 (tensorSpans (bankAddr n b) f y) else s.illegal)

/-- `MATRIX_COMPLETION` (R251): the first accepted instruction of tile a completes, once the striker's earlier accesses
to its bytes have been performed. -/
def execMatrixCompletion (s : State) : Result :=
  let n := s.ev.a
  match (s.tile n).queue with
  | [] => .next s
  | q :: _ =>
    .next (if mxWaits s q then s else completeMx s n)

/-! ### Semaphores (R261, 02 R50) -/

/-- The semaphores belong to the threads of the active pair. -/
def State.paired (s : State) (k : Result) : Result := if inPair s s.tid then k else s.illegal

def Tile.sem (t : Tile) (n : BitVec 3) : Nat := t.sems[n.toNat]'(n.isLt)
def Tile.setSem (t : Tile) (n : BitVec 3) (x : Nat) : Tile := { t with sems := t.sems.set n.toNat x n.isLt }

/-- `SEMSIG` (R261): a release of tile scope; it waits for the thread's earlier accesses and stalls at 15. -/
def execSemsig (n : BitVec 3) (s : State) : Result :=
  s.paired (
    if !s.th.owed.isEmpty || mxEarlier s s.tid s.serial then s.stall
    else
      let t := tileOf s.tid
      if (s.tile t).sem n ≥ 15 then s.wait
      else ((releaseWork s s.tid .tile).updTile t fun x => x.setSem n (x.sem n + 1)).skip 4)

/-- `SEMWAIT` (R261): an acquire of tile scope. -/
def execSemwait (n : BitVec 3) (s : State) : Result :=
  s.paired (s.point <|
    s.access false (
      let t := tileOf s.tid
      if (s.tile t).sem n = 0 then s.wait
      else (acquire (s.updTile t fun x => x.setSem n (x.sem n - 1)) s.tid .tile).skip 4))

end Sys2Proof.Machine
end

