-- ==== Sys2Proof/Machine/Network.lean ====
section
/-!
DEFINITION. The network engine and its deposit transport (20 R360–R364).
-/
namespace Sys2Proof.Machine

def State.updNet (s : State) (f : Net → Net) : State := { s with net := f s.net }
def State.qp? (s : State) (q : Nat) : Option QPair := s.net.qps.find? q
def State.setQp (s : State) (q : Nat) (x : QPair) : State := s.updNet fun n => { n with qps := n.qps.put q x }
def State.region (s : State) (r : Nat) : Region := s.net.regions.get {} r
def State.setRegion (s : State) (r : Nat) (x : Region) : State := s.updNet fun n => { n with regions := n.regions.put r x }

/-- Whether the engine is present and enabled (R360). -/
def netOn (s : State) : Bool := !s.fuse.lite && s.net.cfg.getLsbD 16

/-! ### Memory as the engine sees it -/

/-- The engine as a party that reads and writes a job slot's address space for no thread, as an engine of cluster c (R16). -/
def netJob (s : State) (slot c : Nat) : Job :=
  { id := 0, kind := .card, tid := 0, engine := keyNet, slot := slot, cluster := c, asid := (s.slot slot).asid, graph := some (0, 0) }

/-- Whether the engine may write n bytes of a slot's address space: mapped writable, in this module, existing, under entries
it holds (R16, R362). -/
def netMay (s : State) (slot va n : Nat) : Bool :=
  (splitUnits (n / 4096 + 2) va n).all fun p =>
    match walkSlot s slot (BitVec.ofNat 80 p.1) with
    | some l =>
      l.w && moduleOf l.pa == s.regs.modnum && backed s (localOf l.pa) &&
        (match (spaceOf (localOf l.pa)).cluster? with | some c => mayStore s c keyNet slot (unitOf (localOf l.pa)) | none => false)
    | none => false

/-- The local physical address of a word. -/
def netWord (s : State) (slot va : Nat) : Option Nat := (walkSlot s slot (BitVec.ofNat 80 va)).map fun l => localOf l.pa

/-- Writes bytes with marks for the engine, where it holds their keys as it writes (01 R16); others are not written. The access wakes a
gated partition (18 R335). -/
def netPut (s : State) (slot va : Nat) (bs : List (Byte × Nat)) : State :=
  let s := match netWord s slot va with | some a => wakeAt s a | none => s
  putMarked s (netJob s slot (((netWord s slot va).bind fun a => (spaceOf a).cluster?).getD 0)) va bs

def netPutBytes (s : State) (slot va : Nat) (bs : List Byte) : State := netPut s slot va (bs.map fun b => (b, 0))

/-- Writes the lines of a packet that land now (R363: each line whole): the line the event names, or all that have not landed. -/
def netPutLines (s : State) (slot va : Nat) (landed : List Nat) (bs : List Byte) : State :=
  ((range 0 (linesOf va bs.length)).filter fun i => !landed.contains i && (s.ev.c == 0 || i + 1 == s.ev.c)).foldl (fun s i =>
    let sl := lineSlice va bs.length i
    netPutBytes s slot (va + sl.1) ((bs.drop sl.1).take sl.2)) s

/-- Raises a sequence word to max(word, x) as a release; a poisoned word is not written. -/
def netRaise (s : State) (slot va : Nat) (x : Word) : State :=
  match netWord s slot va with
  | none => s
  | some a =>
    if truthBad s a 8 ∨ x.toNat ≤ (truthWord s a).toNat then s else netPutBytes s slot va (bytesOfNat 8 x.toNat)

/-- Whether a table of n bytes lies in HBM under entries held by the engine. -/
def tableHeld (s : State) (a n : Nat) : Bool :=
  match spaceOf a with
  | .hbm c _ => (range (unitOf a) (unitOf (a + n - 1) - unitOf a + 1)).all fun u =>
      match keyAt (s.cluster c) u with | some (_, e) => e.holder == keyNet | none => false
  | _ => false

/-! ### Regions (R362, R364) -/

/-- Whether n bytes at an address lie in a valid region of a slot registered for local write. -/
def localRegion (s : State) (slot va n : Nat) : Bool :=
  s.net.regions.any fun r => r.2.valid && !r.2.closing && r.2.slot == slot && fld r.2.access 2 1 == 1 &&
    r.2.base.toNat ≤ va && va + n ≤ r.2.base.toNat + r.2.len * 4096

/-- A region entry read from its 64 bytes, where its fields are in range. -/
def regionOf (s : State) (bs : List Byte) : Option Region :=
  let base : Addr := BitVec.ofNat 80 (natAt bs 8 10)
  let ret := natAt bs 29 1
  let ok := allZero (sliceBytes bs 2 2) && allZero (sliceBytes bs 18 6) && allZero (sliceBytes bs 32 32) && natAt bs 1 1 < 8 &&
    base.toNat % 4096 == 0 && natAt bs 24 4 != 0 && natAt bs 28 1 < 16
  if !ok then none
  else
    match netWord s (natAt bs 28 1) base.toNat with
    | none => none
    | some a =>
      match (spaceOf a).cluster? with
      | some c =>
        if ret = keyNone ∨ (ret < 0x90 ∧ codeOk s c ret) then
          some { valid := true, cluster := c, slot := natAt bs 28 1, access := natAt bs 1 1, domain := natAt bs 4 4, base := base
                 len := natAt bs 24 4, ret := ret }
        else none
      | none => none

/-- The engine's status of a region operation. -/
def regionStatus (s : State) (st : Nat) : State := s.updNet fun n => { n with rgStatus := st, rgBusy := false }

/-- The engine writes a region entry's state bytes, while it holds the table's key. -/
def regionBytes (s : State) (r : Nat) (valid : Bool) (gen : Nat) : State :=
  let a := s.net.rgt + 64 * r
  if tableHeld s a 64 then truthWrite (truthWrite s physAsid 0 a [if valid then 1 else 0]) physAsid 0 (a + 30) (bytesOfNat 2 gen) else s

/-- `NERGOP` operation 1 on region r (R362). -/
def registerRegion (s : State) (r : Nat) : State :=
  let a := s.net.rgt + 64 * r
  if s.fuse.lite || s.net.rgBusy then s
  else if r ≥ 65536 || (s.region r).valid || !tableHeld s a 64 || truthBad s a 64 then regionStatus s 1
  else
    match regionOf s (truthRead s a 64) with
    | none => regionStatus s 1
    | some x =>
      if x.access ≥ 2 && !netMay s x.slot x.base.toNat (x.len * 4096) then regionStatus s 2
      else
        let gen := (s.region r).gen
        regionStatus (regionBytes (s.setRegion r { x with gen := gen }) r true gen) 0

/-- `NERGOP_REGISTER` (R360, R362): region a. -/
def execNergopRegister (s : State) : Result := .next (registerRegion s s.ev.a)

/-- `NERGOP` operation 2 on region r (R364): new deposits and reads are refused from now on. -/
def deregisterRegion (s : State) (r : Nat) : State :=
  if s.fuse.lite || s.net.rgBusy then s
  else if r ≥ 65536 || !(s.region r).valid then regionStatus s 3
  else (s.setRegion r { s.region r with closing := true }).updNet fun n => { n with rgBusy := true }

/-- `NERGOP_DEREGISTER` (R364): region a. -/
def execNergopDeregister (s : State) : Result := .next (deregisterRegion s s.ev.a)

/-- Whether a deposit into a region is still arriving on a queue pair that is not in error. -/
def regionInUse (s : State) (r : Nat) : Bool :=
  s.net.qps.any fun q => !q.2.error && match q.2.recv with | some t => t.region == r | none => false

/-- The 4 KiB units of a region. -/
def regionUnitsOf (s : State) (x : Region) : List Nat :=
  (range 0 x.len).filterMap fun i => (netWord s x.slot (x.base.toNat + 4096 * i)).map unitOf

/-- Returns the keys of a region, in the table of every cluster it lies in: its return code becomes their pending holder. An entry in which another region still lies stays
with the engine until the last one goes (log entry 123). -/
def returnRegion (s : State) (x : Region) : State :=
  let us := regionUnitsOf s x
  let rest := (s.net.regions.filter (·.2.valid)).flatMap fun r => regionUnitsOf s r.2
  let holds := fun (e : KeyEntry) (l : List Nat) => l.any fun u => e.base ≤ u && u < e.base + e.len
  let cs := (us.filterMap fun u => (spaceOf (u * 4096)).cluster?).eraseDups
  cs.foldl (fun s c => mapKeys s c fun e => if e.holder == keyNet && holds e us && !holds e rest then giveEntry e keyNet x.ret else e) s

/-- `DEREGISTRATION_DONE` (R364): region a. -/
def execDeregistrationDone (s : State) : Result :=
  let x := s.region s.ev.a
  if !x.closing || regionInUse s s.ev.a then .next s
  else
    let gen := (x.gen + 1) % 65536
    .next (regionStatus (regionBytes (returnRegion (s.setRegion s.ev.a { gen := gen }) x) s.ev.a false gen) 0)

/-! ### Queue pairs (R361, R364) -/

def pairStatus (s : State) (st : Nat) : State := s.updNet fun n => { n with qpStatus := st, qpBusy := false }

/-- The engine writes a queue-pair entry's state byte, while it holds the table's key. -/
def pairByte (s : State) (q st : Nat) : State :=
  if tableHeld s (s.net.qpt + 128 * q) 1 then truthWrite s physAsid 0 (s.net.qpt + 128 * q) [BitVec.ofNat 8 st] else s

/-- Whether an address lies in a cluster's own memory. -/
def inCluster (s : State) (slot c va : Nat) : Bool :=
  match walkSlot s slot (BitVec.ofNat 80 va) with
  | some l => moduleOf l.pa == s.regs.modnum && backed s (localOf l.pa) && (spaceOf (localOf l.pa)).cluster? == some c
  | none => false

/-- A queue pair read from its 128 bytes, where its context is good. -/
def pairOf (s : State) (bs : List Byte) : Option QPair :=
  let slot := natAt bs 3 1
  let c := natAt bs 2 1
  let k := natAt bs 12 1
  let zero := allZero (sliceBytes bs 14 2) && allZero (sliceBytes bs 26 6) && allZero (sliceBytes bs 42 6) && allZero (sliceBytes bs 58 6) &&
    allZero (sliceBytes bs 74 6) && allZero (sliceBytes bs 104 24) && natAt bs 11 1 == 0
  let x : QPair :=
    { port := natAt bs 1 1, cluster := c, slot := slot, domain := natAt bs 4 4, remoteQp := natAt bs 8 3, k := k
      ring := BitVec.ofNat 80 (natAt bs 16 10), bell := BitVec.ofNat 80 (natAt bs 32 10), cring := BitVec.ofNat 80 (natAt bs 48 10)
      cseq := BitVec.ofNat 80 (natAt bs 64 10), peer := sliceBytes bs 80 24, ipv6 := natAt bs 13 1 == 1 }
  if zero && natAt bs 1 1 < 4 && c < 64 && slot < 16 && 4 ≤ k && k ≤ 16 && natAt bs 13 1 < 2 && x.bell.toNat % 8 == 0 && x.cseq.toNat % 8 == 0 &&
      inCluster s slot c x.bell.toNat && (splitUnits (2 ^ k / 64 + 2) x.ring.toNat (64 * 2 ^ k)).all (fun p => inCluster s slot c p.1) &&
      localRegion s slot x.cring.toNat (32 * 2 ^ k) && localRegion s slot x.cseq.toNat 8 then some x else none

/-- `NEQPOP` operation 1 on queue pair q (R361). -/
def createPair (s : State) (q : Nat) : State :=
  let a := s.net.qpt + 128 * q
  if s.fuse.lite || s.net.qpBusy then s
  else if q ≥ 16384 || !tableHeld s a 128 || truthBad s a 128 then pairStatus s 1
  else if (s.qp? q).isSome then pairStatus s 2
  else
    match pairOf s (truthRead s a 128) with
    | none => pairStatus s 1
    | some x => pairStatus (pairByte (s.setQp q x) q 1) 0

/-- `NEQPOP_CREATE` (R360, R361): queue pair a. -/
def execNeqpopCreate (s : State) : Result := .next (createPair s s.ev.a)

/-- The doorbell's count of entries posted; none where it cannot be read. -/
def bellOf (s : State) (x : QPair) : Option Nat := (readJob s x.slot x.bell 8).map natOfBytes

/-- The address of entry i of a ring of 2^k entries of n bytes. -/
def ringAt (base : Addr) (k n i : Nat) : Nat := base.toNat + n * (i % 2 ^ k)

/-- Completes work entry i of queue pair q: the completion entry, unless only errors write one, then the sequence word as a
release of module scope (R361). -/
def completeWork (s : State) (q i : Nat) (tag : Word) (bytes status opcode : Nat) (errorsOnly : Bool) : State :=
  match s.qp? q with
  | none => s
  | some x =>
    let e := bytesOfNat 8 tag.toNat ++ bytesOfNat 4 bytes ++ bytesOfNat 1 status ++ bytesOfNat 1 opcode ++ [0, 0] ++ bytesOfNat 8 i ++
      List.replicate 8 0
    let s := if status = 0 ∧ errorsOnly then s else netPutBytes s x.slot (ringAt x.cring x.k 32 i) e
    (netRaise s x.slot x.cseq.toNat (BitVec.ofNat 64 (i + 1))).setQp q { x with finished := i + 1, sends := x.sends.filter fun t => t.idx != i }

/-- The work entry at index i, where it can be read. -/
def workBytes (s : State) (x : QPair) (i : Nat) : Option (List Byte) := readJob s x.slot (BitVec.ofNat 80 (ringAt x.ring x.k 64 i)) 64

/-- Completes every posted entry from i on: entry `at_` with a status, every other with status 1 (R364). -/
def flushFrom (s : State) (q at_ status : Nat) : Nat → Nat → State
  | 0, _ => s
  | n + 1, i =>
    match s.qp? q with
    | none => s
    | some x =>
      let bs := (workBytes s x i).getD (List.replicate 64 0)
      flushFrom (completeWork s q i (BitVec.ofNat 64 (natAt bs 56 8)) 0 (if i = at_ then status else 1) (natAt bs 0 1) false) q at_ status n (i + 1)

/-- A queue pair goes into error; the entry at `at_` ends with a status and the others are flushed (R361, R364). -/
def pairError (s : State) (q at_ status : Nat) : State :=
  match s.qp? q with
  | none => s
  | some x =>
    let s := pairByte (s.setQp q { x with ready := false, error := true, unacked := [], recv := none }) q 2
    let posted := (bellOf s x).getD x.taken
    flushFrom s q at_ status (min (2 ^ x.k) (posted - x.finished)) x.finished

/-- `NEQPOP` operation 2. -/
def forcePair (s : State) (q : Nat) : State :=
  if s.fuse.lite || s.net.qpBusy then s
  else
    match s.qp? q with
    | some x => if x.error then pairStatus s 2 else pairStatus (pairError s q x.finished 1) 0
    | none => pairStatus s 2

/-- `NEQPOP_FORCE_ERROR` (R364): queue pair a. -/
def execNeqpopForceError (s : State) : Result := .next (forcePair s s.ev.a)

/-- `NEQPOP` operation 3: a queue pair in error is destroyed. -/
def destroyPair (s : State) (q : Nat) : State :=
  if s.fuse.lite || s.net.qpBusy then s
  else
    match s.qp? q with
    | some x => if x.error then pairStatus ((pairByte (withdraw s x.watch.toList) q 0).updNet fun n => { n with qps := n.qps.drop q }) 0 else pairStatus s 2
    | none => pairStatus s 2

/-- `NEQPOP_DESTROY` (R364): queue pair a. -/
def execNeqpopDestroy (s : State) : Result := .next (destroyPair s s.ev.a)

/-! ### Sending (R361, R363) -/

def psnMod : Nat := 2 ^ 24
def psnDiff (a b : Nat) : Nat := (a + psnMod - b % psnMod) % psnMod

/-- PSNs a transfer consumes. -/
def psnCount (n : Nat) : Nat := (n + 4095) / 4096

/-- A packet on the wire: its 32-byte transport header and its data (R363). -/
def NetPacket.wire (p : NetPacket) : List Byte :=
  bytesOfNat 1 p.version ++ bytesOfNat 1 p.opcode ++ bytesOfNat 3 p.qp ++ bytesOfNat 3 p.psn ++ bytesOfNat 4 p.region ++ bytesOfNat 8 p.offset ++
    bytesOfNat 4 p.len ++ bytesOfNat 3 p.ackPsn ++ bytesOfNat 1 p.nak ++ List.replicate 4 0 ++ p.data

/-- The UDP port of the engine: what frames for it name (R360). -/
def netPort (s : State) : Nat := field s.net.cfg 0 16

/-- A queue pair's frame around a packet, to the peer that its entry names (R361). -/
def frameOf (s : State) (x : QPair) (p : NetPacket) : NetFrame :=
  { port := x.port, mac := sliceBytes x.peer 18 6, ipv6 := x.ipv6, ip := x.peer.take (if x.ipv6 then 16 else 4), srcPort := netPort s
    dstPort := natAt x.peer 16 2, packet := p }

/-- Bytes of the Ethernet frame around a packet: 14 of Ethernet, 20 or 40 of IP, 8 of UDP and 4 of the FCS with it (21 R382; PRESUMED: log
entry 142). -/
def frameBytes (ipv6 : Bool) (p : NetPacket) : Nat := 14 + (if ipv6 then 40 else 20) + 8 + p.wire.length + 4

/-- Puts a packet of a queue pair on its port. -/
def sendPacket (s : State) (x : QPair) (p : NetPacket) : State :=
  (s.count (1026 + x.port) (frameBytes x.ipv6 p)).updNet fun n => { n with sent := n.sent ++ [frameOf s x p] }

def sendAll (s : State) (x : QPair) (ps : List NetPacket) : State := ps.foldl (fun s p => sendPacket s x p) s

/-- An acknowledgement or a nak of a queue pair. -/
def control (x : QPair) (op nak psn : Nat) : NetPacket :=
  { version := 1, opcode := op, qp := x.remoteQp, psn := 0, region := 0, offset := 0, len := 0, ackPsn := psn % psnMod, nak := nak, data := [] }

/-- Whether a work entry is well formed (R361). -/
def workOk (bs : List Byte) : Bool :=
  (natAt bs 0 1 == 1 && natAt bs 1 1 < 4 || natAt bs 0 1 == 2 && natAt bs 1 1 % 2 == 0 && natAt bs 1 1 < 4) &&
    allZero (sliceBytes bs 2 2) && allZero (sliceBytes bs 18 6) && allZero (sliceBytes bs 28 4) && 1 ≤ natAt bs 4 4 && natAt bs 4 4 ≤ 0x200000

/-- The packets of a deposit. -/
def depositPackets (x : QPair) (bs data : List Byte) : List NetPacket :=
  let n := psnCount data.length
  (range 0 n).map fun i =>
    let d := (data.drop (4096 * i)).take 4096
    { version := 1, opcode := if i + 1 = n then 2 else 1, qp := x.remoteQp, psn := (x.txPsn + i) % psnMod, region := natAt bs 24 4
      offset := natAt bs 32 8 + 4096 * i, len := d.length, ackPsn := 0, nak := 0, data := d
      advance := if i + 1 = n ∧ natAt bs 1 1 % 2 = 1 then some (natAt bs 40 8, BitVec.ofNat 64 (natAt bs 48 8)) else none }

/-- The transfer a work entry begins. -/
def transferOf (x : QPair) (bs : List Byte) : Transfer :=
  { read := natAt bs 0 1 == 2, va := BitVec.ofNat 80 (natAt bs 8 10), region := natAt bs 24 4, offset := natAt bs 32 8, len := natAt bs 4 4
    firstPsn := x.txPsn, flags := natAt bs 1 1, tag := BitVec.ofNat 64 (natAt bs 56 8), idx := x.taken }

/-- Takes a work entry: its packets go out and wait for their acknowledgement. -/
def beginWork (s : State) (q : Nat) (x : QPair) (bs : List Byte) (ps : List NetPacket) : State :=
  let n := psnCount (natAt bs 4 4)
  let s := wakeCluster s x.cluster
  sendAll (s.setQp q { x with txPsn := (x.txPsn + n) % psnMod, taken := x.taken + 1, sends := x.sends ++ [transferOf x bs]
                              unacked := x.unacked ++ ps }) x ps

/-- The completion sequence word's value, against which the ring is measured (R361). -/
def finishedOf (s : State) (x : QPair) : Nat := ((readJob s x.slot x.cseq 8).map natOfBytes).getD x.finished

/-- Entries posted to a queue pair in error complete with status 1 (R364). -/
def flushPosted (s : State) (q : Nat) (x : QPair) (bell : Nat) : State :=
  flushFrom s q (2 ^ 64) 1 (min (2 ^ x.k) (bell - x.finished)) x.finished

/-- The engine keeps a watch for a doorbell's count of n (R361), an entry of its cluster's watch table (05 R108); one answered
full is placed again. -/
def watchBell (s : State) (q : Nat) (x : QPair) (n : Nat) : State :=
  match x.watch, walkAs s x.cluster false x.slot x.bell.toNat with
  | none, some l =>
    placeWatch (s.setQp q { x with watch := some s.serial }).bump x.cluster l.pa
      { word := localOf l.pa, threshold := BitVec.ofNat 64 n, tid := 0, serial := s.serial }
  | _, _ => s

/-- The engine takes the next posted entry of queue pair q, where it has the event's opcode. -/
def takeWork (s : State) (opcode : Nat) : Result :=
  match netOn s, s.qp? s.ev.a with
  | true, some x =>
    match bellOf s x with
    | none => .next s
    | some bell =>
      if x.error then .next (if bell ≤ x.finished then watchBell s s.ev.a x (x.finished + 1) else flushPosted s s.ev.a x bell)
      else if !x.ready then .next s
      else if bell ≤ x.taken then .next (watchBell s s.ev.a x (x.taken + 1))
      else if bell > finishedOf s x + 2 ^ x.k then .next (pairError s s.ev.a x.finished 7)
      else
        match workBytes s x x.taken with
        | none => .next (pairError s s.ev.a x.taken 4)
        | some bs =>
          if natAt bs 0 1 ≠ opcode ∧ (natAt bs 0 1 = 1 ∨ natAt bs 0 1 = 2) then .next s
          else if !workOk bs then .next (pairError s s.ev.a x.taken 5)
          else if psnDiff x.txPsn x.ackPsn + psnCount (natAt bs 4 4) > 1024 then .next s
          else if opcode = 1 then
            match readFor s (netJob s x.slot x.cluster) (natAt bs 8 10) (natAt bs 4 4) with
            | none => .next s
            | some d =>
              if d.any fun b => b.2 != 0 then .next (pairError s s.ev.a x.taken 4)
              else .next (beginWork s s.ev.a x bs (depositPackets x bs (d.map (·.1))))
          else if !localRegion s x.slot (natAt bs 8 10) (natAt bs 4 4) then .next (pairError s s.ev.a x.taken 4)
          else
            .next (beginWork s s.ev.a x bs
              [{ version := 1, opcode := 3, qp := x.remoteQp, psn := x.txPsn, region := natAt bs 24 4, offset := natAt bs 32 8
                 len := natAt bs 4 4, ackPsn := 0, nak := 0, data := [] }])
  | _, _ => .next s

/-- `WORK_DEPOSIT` (R361, R363): the next entry of queue pair a, with what comes of its source from other modules. -/
def execWorkDeposit (s : State) : Result := takeWork s 1

/-- `WORK_READ` (R361, R363). -/
def execWorkRead (s : State) : Result := takeWork s 2

/-- The last PSN of a transfer. -/
def lastPsn (t : Transfer) : Nat := (t.firstPsn + psnCount t.len - 1) % psnMod

/-- How far an acknowledgement of a PSN reaches: the packets of a read in progress are acknowledged by its data alone. -/
def ackReach (x : QPair) (psn : Nat) : Nat :=
  match x.sends.find? (·.read) with
  | some t =>
    let next := t.firstPsn + t.doneBytes / 4096
    if psnDiff next x.ackPsn ≤ psnDiff psn x.ackPsn then (next + psnMod - 1) % psnMod else psn
  | none => psn

/-- Everything up to a PSN is acknowledged: packets leave the window, and the deposits whose last packet is among them
complete, in index order. -/
def ackUpTo (s : State) (q upTo : Nat) : State :=
  match s.qp? q with
  | none => s
  | some x =>
    let psn := ackReach x upTo
    if psnDiff psn x.ackPsn ≥ psnDiff x.txPsn x.ackPsn then s
    else
      let next := (psn + 1) % psnMod
      let done := x.sends.takeWhile fun t => !t.read && psnDiff (lastPsn t) x.ackPsn ≤ psnDiff psn x.ackPsn
      let s := s.setQp q { x with ackPsn := next, resends := 0
                                  unacked := x.unacked.filter fun p => psnDiff p.psn x.ackPsn > psnDiff psn x.ackPsn }
      done.foldl (fun s t => completeWork s q t.idx t.tag t.len 0 1 (t.flags / 2 % 2 == 1)) s

/-- A frame received counts at its port: that of its queue pair, or the event's b where it is for none. -/
def countFrame (s : State) (x : Option QPair) (p : NetPacket) : State :=
  if s.fuse.lite || s.ev.c != 0 then s else s.count (1030 + ((x.map (·.port)).getD (s.ev.b % 4))) (frameBytes ((x.map (·.ipv6)).getD s.ev.flag) p)

/-- A packet for a queue pair of this module that is not in error. A frame for another UDP port, which the event's slot then names,
is none of the engine's (R360). -/
def State.arriving (s : State) (k : State → Nat → QPair → NetPacket → State) : Result :=
  match s.ev.net with
  | some p =>
    if netOn s && s.ev.slot.all (· == netPort s) then
      match s.qp? p.qp with
      | some x =>
        let s := countFrame s (some x) p
        .next (if x.error || p.version != 1 then s else k s p.qp x p)
      | none => .next (countFrame s none p)
    else .next (countFrame s none p)
  | none => .next s

/-- `ACK` (R363). -/
def execAck (s : State) : Result := s.arriving fun s q _ p => ackUpTo s q p.ackPsn

/-- Sends the unacknowledged packets again; after the seventh resend of the first, its entry ends with status 3 (R363). -/
def resendPair (s : State) (q : Nat) : State :=
  match s.qp? q with
  | none => s
  | some x =>
    if x.error || x.unacked.isEmpty then s
    else if x.resends ≥ 7 then pairError s q ((x.sends.head?.map (·.idx)).getD x.finished) 3
    else sendAll (s.setQp q { x with resends := x.resends + 1 }) x x.unacked

/-- `NAK` (R363): a sequence nak acknowledges what comes before the PSN it names and resends from it; a refused nak ends the
entry whose packet it names, with status 2. -/
def execNak (s : State) : Result :=
  s.arriving fun s q x p =>
    if p.nak = 1 then resendPair (if p.ackPsn = x.ackPsn then s else ackUpTo s q ((p.ackPsn + psnMod - 1) % psnMod)) q
    else if p.nak = 2 then
      match x.sends.find? fun t => psnDiff p.ackPsn t.firstPsn < psnCount t.len with
      | some t => pairError s q t.idx 2
      | none => s
    else s

/-- `RETRANSMIT_TIMEOUT` (R363): queue pair a. -/
def execRetransmitTimeout (s : State) : Result := .next (if netOn s then resendPair s s.ev.a else s)

/-! ### Receiving (R363) -/

/-- What a receiver does with a packet by its PSN: the expected one is taken, a duplicate acknowledged again, another refused by a
sequence nak. -/
def takeExpected (s : State) (x : QPair) (p : NetPacket) (expected : Nat) (k : State) : State :=
  if p.psn = expected then k
  else if psnDiff expected p.psn < 2 ^ 23 then sendPacket s x (control x 5 0 (expected + psnMod - 1))
  else sendPacket s x (control x 6 1 expected)

/-- The same for a deposit or a read request. -/
def inSequence (s : State) (x : QPair) (p : NetPacket) (k : State) : State := takeExpected s x p x.rxPsn k

/-- A refused nak: it names the packet. -/
def refusePacket (s : State) (x : QPair) (p : NetPacket) : State := sendPacket s x (control x 6 2 p.psn)

/-- Whether the region a packet names admits n bytes at its offset with an access bit (R363). -/
def regionAdmits (s : State) (x : QPair) (p : NetPacket) (n bit : Nat) (going : Bool) : Bool :=
  let r := s.region (p.region % 65536)
  r.valid && (going || !r.closing) && r.gen == p.region / 65536 && r.domain == x.domain && fld r.access bit 1 == 1 && p.offset + n ≤ r.len * 4096

/-- A deposit's packet: written, counted, acknowledged; the last raises the sequence word before its acknowledgement. With c only
line c − 1 of it lands so far (06 R118). -/
def takeDeposit (s : State) (q : Nat) (x : QPair) (p : NetPacket) (last : Bool) : State :=
  inSequence s x p <|
    let r := s.region (p.region % 65536)
    let going := match x.recv with | some t => t.region == p.region % 65536 | none => false
    let wordOk := match p.advance with | some (o, _) => o % 8 == 0 && o + 8 ≤ r.len * 4096 | none => true
    if !regionAdmits s x p p.data.length 1 going || !wordOk || !netMay s r.slot (r.base.toNat + p.offset) p.data.length then refusePacket s x p
    else
      let t := x.recv.getD {}
      let s := netPutLines s r.slot (r.base.toNat + p.offset) t.landed p.data
      if s.ev.c ≠ 0 then s.setQp q { x with recv := some { t with region := p.region % 65536, landed := t.landed ++ [s.ev.c - 1] } }
      else
        let s := s.setQp q { x with rxPsn := (x.rxPsn + 1) % psnMod
                                    recv := if last then none else some { t with region := p.region % 65536, landed := [] } }
        let s := match p.advance with
          | some (o, v) => netRaise (writeBackStash s r.cluster) r.slot (r.base.toNat + o) v
          | none => s
        sendPacket s x (control x 5 0 p.psn)

/-- `DEPOSIT_DATA` (R363). -/
def execDepositData (s : State) : Result := s.arriving fun s q x p => takeDeposit s q x p false

/-- `DEPOSIT_LAST` (R363). -/
def execDepositLast (s : State) : Result := s.arriving fun s q x p => takeDeposit s q x p true

/-- The packets of a read's data; one with a poisoned or failing line carries the poison bit. -/
def readPackets (x : QPair) (p : NetPacket) (d : List (Byte × Nat)) : List NetPacket :=
  (range 0 (psnCount d.length)).map fun i =>
    let bs := (d.drop (4096 * i)).take 4096
    { version := 1, opcode := 4, qp := x.remoteQp, psn := (p.psn + i) % psnMod, region := p.region, offset := p.offset + 4096 * i
      len := bs.length, ackPsn := 0, nak := if bs.any fun b => b.2 != 0 then 1 else 0, data := bs.map (·.1) }

/-- `READ_REQUEST` (R363): read with strong engine reads; the replies carry the request's PSNs. -/
def execReadRequest (s : State) : Result :=
  s.arriving fun s q x p =>
    inSequence s x p <|
      let r := s.region (p.region % 65536)
      if p.len = 0 ∨ p.len > 0x200000 ∨ !regionAdmits s x p p.len 0 false then refusePacket s x p
      else
        match readFor s (netJob s r.slot r.cluster) (r.base.toNat + p.offset) p.len with
        | none => s
        | some d => sendAll ((wakeCluster s r.cluster).setQp q { x with rxPsn := (x.rxPsn + psnCount p.len) % psnMod }) x (readPackets x p d)

/-- `READ_DATA` (R363): the next packet of the read in progress lands, which carries the read's own next PSN, or with c the 8-byte word c − 1 of memory (06 R118); a poisoned one lands as
poison (07 R146). -/
def execReadData (s : State) : Result :=
  s.arriving fun s q x p => takeExpected s x p x.ackPsn <|
    match x.sends.head? with
    | none => s
    | some t =>
      if !t.read || p.data.length != min 4096 (t.len - t.doneBytes) then s
      else if !netMay s x.slot (t.va.toNat + t.doneBytes) p.data.length then pairError s q t.idx 4
      else
        let va := t.va.toNat + t.doneBytes
        let bs := p.data.map fun b => (b, if p.nak % 2 = 1 then 1 else 0)
        let s := (keptPieces (wordsNow t.landed s.ev.c) va bs.length).foldl (fun s w => netPut s x.slot (va + w.1) ((bs.drop w.1).take w.2)) s
        if s.ev.c ≠ 0 then s.setQp q { x with sends := { t with landed := t.landed ++ [s.ev.c - 1] } :: x.sends.drop 1 }
        else
          let n := t.doneBytes + p.data.length
          let x := { x with ackPsn := (x.ackPsn + 1) % psnMod, resends := 0 }
          if n ≥ t.len then
            completeWork (s.setQp q { x with unacked := x.unacked.filter fun u => u.psn != t.firstPsn }) q t.idx t.tag t.len 0 2
              (t.flags / 2 % 2 == 1)
          else s.setQp q { x with sends := { t with doneBytes := n, landed := [] } :: x.sends.drop 1 }

/-- `DEPOSIT_ABANDON_TIMEOUT` (R364): the deposit arriving on queue pair a into a region that closes is abandoned. -/
def execDepositAbandonTimeout (s : State) : Result :=
  match s.qp? s.ev.a with
  | some x =>
    match x.recv with
    | some t => .next (if (s.region t.region).closing then s.setQp s.ev.a { x with recv := none } else s)
    | none => .next s
  | none => .next s

end Sys2Proof.Machine
end

