-- ==== Sys2Proof/Machine/System.lean ====
section
/-!
DEFINITION. System instructions, control registers and the supervisor's registers and operations (08 R167–R171; 13
R286–R289; 19 R344–R352).
-/
namespace Sys2Proof.Machine

/-! ### Traps, returns, hints -/

/-- `NOP` (R286). -/
def execNop (s : State) : Result := s.skip 4

/-- `BKPT` (R286). -/
def execBkpt (s : State) : Result := s.trap { code := 0x11 }

/-- `TRAP` (R286). -/
def execTrap (code : BitVec 12) (s : State) : Result := s.trap { code := 0x12, detail := code.toNat }

/-- A context image of a thread's context that its handler did not leave behind is no image any more. -/
def dropOwnImage (s : State) (tid : Nat) : State :=
  let t := s.thread tid
  if t.sup.saved then { s with images := s.images.filter fun x => !(x.2.tid == tid && x.2.task == t.task) } else s

/-- `ERET` (08 R186, 19 R348). -/
def execEret (s : State) : Result :=
  if s.th.sup.act then .next ((dropOwnImage s s.tid).upd Thread.eretSup)
  else if s.th.utvec.getLsbD 1 then .next (s.upd Thread.eretUser)
  else s.illegal

/-- `IDLE` (R287). -/
def execIdle (s : State) : Result :=
  match s.th.hold with
  | some .done => s.retire 4 fun t => { t with hold := none }
  | _ => if cancelled s s.tid then s.endCancelled else (s.upd fun t => { t with hold := some .idle }).stall

/-- `IDLE_TIMEOUT` (R287): the `IDLE` of thread a completes, at its 4,096 cycles or earlier. -/
def execIdleTimeout (s : State) : Result := .next (s.updThread s.ev.a Thread.wake)

/-- A context that its handler has saved leaves the thread, which becomes free; a pair's both threads are saved before
(19 R350). -/
def freeSaved (s : State) (tid k : Nat) : State :=
  let s := leaveThread s k tid
  let s := s.updTask k fun t =>
    let r := t.threads.filter (· != tid)
    { t with threads := r, state := if r.isEmpty then .saved else t.state }
  { s with tiles := s.tiles.map fun (x : Nat × Tile) =>
      if x.2.pair = some k ∧ (s.tasks.find? k).all (·.threads.isEmpty) then (x.1, { x.2 with pair := none }) else x }

/-- Ends the interrupted context of a handler: saved, it waits in its image; otherwise it is discarded, and its launch
cancelled (R348). -/
def leaveContext (s : State) (tid : Nat) : State :=
  match (s.thread tid).task with
  | none => s
  | some k =>
    if (s.thread tid).sup.saved then freeSaved s tid k
    else
      let code := field (s.thread tid).sup.cause 0 6
      let s := match launchOf s tid with
        | some l => cancelLaunch s false l.handle (if code = 0 then 0x15 else code)
        | none => s
      endTask s k true 0

/-- `HALT` (R286, R348). A handler that leaves a saved context behind has its own accesses performed first. -/
def execHalt (s : State) : Result :=
  if !s.th.sup.act then s.trap { code := 0x02 }
  else
    let others := match taskOf s s.tid with | some t => t.threads.filter (· != s.tid) | none => []
    if s.th.sup.saved && (!quiet s s.tid || others.any fun o => !(s.thread o).sup.saved) then s.stall
    else
      let tid := s.tid
      .next ((leaveContext s tid).updThread tid fun t => { t with sup := { t.sup with act := false, lat := false } })

/-- Whether an operation is a release (06 R122). -/
def Out.releases (o : Out) : Bool :=
  match o.kind with
  | .store (some _) _ | .amo _ .rel _ _ _ | .amo _ .ar _ _ _ | .seqadv _ _ _ _ | .baradd _ | .fence _ => true
  | _ => false

/-- The lines of code that threads of a tile are fetching from other modules fill nothing any more (06 R134). -/
def dropFetches (s : State) (tile : Nat) (hit : Nat → Bool) : State :=
  { s with threads := s.threads.map fun t =>
      if tileOf t.1 = tile then
        (t.1, { t.2 with outs := t.2.outs.map fun o => match o.kind with
          | .load .keep _ _ => { o with elems := o.elems.map fun e => if e.size = 64 ∧ hit (e.pa / 64) then { e with nofill := true } else e }
          | _ => o })
      else t }

/-- `IFLUSH` (R289): drops the range's lines from the tile's instruction cache, or the whole of it for 64 KiB or more. It waits
for the thread's releases, so that what is fetched after a release and an `IFLUSH` is what they published (06 R134). -/
def execIflush (a : AReg) (d : SReg) (s : State) : Result :=
  if s.th.outs.any (·.releases) then s.stall else
  let va := s.th.ra a
  let n := (s.th.rs d).toNat
  let lines : List Nat :=
    if n = 0 ∨ n ≥ 65536 then []
    else (range 0 ((va.toNat % 64 + n + 63) / 64)).filterMap fun i =>
      match translate s s.tid ((va &&& ~~~(63 : Addr)) + BitVec.ofNat 80 (64 * i)) .read with
      | .ok l => some (l.pa / 64)
      | .error _ => none
  let s := dropFetches s (tileOf s.tid) fun l => n ≥ 65536 || lines.contains l
  (s.updTile (tileOf s.tid) fun t =>
    { t with icache := if n ≥ 65536 then [] else t.icache.filter fun x => !lines.contains x.1 }).skip 4

/-! ### Asynchronous causes -/

/-- The refused journal entry that came first, with its status (07 R141). -/
def oldestRefusal (t : Thread) : Option (Nat × Nat) :=
  let rs := (range 0 16).filterMap fun i => match (t.journal[i]? : Option JournalEntry) with
    | some (.refused _ st o) => some (o, i, st)
    | _ => none
  match least (rs.map (·.1)) with
  | some o => (List.find? (fun (x : Nat × Nat × Nat) => x.1 == o) rs).map (·.2)
  | none => none

/-- The fields of `UJIDX` that a cause 0x0D sets in the step of its entry (07 R141). -/
def Thread.takeRefusal (t : Thread) : Thread :=
  match oldestRefusal t with
  | some (i, st) => { t with ujV := true, ujIdx := i, ujSt := st }
  | none => t

/-- `ASYNC_TRAP_ENTRY` (08 R187): thread a takes its first pending cause, unless a handler of the supervisor runs. -/
def execAsyncTrapEntry (s : State) : Result :=
  let t := s.thread s.ev.a
  if t.sup.act || !runnable t then .next s
  else
    match nextPending t with
    | none => .next s
    | some p =>
      let s := s.updThread s.ev.a fun t =>
        let u := { t with pend := t.pend.erase p }.endHold
        if p.code = 0x0D then u.takeRefusal else u
      .next (takeTrap s s.ev.a { code := p.code, sub := p.sub, detail := p.detail, fva := p.fva } true (s.thread s.ev.a).pc)

/-! ### Control registers of a task (R167) -/

/-- `TID` (R169). -/
def tidWord (s : State) (tid : Nat) : Word :=
  let det := detOf s tid
  let t := taskOf s tid
  let tile := match t, launchOf s tid with
    | some t, some l => if det then (if l.tile then t.canon else t.canon / 6) else tileOf tid
    | _, _ => tileOf tid
  let core := match t, launchOf s tid with
    | some t, some l => if det && !l.tile then t.canon % 6 else roleOf tid
    | _, _ => roleOf tid
  let thread := if det then 0 else tid % 4
  BitVec.ofNat 64 ((tile % 6 * 24 + core * 4 + thread) * 2 ^ 32 + s.regs.modnum % 1024 * 2 ^ 14 + clusterOf tid * 2 ^ 8 +
    tile % 6 * 2 ^ 5 + core * 4 + thread)

/-- `INBOX` (07 R138). -/
def inboxWord (s : State) (tid : Nat) : Word :=
  let t := s.thread tid
  let reps := ((range 0 16).filter fun i => match (t.reps[i]? : Option ReplySlot) with | some (.reply _ _) => true | _ => false).length
  BitVec.ofNat 64 ((match t.inbox with | some n => 2 ^ 31 + n * 2 ^ 24 | none => 0) +
    min 32 (waitingReqs s tid).length * 2 ^ 16 + reps * 2 ^ 8 + (freeSlots t).length)

/-- `SQCTL` (07 R139). -/
def sqWord (t : Thread) : Word :=
  BitVec.ofNat 64 (t.sq.length % 32 * 2 ^ 16 + (if t.sqTrap then 2 ^ 8 else 0) + t.sqDepth)

/-- `UJIDX` (07 R141). -/
def ujWord (t : Thread) : Word := BitVec.ofNat 64 (t.ujSt * 2 ^ 16 + (if t.ujV then 16 else 0) + t.ujIdx)

/-- The 64-bit control registers below 0x100. -/
def ctlWord (s : State) (i : Nat) : Option Word :=
  let t := s.th
  match i with
  | 0x000 => some (tidWord s s.tid)
  | 0x001 => some (BitVec.ofNat 64 (endpointOf s (clusterOf s.tid) (coreOf s.tid % 36)))
  | 0x010 => some t.prec
  | 0x011 => some t.vctl
  | 0x012 => some (BitVec.ofNat 64 (wcap s s.tid))
  | 0x021 => some t.ucause
  | 0x024 => some (ujWord t)
  | 0x030 => some (sqWord t)
  | 0x031 => some (inboxWord s s.tid)
  | 0x040 => some (bit (detOf s s.tid))
  | 0x041 => some (featWord s)
  | 0x050 => some t.egeom
  | 0x051 => some t.ecard
  | 0x052 => some t.esstr
  | 0x053 => some t.edstr
  | _ => none

/-- The 80-bit control registers below 0x100. -/
def ctlAddr (t : Thread) (i : Nat) : Option Addr :=
  match i with
  | 0x020 => some t.utvec
  | 0x022 => some t.uepc
  | 0x023 => some t.ufva
  | _ => none

/-- The writable bits of `UCAUSE` and `SCAUSE` (R170). -/
def causeMask : Word := 0xFFFF001F00018F3F

/-- A write of a 64-bit control register below 0x100; none where its value traps with cause 0x01. Read-only registers
change nothing. -/
def Thread.setCtl (t : Thread) (i : Nat) (x : Word) : Option Thread :=
  match i with
  | 0x010 => if precOk x then some { t with prec := x &&& precMask } else none
  | 0x011 => some { t with vctl := x &&& 0x1F0F1F }
  | 0x021 => some { t with ucause := x &&& causeMask }
  | 0x024 => some (if x.getLsbD 4 then t.discardEntry else t)
  | 0x030 =>
    let n := field x 0 5
    if n = 0 ∨ n > 16 then none else some { t with sqTrap := x.getLsbD 8, sqDepth := n }
  | 0x050 => some { t with egeom := x &&& 0x0001FFFF01FFFFFF }
  | 0x051 => some { t with ecard := x &&& 0xFFFFFF }
  | 0x052 => some { t with esstr := x }
  | 0x053 => some { t with edstr := x }
  | _ => some t

def Thread.setCtlAddr (t : Thread) (i : Nat) (x : Addr) : Thread :=
  match i with
  | 0x020 => { t with utvec := x }
  | 0x022 => { t with uepc := x }
  | 0x023 => { t with ufva := x }
  | _ => t

/-! ### Context images (R349–R352) -/

/-- Window demand of a context: the largest base + n over its live windows (04 R87). -/
def demandOf (t : Thread) : Nat := t.win.toList.foldl (fun n (w : Option Win) => match w with | some x => max n (x.base + x.len) | none => n) 0

def liveLimbs (t : Thread) : Nat := t.win.toList.foldl (fun n (w : Option Win) => match w with | some x => n + x.len | none => n) 0

/-- Total length of an image (R349). -/
def imageLength (t : Thread) (tile : Bool) : Nat :=
  6144 + 8 * liveLimbs t + 64 * t.spill.length + if tile then 262656 else 0

/-- Whether an image may lie at an address (R349): 64-byte aligned, in the cluster's protected ways or in its own memory
under entries held by the supervisor. -/
def imagePlace (s : State) (tid a len : Nat) : Bool :=
  a % 64 == 0 && a + len ≤ 2 ^ 44 && (range (unitOf a) (unitOf (a + len - 1) - unitOf a + 1)).all fun u =>
    supBacked s (u * 4096) && placeOf s (clusterOf tid) (s.gpa (u * 4096)) == .own && threadMayStore s tid (u * 4096) 1

/-- The bytes of an image: its header, and a body that only the context unit reads. -/
def imageBytes (im : Image) (len n : Nat) : List Byte :=
  let head := bytesOfNat 4 len ++ bytesOfNat 2 im.demand ++ bytesOfNat 1 im.th.spill.length ++
    bytesOfNat 1 (if im.tileState.isSome then 1 else 0) ++ bytesOfNat 2 im.slot ++ bytesOfNat 1 im.cluster ++
    bytesOfNat 1 (codeOf im.tid) ++ bytesOfNat 1 im.tile ++ [0, 0, 0] ++ bytesOfNat 10 im.th.pc.toNat ++ List.replicate 6 0
  let body := (range 64 (len - 64)).map (Config.imageByte n)
  head ++ bytesOfNat 8 (Config.checkWord (head ++ List.replicate 32 0 ++ body)).toNat ++ List.replicate 24 0 ++ body

/-- The interrupted context of a handler (R350): registers as they stood at the entry, waiting requests with it. -/
def savedThread (t : Thread) : Thread :=
  { t.dropKept.unsave with pc := t.sup.epc, sup := {} }

/-- The message interface moves waiting requests into the context (07 R142). -/
def spillRequests (s : State) (tid : Nat) : State :=
  match (s.thread tid).inbox with
  | none => s
  | some n =>
    let ms := waitingReqs s tid
    let s := s.updCluster (clusterOf tid) fun cl => { cl with inboxes := cl.inboxes.put n { cl.inboxes.get {} n with msgs := [] } }
    s.updThread tid fun t => { t with spill := ms }

/-- Reports a cause in `SCAUSE` without a trap. -/
def reportCause (s : State) (tid code : Nat) : State :=
  s.updThread tid fun t => { t with sup := { t.sup with cause := withField t.sup.cause 0 6 code } }

/-- The image of a pair's striker goes on holding the tile state, where the stager is saved again before the striker was restored
(02 R48). -/
def keepTile (s : State) (tid : Nat) : State :=
  let k := (s.thread tid).task
  if roleOf tid = 0 ∧ k.isSome ∧ (s.tile (tileOf tid)).pair = k then
    { s with images := s.images.map fun (x : Nat × Image) =>
        if x.2.task = k ∧ x.2.tileState.isSome then (x.1, { x.2 with tileState := some (tileState (s.tile (tileOf tid))) }) else x }
  else s

/-- `SCTX` operation 1 (R350). -/
def sctxSave (s : State) (tid : Nat) : State :=
  let n := tileOf tid
  let striker := roleOf tid = 1 ∧ (s.tile n).pair.isSome ∧ (s.tile n).pair = (s.thread tid).task
  let a := (s.thread tid).sup.ctxa.toNat
  let reqs := (waitingReqs s tid).length
  let len := imageLength { (savedThread (s.thread tid)) with spill := List.replicate reqs 0 } (decide striker)
  if !imagePlace s tid a len then reportCause s tid 0x06
  else
    let s := spillRequests (flushCore (acceptQueue s tid) (coreOf tid)) tid
    let th := savedThread (s.thread tid)
    let im : Image :=
      { addr := a, cluster := clusterOf tid, tid := tid, tile := n % 6, demand := demandOf th, slot := slotOf s tid
        task := (s.thread tid).task, th := th, tileState := if striker then some (tileState (s.tile n)) else none }
    let im := { im with bytes := imageBytes im len s.serial }
    let s := truthWrite (dropOwnImage s tid) physAsid 0 a im.bytes
    let s := keepTile s tid
    let s := { s with images := s.images.put s.serial im }.bump
    s.updThread tid fun t => { t with sup := { t.sup with saved := true } }

/-- The image whose bytes stand at an address. -/
def imageAt (s : State) (a : Nat) : Option (Nat × Image) :=
  List.find? (fun (x : Nat × Image) => truthRead s a x.2.bytes.length == x.2.bytes && !truthBad s a x.2.bytes.length) s.images

/-- The stager's thread that restores alongside a striker: the same thread number, with the pair's other context. -/
def stagerReady (s : State) (tid : Nat) (task : Option Nat) : Bool :=
  let t := s.thread (tid - 4)
  t.task == task ||
    (t.sup.act && t.sup.why == 3 && match imageAt s t.sup.ctxa.toNat with | some x => x.2.task == task | none => false)

/-- Whether a thread may take an image (R351). -/
def imageFits (s : State) (tid : Nat) (im : Image) : Bool :=
  im.cluster == clusterOf tid && im.demand ≤ wcap s tid &&
    (im.tileState.isNone || (roleOf tid == 1 && tileOf tid % 6 == im.tile && stagerReady s tid im.task &&
      ((s.tile (tileOf tid)).pair.isNone || (s.tile (tileOf tid)).pair == im.task || (s.tile (tileOf tid)).pair == (s.thread tid).task)))

/-- The tile is a pair's from the restore of the first of its two contexts on, with the tile state of the striker's image (02 R48). -/
def restoreTile (s : State) (tid k : Nat) (im : Image) : State :=
  if 1 < roleOf tid ∨ (s.tile (tileOf tid)).pair = some k then s
  else
    match im.tileState.orElse fun _ => (List.find? (fun (x : Nat × Image) => x.2.task == some k && x.2.tileState.isSome) s.images).bind (·.2.tileState) with
    | some st => s.updTile (tileOf tid) fun x => loadTile x st k im.slot
    | none => s

/-- A context that was on one thread is on another from now on: keys, pending names, loans, and the jobs whose ends it
counts (01 R19, 10 R226). -/
def moveContext (s : State) (k old new : Nat) : State :=
  let c := clusterOf new
  let s := mapKeys s c (moveEntry (ctxCode k (roleOf old == 1) (codeOf old)) (codeOf new))
  let s := if old ≠ new ∧ (s.thread old).task.isNone then mapKeys s c (moveEntry (codeOf old) (codeOf new)) else s
  { s with clusters := s.clusters.map fun x =>
      (x.1, { x.2 with jobs := x.2.jobs.map fun j =>
        if j.tid = old ∧ j.task = some k ∧ j.graph.isNone then { j with tid := new } else j }) }

/-- A context's registers under a handler that goes on running. -/
def underHandler (t c : Thread) : Thread :=
  let u := ((c.ws 30 (t.rs 30)).ws 31 (t.rs 31)).wa 6 (t.ra 6)
  { u with pc := t.pc, halted := t.halted, bad := u.bad ++ t.struckSaved
           sup := { t.sup with epc := c.pc, sav0 := c.rs 30, sav1 := c.rs 31, sava := c.ra 6, saved := false, savBad := c.struckSaved } }

/-- `SCTX` operation 2 (R351, R352): the context resumes after an acquire of cluster scope (06 R124). -/
def sctxRestore (s : State) (tid : Nat) : State :=
  let a := (s.thread tid).sup.ctxa.toNat
  if (s.thread tid).sup.lat then s
  else if !imagePlace s tid a 64 then reportCause s tid 0x06
  else
    match imageAt s a with
    | none => reportCause s tid 0x14
    | some (n, im) =>
      if !imageFits s tid im then reportCause s tid 0x14
      else
        let t := s.thread tid
        let s := leaveContext s tid
        let s := { s with images := s.images.drop n }
        let s := acquire (s.setThread tid { underHandler t im.th with task := im.task }) tid .cluster
        match im.task with
        | none => s
        | some k =>
          let s := moveContext s k im.tid tid
          let s := s.updTask k fun t => { t with threads := t.threads ++ [tid], state := .running
                                                 unit := if roleOf tid ≤ 1 then t.unit else coreOf tid }
          restoreTile s tid k im

/-- `SCTX_SAVE` (R350): operation 1 of the current thread's handler. -/
def execSctxSave (s : State) : Result := .next (if s.th.sup.act && quiet s s.tid then sctxSave s s.tid else s)

/-- `SCTX_RESTORE` (R351): operation 2 of the current thread's handler. -/
def execSctxRestore (s : State) : Result := .next (if s.th.sup.act && quiet s s.tid then sctxRestore s s.tid else s)

/-! ### The key table from the supervisor's side (R347, 10 R224) -/

/-- An entry's two words. -/
def entryWords (e : Option KeyEntry) : Word × Word :=
  match e with
  | none => (0, 0)
  | some e => (BitVec.ofNat 64 (2 ^ 56 + e.len % 2 ^ 24 * 2 ^ 32 + e.base % 2 ^ 32),
      BitVec.ofNat 64 (e.job % 2 ^ 16 * 2 ^ 32 + e.lender % 256 * 2 ^ 16 + e.pending % 256 * 2 ^ 8 + e.holder % 256))

/-- The entry two words describe. -/
def entryOf (lo hi : Word) : KeyEntry :=
  { base := field lo 0 32, len := field lo 32 24, holder := field hi 0 8, pending := field hi 8 8, lender := field hi 16 8
    job := field hi 32 16 }

/-- Whether an entry's bytes lie in one memory of 01 R12 of the cluster, or in host memory. -/
def inOneMemory (s : State) (c : Nat) (e : KeyEntry) : Bool :=
  let a := e.base * 4096
  let n := e.len * 4096
  1 ≤ e.len && e.len ≤ 2 ^ 23 &&
    match spaceOf a with
    | .hbm d o => d == c && o + n ≤ 0x200000000
    | .tier2 d o => d == c && o + n ≤ tier2Size s
    | .store d o => d == c && o + n ≤ (s.cluster c).scratch * 0x40000
    | .bank d t b o => d == c && o + n ≤ 0x20000 && backed s (bankBase d t b)
    | .host o => o + n ≤ 2 ^ 43
    | .hole => false

/-- The status of writing an entry (R347): the first refusal that applies. -/
def entryRefusal (s : State) (c i : Nat) (e : KeyEntry) : Nat :=
  let cl := s.cluster c
  let lent := match cl.keys.find? i with | some x => x.lender != keyNone | none => false
  if cl.keys.any fun x => x.1 != i && overlap x.2.base x.2.len e.base e.len then 1
  else if !inOneMemory s c e then 2
  else if !(codeOk s c e.holder && codeOk s c e.pending && codeOk s c e.lender) || (e.holder == keyOpen && (s.slot e.job).det) then 3
  else if lent then 4 else 0

/-- `SKOP` operation 1: writes entry `SKIDX` from `SKLO` and `SKHI`. -/
def skopWrite (s : State) (tid : Nat) : State :=
  let c := clusterOf tid
  let t := (s.thread tid).sup
  let e := entryOf t.klo t.khi
  let live := field t.klo 56 8
  let lent := match (s.cluster c).keys.find? t.kidx with | some x => x.lender != keyNone | none => false
  let st := if live = 1 then entryRefusal s c t.kidx e else if live ≠ 0 then 2 else if lent then 4 else 0
  let s := if st ≠ 0 then s else s.updCluster c fun cl =>
    { cl with keys := if live = 1 then cl.keys.put t.kidx e else cl.keys.drop t.kidx }
  s.updThread tid fun t => { t with sup := { t.sup with kst := st } }

/-- `SKOP` operation 2: reads entry `SKIDX`. -/
def skopRead (s : State) (tid : Nat) : State :=
  let r := entryWords ((s.cluster (clusterOf tid)).keys.find? (s.thread tid).sup.kidx)
  s.updThread tid fun t => { t with sup := { t.sup with klo := r.1, khi := r.2, kst := 0 } }

/-- `SKOP` operation 3: frees entry `SKIDX`. -/
def skopFree (s : State) (tid : Nat) : State :=
  let c := clusterOf tid
  let i := (s.thread tid).sup.kidx
  let lent := match (s.cluster c).keys.find? i with | some x => x.lender != keyNone | none => false
  let s := if lent then s else s.updCluster c fun cl => { cl with keys := cl.keys.drop i }
  s.updThread tid fun t => { t with sup := { t.sup with kst := if lent then 4 else 0 } }

/-- A step of the current thread's supervisor handler; nothing outside one. -/
def State.handlerStep (s : State) (f : State → Nat → State) : Result := .next (if s.th.sup.act then f s s.tid else s)

/-- `SKOP_WRITE` (R347). -/
def execSkopWrite (s : State) : Result := s.handlerStep skopWrite
/-- `SKOP_READ` (R347). -/
def execSkopRead (s : State) : Result := s.handlerStep skopRead
/-- `SKOP_FREE` (R347). -/
def execSkopFree (s : State) : Result := s.handlerStep skopFree

/-! ### Ranges, protected ways -/

/-- A commit to `SROP` (R346). -/
def sropCommit (s : State) (tid : Nat) : State :=
  let t := (s.thread tid).sup
  let k := field t.ridx 16 10 * 16 + field t.ridx 0 4
  let s := { s with ranges := if t.rhi.getLsbD 0 then s.ranges.put k (field t.rlo 0 32, field t.rlo 32 32, t.rhi.getLsbD 1) else s.ranges.drop k }
  s.updThread tid fun t => { t with sup := { t.sup with rbusy := true } }

/-- `SROP_COMMIT` (R346). -/
def execSropCommit (s : State) : Result := s.handlerStep sropCommit

/-- `SROP_COMMIT_DONE` (R346): the reads admitted under the old value have been answered, for thread a. -/
def execSropCommitDone (s : State) : Result :=
  .next (s.updThread s.ev.a fun t => { t with sup := { t.sup with rbusy := false } })

/-- Whether a write of `SPROT` takes effect (R347). -/
def sprotTakes (s : State) (c : Nat) (v : Word) : Bool :=
  let n := field v 0 4
  let cl := s.cluster c
  let leaving := s.images.any fun x => match spaceOf x.2.addr with
    | .store d o => d == c && (24 - cl.prot) * 0x40000 ≤ o && o < (24 - n) * 0x40000
    | _ => false
  1 ≤ n && n ≤ 8 && cl.scratch + cl.stash + n ≤ 24 && !leaving && n != cl.prot

/-- A write of `SPROT` (R347), where the cluster's accesses have been performed: the ways change as 05 R103 says. -/
def sprotWrite (s : State) (c : Nat) (v : Word) : State :=
  if !sprotTakes s c v then s
  else
    let n := field v 0 4
    let cl := s.cluster c
    let s := setRoles (flushCluster s c) c cl.scratch cl.stash cl.ranges
    let s := zeroStore s c ((24 - max n cl.prot) * 0x40000) ((24 - min n cl.prot) * 0x40000)
    s.updCluster c fun cl => { cl with prot := n }

/-- Whether a write of `SPROT` must wait for accesses of the cluster (05 R103). -/
def sprotWaits (s : State) (c : Nat) (v : Word) : Bool := sprotTakes s c v && clusterBusy s c

/-- `SPROT_WRITE` (R347): the current thread's handler writes a value to its cluster's `SPROT`. -/
def execSprotWrite (s : State) : Result :=
  s.handlerStep fun s tid => if sprotWaits s (clusterOf tid) s.ev.v then s else sprotWrite s (clusterOf tid) s.ev.v

/-! ### Invalidation (R344) -/

/-- Whether an invalidation covers the translation an access of an address space used: a page of it that overlaps the
invalidation's range is invalidated whole. -/
def covered (va : Nat) (d : Word) (asid page : Nat) (x : Addr) : Bool :=
  (d.getLsbD 20 || field d 0 20 == asid) && asid < 2 ^ 20 &&
    (field d 24 40 == 0 || overlap (va / 4096 * 4096) (field d 24 40 * 4096) (x.toNat / page * page) page)

/-- Discards the dirty words an invalidation covers; their threads lose a write. -/
def discardDirty (s : State) (va : Nat) (d : Word) : State × List (Nat × Addr) :=
  let lost := s.cores.flatMap fun k => (k.2.dirty.filter fun w => covered va d w.2.asid w.2.page w.2.va).map fun w => (w.2.tid, w.2.va)
  ({ s with cores := s.cores.map fun (k : Nat × Core) =>
      let dead := (k.2.dirty.filter fun w => covered va d w.2.asid w.2.page w.2.va).map (·.1)
      (k.1, { k.2 with dirty := k.2.dirty.filter fun w => !dead.contains w.1, dirtyBad := k.2.dirtyBad.filter fun w => !dead.contains w }) }, lost)

/-- Discards the queued writes of a thread that an invalidation covers. -/
def discardOuts (s : State) (va : Nat) (d : Word) (tid : Nat) : State × List (Nat × Addr) :=
  let asid := asidOf s tid
  let hit := fun (o : Out) (e : Elem) => o.writes && !o.phys && covered va d asid e.page e.va
  let outs := (s.thread tid).outs
  let lost := outs.flatMap fun o => (o.elems.filter (hit o)).map fun e => (tid, e.va)
  let s := s.updThread tid fun t => { t with outs := t.outs.map fun o => { o with elems := o.elems.filter fun e => !hit o e } }
  (outs.foldl (fun s o =>
    if o.elems.any (hit o) && o.elems.all (hit o) then
      match o.kind with
      | .store _ counted => endStore s tid o.serial counted
      | .amo _ _ r _ _ => (s.bump.updThread tid fun t => (t.dropOut o.serial).wsLate o.phys r (Config.freeWord s.serial))
      | .seqadv _ _ r _ => (endStore s.bump tid o.serial true).updThread tid fun t => t.wsLate o.phys r (Config.freeWord s.serial)
      | _ => endStore s tid o.serial false
    else s) s, lost)

/-- The lowest address of each thread that lost a write. -/
def lostFirst (xs : List (Nat × Addr)) : List (Nat × Addr) :=
  xs.filter fun x => (xs.all fun y => y.1 != x.1 || x.2.toNat ≤ y.2.toNat)

/-- Steps 1 and 2: the translations held are invalidated, queued and dirty stores are discarded, and cause 0x05 pends on each thread that
loses one. -/
def discardStores (s : State) (va : Nat) (d : Word) : State :=
  let s := { s with tlb := s.tlb.filter fun c => !covered va d c.asid c.page (BitVec.ofNat 80 c.va) }
  let r := discardDirty s va d
  let r := (s.threads.map (·.1)).foldl (fun (p : State × List (Nat × Addr)) tid =>
    let q := discardOuts p.1 va d tid
    (q.1, p.2 ++ q.2)) r
  (lostFirst r.2).eraseDups.foldl (fun s x => addPending s x.1 { code := 0x05, fva := x.2 }) r.1

/-- Step 3: whether an access that used a covered translation is still to be performed: of a thread, or an engine's line read of another
module; a watch on another module's word until its request has left the module (log entry 110). -/
def inFlight (s : State) (va : Nat) (d : Word) : Bool :=
  (s.clusters.any fun c => c.2.jobs.any fun j => !j.phys && j.unanswered.any fun p => covered va d j.asid p.2 (BitVec.ofNat 80 p.1)) ||
  (s.threads.any fun t => t.2.outs.any fun o => !o.phys && o.elems.any fun e => !e.got && covered va d (asidOf s t.1) e.page e.va) ||
    s.watchReqs.any fun r => r.link.isNone && !r.phys && (match r.place with
      | .remote _ _ => s.egress.any fun p => p.typ == 4 && p.tag == r.serial % 65536
      | _ => true) && covered va d r.asid r.page r.va

/-- `TLBI` (R344): the thread waits until the invalidation is done, and completes with a full fence of module scope. -/
def execTlbi (a : AReg) (d : SReg) (s : State) : Result :=
  let x := s.th.rs d
  let va := (s.th.ra a).toNat
  if field x 21 3 ≠ 0 then s.illegal
  else if !s.th.sup.act then s.trap { code := 0x02 }
  else if s.th.hold = some .done then
    if releasable s s.tid s.serial .module then
      (acquire (releaseWork s s.tid .module) s.tid .module).retire 4 fun t => { t with hold := none }
    else s.stall
  else if s.invalidations.any fun i => i.tid == some s.tid then s.stall
  else
    let s := discardStores s va x
    let u : State := { s with invalidations := s.invalidations ++ [{ va := va, operand := x, tid := some s.tid }] }
    u.stall

/-- A write of `HTLBCMD` (R342): an invalidation on behalf of the host port; nothing while one is busy. -/
def hostInvalidate (s : State) (v : Word) : State :=
  if s.regs.htlbBusy then s
  else
    let va := (s.regs.htlbva.toNat + field s.regs.htlbvh 0 16 * 2 ^ 64)
    let s := discardStores s va v
    { s with regs := { s.regs with htlbBusy := true }, invalidations := s.invalidations ++ [{ va := va, operand := v, tid := none }] }

/-- `HTLBCMD` (R342): value v. -/
def execHtlbcmd (s : State) : Result := .next (hostInvalidate s s.ev.v)

/-- `TLB_INVALIDATION_DONE` (R344): invalidation a is over once no access that used what it invalidates is in flight. -/
def execTlbInvalidationDone (s : State) : Result :=
  match s.invalidations[s.ev.a]? with
  | none => .next s
  | some i =>
    if inFlight s i.va i.operand then .next s
    else
      let s := { s with invalidations := dropNth s.invalidations s.ev.a }
      match i.tid with
      | some t => .next (s.updThread t fun t => { t with hold := some .done })
      | none => .next { s with regs := { s.regs with htlbBusy := false, htlbDone := (s.regs.htlbDone + 1) % 2 ^ 32 } }

/-! ### Supervisor registers (R347) -/

/-- The 64-bit registers of the map. -/
def supWord (s : State) (i : Nat) : Option Word :=
  let t := s.th.sup
  let cl := s.cluster (clusterOf s.tid)
  match i with
  | 0x100 => some (BitVec.ofNat 64 (t.why * 64 + (if t.lat then 16 else 0) + (if t.act then 1 else 0)))
  | 0x101 => some t.cause
  | 0x105 => some t.sav0
  | 0x106 => some t.sav1
  | 0x110 => some (if s.th.task.isSome then BitVec.ofNat 64 (asidOf s s.tid) else Config.freeWord s.serial)
  | 0x111 => some (if s.th.task.isSome then BitVec.ofNat 64 (s.slot (slotOf s s.tid)).ptb else Config.freeWord s.serial)
  | 0x120 => some (BitVec.ofNat 64 cl.sgrace)
  | 0x121 => some (BitVec.ofNat 64 cl.prot)
  | 0x122 => some 0
  | 0x130 => some (BitVec.ofNat 64 t.kidx)
  | 0x131 => some t.klo
  | 0x132 => some t.khi
  | 0x133 => some (BitVec.ofNat 64 (t.kst * 16))
  | 0x140 => some t.ridx
  | 0x141 => some t.rlo
  | 0x142 => some t.rhi
  | 0x143 => some (if t.rbusy then 2 else 0)
  | _ => none

/-- The 80-bit registers of the map. -/
def supAddr (s : State) (i : Nat) : Option Addr :=
  let t := s.th.sup
  match i with
  | 0x102 => some t.epc
  | 0x103 => some t.fva
  | 0x104 => some (s.cluster (clusterOf s.tid)).svec
  | 0x107 => some t.sava
  | 0x123 => some t.ctxa
  | _ => none

def State.setSup (s : State) (f : Sup → Sup) : Result := s.retire 4 fun t => { t with sup := f t.sup }

/-- A write of a 64-bit supervisor register. -/
def setSupWord (s : State) (i : Nat) (x : Word) : Result :=
  let c := clusterOf s.tid
  match i with
  | 0x101 => s.setSup fun t => { t with cause := x &&& causeMask }
  | 0x105 => s.setSup fun t => { t with sav0 := x, savBad := t.savBad.filter (· != .s 30) }
  | 0x106 => s.setSup fun t => { t with sav1 := x, savBad := t.savBad.filter (· != .s 31) }
  | 0x120 =>
    let n := field x 0 14
    (if 1 ≤ n ∧ n ≤ 10000 then s.updCluster c fun cl => { cl with sgrace := n } else s).skip 4
  | 0x121 => if sprotWaits s c x then s.stall else (sprotWrite s c x).skip 4
  | 0x122 =>
    match field x 0 2 with
    | 1 => if quiet s s.tid then (sctxSave s s.tid).skip 4 else s.stall
    | 2 => if quiet s s.tid then (sctxRestore s s.tid).skip 4 else s.stall
    | _ => s.illegal
  | 0x130 => s.setSup fun t => { t with kidx := field x 0 12 }
  | 0x131 => s.setSup fun t => { t with klo := x }
  | 0x132 => s.setSup fun t => { t with khi := x &&& 0xFFFF00FFFFFF }
  | 0x133 =>
    match field x 0 2 with
    | 1 => (skopWrite s s.tid).skip 4
    | 2 => (skopRead s s.tid).skip 4
    | 3 => (skopFree s s.tid).skip 4
    | _ => s.skip 4
  | 0x140 => s.setSup fun t => { t with ridx := x &&& 0x3FF000F }
  | 0x141 => s.setSup fun t => { t with rlo := x }
  | 0x142 => s.setSup fun t => { t with rhi := x &&& 3 }
  | 0x143 => (if x.getLsbD 0 then sropCommit s s.tid else s).skip 4
  | _ => s.skip 4

/-- A write of an 80-bit supervisor register. -/
def setSupAddr (s : State) (i : Nat) (x : Addr) : Result :=
  match i with
  | 0x102 => s.setSup fun t => { t with epc := x }
  | 0x103 => s.setSup fun t => { t with fva := x }
  | 0x104 => (s.updCluster (clusterOf s.tid) fun cl => { cl with svec := x }).skip 4
  | 0x107 => s.setSup fun t => { t with sava := x, savBad := t.savBad.filter (· != .a 6) }
  | 0x123 => s.setSup fun t => { t with ctxa := x }
  | _ => s.skip 4

/-! ### `CTLR` and `CTLW` (R168, R288) -/

/-- `CTLR` (R168, R288). A task's access to an index of 0x100 or above is cause 0x02 in either form class (DESIGN CHOICE: log entry 139). -/
def execCtlr (d : CReg) (idx : BitVec 12) (s : State) : Result :=
  let i := idx.toNat
  if i ≥ 0x100 ∧ ¬ s.th.sup.act then s.trap { code := 0x02 }
  else
    match d with
    | .s r => match (if i < 0x100 then ctlWord s i else supWord s i) with
      | some x => s.bump.retireS r x
      | none => s.illegal
    | .a r => match (if i < 0x100 then ctlAddr s.th i else supAddr s i) with
      | some x => s.retireA 4 r x
      | none => s.illegal

/-- `CTLW` (R168, R288). A task's access to an index of 0x100 or above is cause 0x02 in either form class (DESIGN CHOICE: log entry 139). -/
def execCtlw (idx : BitVec 12) (a : CReg) (s : State) : Result :=
  let i := idx.toNat
  if i ≥ 0x100 ∧ ¬ s.th.sup.act then s.trap { code := 0x02 }
  else
    match a with
    | .s r =>
      if i < 0x100 then
        if (ctlWord s i).isNone then s.illegal
        else match s.th.setCtl i (s.th.rs r) with
          | some t => s.retire 4 fun _ => t
          | none => s.illegal
      else if (supWord s i).isNone then s.illegal
      else setSupWord s i (s.th.rs r)
    | .a r =>
      if i < 0x100 then
        if (ctlAddr s.th i).isNone then s.illegal else s.retire 4 fun t => t.setCtlAddr i (s.th.ra r)
      else if (supAddr s i).isNone then s.illegal
      else setSupAddr s i (s.th.ra r)

end Sys2Proof.Machine
end

