-- ==== Sys2Proof/Machine/Registers.lean ====
section
/-!
DEFINITION. The registers of BAR0 as the host reads and writes them (18 R323–R337; 19 R342; 20 R358, R360; 21 R370–R382),
and the freezing of an interface's configuration (20 R365).
-/
namespace Sys2Proof.Machine

/-! ### Reads -/

/-- `JOBCTL` (18 R327). -/
def jobctlWord (x : Slot) : Word := BitVec.ofNat 64 ((if x.det then 8 else 0) + x.prio % 4 * 2 + (if x.en then 1 else 0))

/-- `QCFG` (18 R331). -/
def qcfgWord (q : Queue) : Word :=
  BitVec.ofNat 64 ((if q.msix then 2 ^ 17 else 0) + (if q.enable then 2 ^ 16 else 0) + q.slot % 16 * 2 ^ 8 + q.k % 32)

/-- `QPROG` (18 R331, R333). -/
def qprogWord (q : Queue) : Word :=
  if q.where_ = .switchingOut ∨ q.where_ = .switchingIn then q.shown ||| (0x8000000000000000 : Word) else progWord q

/-- `NLSTAT` (20 R358). -/
def nlstatWord (p : Port) : Word :=
  let st := match p.state with | .down => 0 | .training => 1 | .up => 2 | .failed => 3
  BitVec.ofNat 64 (min p.retry 0xFFFF * 2 ^ 48 + p.peer % 1024 * 2 ^ 32 + (if p.sw then 2 ^ 31 else 0) + st)

/-- `NLCTL` (20 R358): bit 1 reads 1 while the port is failed (00 R7). -/
def nlctlWord (p : Port) : Word := (if p.en then 1 else 0) ||| (if p.state = .failed then 2 else 0)

/-- `PWR` of partition p (18 R335): partition 1 reads zero in the one-partition mode (21 R370). -/
def pwrWord (s : State) (p : Nat) : Word :=
  if hasPartition s p then BitVec.ofNat 64 (s.regs.pstate[p]! % 4 * 2 ^ 32 + (s.regs.ltol[p]!).toNat) else 0

/-- The registers below 0x1000. -/
def moduleReg (s : State) (off : Nat) : Word :=
  let r := s.regs
  match off with
  | 0x00 => midWord s
  | 0x08 => BitVec.ofNat 64 (r.svn % 256 * 256 + r.mstate % 4)
  | 0x18 => featWord s
  | 0x20 => r.fwaddr
  | 0x28 => r.fwlen
  | 0x38 => BitVec.ofNat 64 ((if r.fwbusy then 256 else 0) + r.fwcode % 8)
  | 0x40 => BitVec.ofNat 64 ((if r.herrV then 2 ^ 63 else 0) + (if r.herrOvf then 2 ^ 62 else 0) + r.herrCause % 64)
  | 0x48 => r.herrAddr
  | 0x60 => BitVec.ofNat 64 (r.modnum % 1024)
  | 0x68 => hmapWord s
  | 0x70 => if r.pcfg then 1 else 0
  | 0x100 => pwrWord s 0
  | 0x108 => pwrWord s 1
  | 0x120 => r.plim
  | 0x200 => r.htlbva
  | 0x208 => r.htlbvh
  | 0x218 => BitVec.ofNat 64 (r.htlbDone % 2 ^ 32 * 2 ^ 32 + (if r.htlbBusy then 1 else 0))
  | _ => 0

/-- The registers of job slot j, at 0x080000 + 0x100 j. -/
def slotReg (x : Slot) (off : Nat) : Word :=
  match off with
  | 0x00 => jobctlWord x
  | 0x08 => x.prog
  | 0x10 => BitVec.ofNat 64 x.asid
  | 0x18 => BitVec.ofNat 64 x.ptb
  | 0x20 => BitVec.ofNat 64 x.part
  | 0x28 => BitVec.ofNat 64 x.grpt
  | 0x30 => BitVec.ofNat 64 x.grpn
  | _ => 0

/-- The network registers (20 R360). -/
def netReg (s : State) (off : Nat) : Word :=
  let n := s.net
  if s.fuse.lite then 0
  else
    match off with
    | 0x00 => n.cfg
    | 0x08 => BitVec.ofNat 64 n.qpt
    | 0x10 => BitVec.ofNat 64 n.rgt
    | 0x18 => BitVec.ofNat 64 ((if n.qpBusy then 2 ^ 63 else 0) + n.qpStatus % 8 * 2 ^ 60 + n.qpIdx % 2 ^ 24)
    | 0x20 => BitVec.ofNat 64 ((if n.rgBusy then 2 ^ 63 else 0) + n.rgStatus % 8 * 2 ^ 60 + n.rgIdx % 2 ^ 16)
    | _ => 0

/-- The event registers (21 R381). -/
def eventReg (s : State) (off : Nat) : Word :=
  let r := s.regs
  match off with
  | 0x00 => BitVec.ofNat 64 r.evbase
  | 0x08 => BitVec.ofNat 64 ((if r.evirq then 2 ^ 17 else 0) + (if r.even_ then 2 ^ 16 else 0) + r.evk % 32)
  | 0x10 => BitVec.ofNat 64 r.evhead
  | 0x18 => BitVec.ofNat 64 r.evtail
  | 0x20 => BitVec.ofNat 64 r.evlost
  | _ => 0

/-- `REMAP` of cluster c (21 R376). -/
def remapWord (cl : Cluster) : Word :=
  BitVec.ofNat 64 (cl.remapSwaps % 2 ^ 32 * 2 ^ 32 + cl.remapThr % 256 * 256 + (if cl.remapEn then 1 else 0))

/-- The registers of queue q, at 0x200000 + 0x1000 q. -/
def queueReg (q : Queue) (off : Nat) : Word :=
  match off with
  | 0x00 => BitVec.ofNat 64 q.base
  | 0x08 => qcfgWord q
  | 0x10 => BitVec.ofNat 64 (q.savedTail.getD q.tail)
  | 0x18 => qprogWord q
  | _ => 0

/-- The graph loader of die d (18 R330). -/
def loaderReg (s : State) (d off : Nat) : Word :=
  match off with
  | 0x00 => BitVec.ofNat 64 s.regs.glAddr[d % 2]!
  | 0x10 => BitVec.ofNat 64 ((if s.regs.glBusy[d % 2]! then 2 ^ 63 else 0) + s.regs.glStatus[d % 2]! % 128 * 2 ^ 56 + s.regs.glNode[d % 2]! % 1024)
  | _ => 0

/-- What a BAR0 read returns (18 R324, R323): the register's value; zero where the map lists none. -/
def barWord (s : State) (off : Nat) : Word :=
  if off % 8 ≠ 0 then 0
  else if off < 0x1000 then moduleReg s off
  else if 0x20000 ≤ off ∧ off < 0x20000 + 18 * 0x100 then
    match off % 0x100 with
    | 0 => nlstatWord (s.port ((off - 0x20000) / 0x100))
    | 8 => nlctlWord (s.port ((off - 0x20000) / 0x100))
    | _ => 0
  else if 0x30000 ≤ off ∧ off < 0x30000 + 8 * 1024 then BitVec.ofNat 64 (routeWord s ((off - 0x30000) / 8))
  else if 0x40000 ≤ off ∧ off < 0x40080 then s.regs.fencem.get 0 ((off - 0x40000) / 8)
  else if 0x50000 ≤ off ∧ off < 0x50028 then netReg s (off - 0x50000)
  else if 0x60000 ≤ off ∧ off < 0x60028 then eventReg s (off - 0x60000)
  else if 0x70000 ≤ off ∧ off < 0x74000 then if off % 0x100 = 0 then remapWord (s.cluster ((off - 0x70000) / 0x100)) else 0
  else if 0x80000 ≤ off ∧ off < 0x81000 then slotReg (s.slot ((off - 0x80000) / 0x100)) (off % 0x100)
  else if 0x90000 ≤ off ∧ off < 0x90200 then loaderReg s ((off - 0x90000) / 0x100) (off % 0x100)
  else if 0x100000 ≤ off ∧ off < 0x110000 then
    let j := (off - 0x100000) / 0x1000
    let c := off % 0x1000 / 0x10
    if c ≥ 64 then 0 else if off % 0x10 = 0 then (s.slot j).tbcs.get 0 c else (s.slot j).tbhb.get 0 c
  else if 0x121000 ≤ off ∧ off < 0x121000 + 8 * 1035 then counterWord s ((off - 0x121000) / 8)
  else if 0x200000 ≤ off ∧ off < 0x240000 then queueReg (s.queue ((off - 0x200000) / 0x1000)) (off % 0x1000)
  else 0

/-- A host read of n bytes of BAR0: zero but for a naturally aligned read of 8 (R323); all ones, and logged, on a stream an
interface rejects (20 R366). -/
def barRead (s : State) (off n : Nat) (stream : Option Nat) : State :=
  if barRejected s off stream then logHerr { s with hostData := List.replicate n 0xFF, hostPoison := false } 0x06 off
  else { s with hostData := if n = 8 then bytesOfNat 8 (barWord s off).toNat else List.replicate n 0, hostPoison := false }

/-- `BAR2_HOST_READ` (R323): b bytes at offset a of BAR2, or, with the flag, of BAR0. -/
def execBar2HostRead (s : State) : Result :=
  .next (if s.ev.flag then barRead s s.ev.a s.ev.b s.ev.slot else hostRead s s.ev.a s.ev.b s.ev.slot)

/-! ### Frozen configuration (20 R365) -/

/-- A write of a slot's configuration: where that is frozen it has no effect, and one that would change it puts a locked or running
interface into ERROR. -/
def configure (s : State) (j : Nat) (changes : Bool) (t : State) : State :=
  if frozen s j then (if changes then interfaceError s j else s) else t

/-- A write of a field of slot j; while the job exists it has no effect (18 R328; 19 R342). -/
def setField (s : State) (j old new : Nat) (f : Slot → Slot) : State :=
  configure s j (old != new) (if (s.slot j).en then s else s.updSlot j f)

/-- A write of `JOBCTL` (18 R327): one that would change a frozen priority or det has no effect and puts the interface into
ERROR (20 R365); on an enabled slot whose interface is not frozen, they are ignored. -/
def jobctlWrite (s : State) (j : Nat) (v : Word) : State :=
  let x := s.slot j
  if frozen s j && (x.prio != field v 1 2 || x.det != v.getLsbD 3) then interfaceError s j
  else
    let s := if v.getLsbD 8 then cancelSlot s true j 0x15 else s
    if x.en then (if v.getLsbD 0 then s else endEnabled s j)
    else
      let s := s.updSlot j fun x => { x with prio := field v 1 2, det := v.getLsbD 3 }
      if v.getLsbD 0 then enableJob s j else s

/-- A write of a register of slot j. -/
def slotWrite (s : State) (j off : Nat) (v : Word) : State :=
  let x := s.slot j
  match off with
  | 0x00 => jobctlWrite s j v
  | 0x10 => setField s j x.asid (field v 0 20) fun x => { x with asid := field v 0 20 }
  | 0x18 => setField s j x.ptb (field v 14 30 * 2 ^ 14) fun x => { x with ptb := field v 14 30 * 2 ^ 14 }
  | 0x20 => setField s j x.part (field v 0 1) fun x => { x with part := field v 0 1 }
  | 0x28 => setField s j x.grpt (field v 6 38 * 64) fun x => { x with grpt := field v 6 38 * 64 }
  | 0x30 => setField s j x.grpn (field v 0 13) fun x => { x with grpn := field v 0 13 }
  | _ => s

/-- A write of a token bucket of slot j on cluster c (18 R337). -/
def bucketWrite (s : State) (j c : Nat) (hbm : Bool) (v : Word) : State :=
  let old := if hbm then (s.slot j).tbhb.get 0 c else (s.slot j).tbcs.get 0 c
  configure s j (old != v) (s.updSlot j fun x => if hbm then { x with tbhb := x.tbhb.put c v } else { x with tbcs := x.tbcs.put c v })

/-! ### Queues -/

/-- A write of `QCFG` (18 R331), of which a frozen slot that the queue names, or would name, keeps the old value (20 R365): enabled, a queue is resident where a launch unit has a place, and saved otherwise. -/
def qcfgWrite (s : State) (q : Nat) (v : Word) : State :=
  let old := s.queue q
  let new := if old.enable then { old with enable := v.getLsbD 16, msix := v.getLsbD 17 }
    else { old with k := field v 0 5, slot := field v 8 4, enable := v.getLsbD 16, msix := v.getLsbD 17 }
  configure s old.slot (qcfgWord old != qcfgWord new) <| configure s new.slot (qcfgWord old != qcfgWord new)
    (let s := s.setQueue q new
     if new.enable != old.enable then
       s.updQueue q fun x => { x with where_ := if residentRoom s q then .resident else .saved
                                      tail := x.savedTail.getD x.tail, savedTail := none, ahead := [] }
     else s)

/-- A write of a register of queue q. -/
def queueWrite (s : State) (q off : Nat) (v : Word) : State :=
  match off with
  | 0x00 => s.updQueue q fun x => { x with base := field v 12 52 * 4096 }
  | 0x08 => qcfgWrite s q v
  | 0x10 => tailWrite s q v
  | 0x20 =>
    let s := if v.getLsbD 0 then cancelQueue s q else s
    if v.getLsbD 1 then clearQueueError s q else s
  | _ => s

/-! ### Module registers -/

/-- A write of a register below 0x1000. -/
def moduleWrite (s : State) (off : Nat) (v : Word) : State :=
  let r := s.regs
  match off with
  | 0x10 => mresetWrite s v
  | 0x20 => { s with regs := { r with fwaddr := v &&& ~~~(0xFFF : Word) } }
  | 0x28 => { s with regs := { r with fwlen := v } }
  | 0x30 => fwgoWrite s v
  | 0x40 =>
    let r := if v.getLsbD 63 then { r with herrV := false, herrCause := 0, herrAddr := 0 } else r
    { s with regs := if v.getLsbD 62 then { r with herrOvf := false } else r }
  | 0x50 => keyhandWrite s v
  | 0x60 =>
    if (s.ports.all fun p => p.state == .down) && s.slots.all fun x => !x.en then { s with regs := { r with modnum := field v 0 10 } } else s
  | 0x70 => if s.slots.any fun x => x.en then s else { s with regs := { r with pcfg := v.getLsbD 0 } }
  | 0x78 => resetPartition s v
  | 0x80 => if v = 0x5E6B0003 then fenceModule s else s
  | 0x100 => ltolWrite s 0 (v.truncate 32)
  | 0x108 => if r.pcfg then ltolWrite s 1 (v.truncate 32) else s
  | 0x120 => { s with regs := { r with plim := v } }
  | 0x200 => { s with regs := { r with htlbva := v } }
  | 0x208 => { s with regs := { r with htlbvh := v &&& 0xFFFF } }
  | 0x210 => hostInvalidate s v
  | _ => s

/-- A write of `NLCTL` of port p (20 R358); the event's b is the last sequence that the far end of a port going down accepted. -/
def nlctlWrite (s : State) (p : Nat) (v : Word) : State :=
  let s := if v.getLsbD 1 then clearPort s p else s
  if v.getLsbD 0 then trainPort s p else downPort s p s.ev.b

/-- A write of a network register (20 R360). -/
def netWrite (s : State) (off : Nat) (v : Word) : State :=
  if s.fuse.lite then s
  else
    match off with
    | 0x00 => s.updNet fun n => { n with cfg := v &&& 0x1FFFF }
    | 0x08 => s.updNet fun n => { n with qpt := field v 11 33 * 2048 }
    | 0x10 => s.updNet fun n => { n with rgt := field v 12 32 * 4096 }
    | 0x18 =>
      let q := field v 0 24
      let s := if s.net.qpBusy then s else s.updNet fun n => { n with qpIdx := q }
      match field v 24 2 with
      | 1 => createPair s q
      | 2 => forcePair s q
      | 3 => destroyPair s q
      | _ => s
    | 0x20 =>
      let i := field v 0 16
      let s := if s.net.rgBusy then s else s.updNet fun n => { n with rgIdx := i }
      match field v 16 2 with
      | 1 => registerRegion s i
      | 2 => deregisterRegion s i
      | _ => s
    | _ => s

/-- A write of an event register (21 R381). -/
def eventWrite (s : State) (off : Nat) (v : Word) : State :=
  let r := s.regs
  match off with
  | 0x00 => { s with regs := { r with evbase := field v 12 52 * 4096 } }
  | 0x08 => { s with regs := { r with evk := if r.even_ then r.evk else field v 0 5, even_ := v.getLsbD 16, evirq := v.getLsbD 17 } }
  | 0x18 => { s with regs := { r with evtail := v.toNat } }
  | _ => s

/-- A write of `REMAP` (21 R376). -/
def remapWrite (s : State) (c : Nat) (v : Word) : State :=
  let thr := field v 8 8
  s.updCluster c fun cl => { cl with remapEn := v.getLsbD 0, remapThr := if 11 ≤ thr ∧ thr ≤ 40 then thr else cl.remapThr }

/-- A write of a graph loader's register (18 R330). -/
def loaderRegWrite (s : State) (d off : Nat) (v : Word) : State :=
  match off with
  | 0x00 => { s with regs := { s.regs with glAddr := s.regs.glAddr.set! (d % 2) (field v 6 38 * 64) } }
  | 0x08 => if field v 16 2 = 1 ∨ field v 16 2 = 2 then loaderWrite s d v (field v 16 2) else s
  | _ => s

/-- A BAR0 write (18 R323, R324): the register's writable fields take the value under the access codes of 00 R7. -/
def barStore (s : State) (off : Nat) (v : Word) : State :=
  if off % 8 ≠ 0 then s
  else if off < 0x1000 then moduleWrite s off v
  else if 0x20000 ≤ off ∧ off < 0x20000 + 18 * 0x100 then
    if off % 0x100 = 8 then nlctlWrite s ((off - 0x20000) / 0x100) v else s
  else if 0x30000 ≤ off ∧ off < 0x30000 + 8 * 1024 then
    settleUnreachable { s with regs := { s.regs with nlroute := s.regs.nlroute.put ((off - 0x30000) / 8) (field v 0 19) } }
  else if 0x40000 ≤ off ∧ off < 0x40080 then fencemSet s ((off - 0x40000) / 8) v
  else if 0x50000 ≤ off ∧ off < 0x50028 then netWrite s (off - 0x50000) v
  else if 0x60000 ≤ off ∧ off < 0x60028 then eventWrite s (off - 0x60000) v
  else if 0x70000 ≤ off ∧ off < 0x74000 then if off % 0x100 = 0 then remapWrite s ((off - 0x70000) / 0x100) v else s
  else if 0x80000 ≤ off ∧ off < 0x81000 then slotWrite s ((off - 0x80000) / 0x100) (off % 0x100) v
  else if 0x90000 ≤ off ∧ off < 0x90200 then loaderRegWrite s ((off - 0x90000) / 0x100) (off % 0x100) v
  else if 0x100000 ≤ off ∧ off < 0x110000 then
    if off % 0x1000 / 0x10 ≥ 64 then s
    else bucketWrite s ((off - 0x100000) / 0x1000) (off % 0x1000 / 0x10) (off % 0x10 != 0) v
  else if off = 0x120000 then tsnapWrite s v
  else if 0x200000 ≤ off ∧ off < 0x240000 then queueWrite s ((off - 0x200000) / 0x1000) (off % 0x1000) v
  else s

/-- `REGISTER_WRITE` (18 R323, R324; 00 R7): value v at BAR0 offset a. With the flag the access is not one of 8 bytes, and
nothing is written. -/
def execRegisterWrite (s : State) : Result := s.barWrite s.ev.a (if s.ev.flag then s else barStore s s.ev.a s.ev.v)

end Sys2Proof.Machine
end

