-- ==== Sys2Proof/Machine/Scalar.lean ====
section
/-!
DEFINITION. Integer and address instructions (09 R194–R200).
-/
namespace Sys2Proof.Machine

/-- `ADD` (R194). -/
def execAdd (d a b : SReg) (s : State) : Result :=
  let x := s.th.rs a
  let y := s.th.rs b
  s.retireS d (x + y)

/-- `SUB` (R194). -/
def execSub (d a b : SReg) (s : State) : Result :=
  let x := s.th.rs a
  let y := s.th.rs b
  s.retireS d (x - y)

/-- `AND` (R194). -/
def execAnd (d a b : SReg) (s : State) : Result :=
  let x := s.th.rs a
  let y := s.th.rs b
  s.retireS d (x &&& y)

/-- `OR` (R194). -/
def execOr (d a b : SReg) (s : State) : Result :=
  let x := s.th.rs a
  let y := s.th.rs b
  s.retireS d (x ||| y)

/-- `XOR` (R194). -/
def execXor (d a b : SReg) (s : State) : Result :=
  let x := s.th.rs a
  let y := s.th.rs b
  s.retireS d (x ^^^ y)

/-- `ANDN` (R194). -/
def execAndn (d a b : SReg) (s : State) : Result :=
  let x := s.th.rs a
  let y := s.th.rs b
  s.retireS d (x &&& ~~~y)

/-- `SHL` (R194). -/
def execShl (d a b : SReg) (s : State) : Result :=
  let x := s.th.rs a
  let y := s.th.rs b
  s.retireS d (x <<< (y.toNat % 64))

/-- `SHR` (R194). -/
def execShr (d a b : SReg) (s : State) : Result :=
  let x := s.th.rs a
  let y := s.th.rs b
  s.retireS d (x >>> (y.toNat % 64))

/-- `SAR` (R194). -/
def execSar (d a b : SReg) (s : State) : Result :=
  let x := s.th.rs a
  let y := s.th.rs b
  s.retireS d (x.sshiftRight (y.toNat % 64))

/-- `MUL` (R194). -/
def execMul (d a b : SReg) (s : State) : Result :=
  let x := s.th.rs a
  let y := s.th.rs b
  s.retireS d (x * y)

/-- `MULH` (R194). -/
def execMulh (d a b : SReg) (s : State) : Result :=
  let x := s.th.rs a
  let y := s.th.rs b
  s.retireS d (highWord (x.toInt * y.toInt))

/-- `MULHU` (R194). -/
def execMulhu (d a b : SReg) (s : State) : Result :=
  let x := s.th.rs a
  let y := s.th.rs b
  s.retireS d (highWord ((x.toNat : Int) * (y.toNat : Int)))

/-- `DIV` (R195). -/
def execDiv (d a b : SReg) (s : State) : Result :=
  let x := s.th.rs a
  let y := s.th.rs b
  s.retireS d ((divS x y).1)

/-- `DIVU` (R195). -/
def execDivu (d a b : SReg) (s : State) : Result :=
  let x := s.th.rs a
  let y := s.th.rs b
  s.retireS d ((divU x y).1)

/-- `REM` (R195). -/
def execRem (d a b : SReg) (s : State) : Result :=
  let x := s.th.rs a
  let y := s.th.rs b
  s.retireS d ((divS x y).2)

/-- `REMU` (R195). -/
def execRemu (d a b : SReg) (s : State) : Result :=
  let x := s.th.rs a
  let y := s.th.rs b
  s.retireS d ((divU x y).2)

/-- `MIN` (R194). -/
def execMin (d a b : SReg) (s : State) : Result :=
  let x := s.th.rs a
  let y := s.th.rs b
  s.retireS d (if x.slt y then x else y)

/-- `MAX` (R194). -/
def execMax (d a b : SReg) (s : State) : Result :=
  let x := s.th.rs a
  let y := s.th.rs b
  s.retireS d (if x.slt y then y else x)

/-- `MINU` (R194). -/
def execMinu (d a b : SReg) (s : State) : Result :=
  let x := s.th.rs a
  let y := s.th.rs b
  s.retireS d (if x.ult y then x else y)

/-- `MAXU` (R194). -/
def execMaxu (d a b : SReg) (s : State) : Result :=
  let x := s.th.rs a
  let y := s.th.rs b
  s.retireS d (if x.ult y then y else x)

/-- `SEQ` (R194). -/
def execSeq (d a b : SReg) (s : State) : Result :=
  let x := s.th.rs a
  let y := s.th.rs b
  s.retireS d (bit (x == y))

/-- `SNE` (R194). -/
def execSne (d a b : SReg) (s : State) : Result :=
  let x := s.th.rs a
  let y := s.th.rs b
  s.retireS d (bit (x != y))

/-- `SLT` (R194). -/
def execSlt (d a b : SReg) (s : State) : Result :=
  let x := s.th.rs a
  let y := s.th.rs b
  s.retireS d (bit (x.slt y))

/-- `SLTU` (R194). -/
def execSltu (d a b : SReg) (s : State) : Result :=
  let x := s.th.rs a
  let y := s.th.rs b
  s.retireS d (bit (x.ult y))

/-- `CLZ` (R194). -/
def execClz (d a : SReg) (s : State) : Result := s.retireS d (BitVec.ofNat 64 (clzNat 64 (s.th.rs a).toNat))

/-- `CTZ` (R194). -/
def execCtz (d a : SReg) (s : State) : Result := s.retireS d (BitVec.ofNat 64 (ctzNat 64 (s.th.rs a).toNat))

/-- `POPC` (R194). -/
def execPopc (d a : SReg) (s : State) : Result := s.retireS d (BitVec.ofNat 64 (popNat 64 (s.th.rs a).toNat))

/-- `BREV` (R194). -/
def execBrev (d a : SReg) (s : State) : Result := s.retireS d (BitVec.ofNat 64 (revNat 64 (s.th.rs a).toNat))

/-- `BSWAP` (R194). -/
def execBswap (d a : SReg) (s : State) : Result := s.retireS d (BitVec.ofNat 64 (natOfBytes (bytesOfNat 8 (s.th.rs a).toNat).reverse))

/-- `SEXT` (R194). -/
def execSext (d a b : SReg) (s : State) : Result :=
  let x := s.th.rs a
  let y := s.th.rs b
  s.retireS d (sextWord x.toNat (widthOf y))

/-- `ZEXT` (R194). -/
def execZext (d a b : SReg) (s : State) : Result :=
  let x := s.th.rs a
  let y := s.th.rs b
  s.retireS d (BitVec.ofNat 64 (x.toNat % 2 ^ widthOf y))

/-- `CMOV` (R194): with a zero condition D stays exactly as it was. -/
def execCmov (d a b : SReg) (s : State) : Result :=
  if s.th.rs b = 0 then s.skip 4 else s.retireS d (s.th.rs a)

/-- `ADDI` (R196). -/
def execAddi (d a : SReg) (imm : BitVec 15) (s : State) : Result := s.retireS d (s.th.rs a + imm64 imm)

/-- `ANDI` (R196). -/
def execAndi (d a : SReg) (imm : BitVec 15) (s : State) : Result := s.retireS d (s.th.rs a &&& imm64 imm)

/-- `ORI` (R196). -/
def execOri (d a : SReg) (imm : BitVec 15) (s : State) : Result := s.retireS d (s.th.rs a ||| imm64 imm)

/-- `XORI` (R196). -/
def execXori (d a : SReg) (imm : BitVec 15) (s : State) : Result := s.retireS d (s.th.rs a ^^^ imm64 imm)

/-- `SHLI` (R196). -/
def execShli (d a : SReg) (n : BitVec 6) (s : State) : Result := s.retireS d (s.th.rs a <<< n.toNat)

/-- `SHRI` (R196). -/
def execShri (d a : SReg) (n : BitVec 6) (s : State) : Result := s.retireS d (s.th.rs a >>> n.toNat)

/-- `SARI` (R196). -/
def execSari (d a : SReg) (n : BitVec 6) (s : State) : Result := s.retireS d ((s.th.rs a).sshiftRight n.toNat)

/-- `SLTI` (R196). -/
def execSlti (d a : SReg) (imm : BitVec 14) (s : State) : Result := s.retireS d (bit ((s.th.rs a).slt (imm64 imm)))

/-- `SLTIU` (R196): against the sign-extended immediate read as unsigned. -/
def execSltiu (d a : SReg) (imm : BitVec 14) (s : State) : Result := s.retireS d (bit ((s.th.rs a).ult (imm64 imm)))

/-- `MOVI`, short form (R197). -/
def execMovi (d : SReg) (imm : BitVec 15) (s : State) : Result := s.retireS d (imm64 imm)

/-- `MOVI`, long form (R197). -/
def execMoviLong (d : SReg) (ext : BitVec 32) (s : State) : Result := s.retire 8 fun t => t.ws d (imm64 ext)

/-- `MOVHI` (R197): bits [31:0] of D stay. -/
def execMovhi (d : SReg) (ext : BitVec 32) (s : State) : Result :=
  s.retire 8 fun t => t.ws d (ext ++ (t.rs d).extractLsb' 0 32)

/-- `ADRPC`, short form (R198). -/
def execAdrpc (d : AReg) (imm : BitVec 15) (s : State) : Result := s.retireA 4 d (targetOf s.th.pc imm)

/-- `ADRPC`, long form (R198). -/
def execAdrpcLong (d : AReg) (ext : BitVec 32) (s : State) : Result := s.retireA 8 d (targetOf s.th.pc ext)

/-- `ADDA` (R199). -/
def execAdda (d a : AReg) (b : SReg) (s : State) : Result := s.retireA 4 d (addrPlus (s.th.ra a) (s.th.rs b).toInt)

/-- `SUBA` (R199). -/
def execSuba (d a : AReg) (b : SReg) (s : State) : Result := s.retireA 4 d (addrPlus (s.th.ra a) (-(s.th.rs b).toInt))

/-- `MOVAS` (R199). -/
def execMovas (d : AReg) (a : SReg) (s : State) : Result := s.retireA 4 d ((s.th.rs a).setWidth 80)

/-- `MOVSA` (R199). -/
def execMovsa (d : SReg) (a : AReg) (s : State) : Result := s.retireS d ((s.th.ra a).setWidth 64)

/-- `MOVAH` (R199): bits [63:0] of AD stay. -/
def execMovah (d : AReg) (a : SReg) (s : State) : Result :=
  s.retireA 4 d ((s.th.rs a).extractLsb' 0 16 ++ (s.th.ra d).extractLsb' 0 64)

/-- `MOVHA` (R199). -/
def execMovha (d : SReg) (a : AReg) (s : State) : Result := s.retireS d (((s.th.ra a).extractLsb' 64 16).setWidth 64)

/-- `AIDX` (R200). -/
def execAidx (d a : AReg) (b : SReg) (s : State) : Result := s.retireA 4 d (indexed (s.th.ra a) (s.th.rs b))

/-- `SLTA` (R199). -/
def execSlta (d : SReg) (a b : AReg) (s : State) : Result := s.retireS d (bit ((s.th.ra a).ult (s.th.ra b)))

/-- `ADDAI`, short form (R199). -/
def execAddai (d a : AReg) (imm : BitVec 15) (s : State) : Result := s.retireA 4 d (addrPlus (s.th.ra a) imm.toInt)

/-- `ADDAI`, long form (R199). -/
def execAddaiLong (d a : AReg) (ext : BitVec 32) (s : State) : Result := s.retireA 8 d (addrPlus (s.th.ra a) ext.toInt)

end Sys2Proof.Machine
end

