-- ==== Sys2Proof/Machine/Scheduling.lean ====
section
/-!
DEFINITION. The dispatchers: tasks taken by threads (02 R35–R39, R48, R50; 08 R166; 12 R250), quanta (R40),
pre-emption and restores (19 R348, R351, R352), forced cancellation and the watchdog (02 R43, R45).
-/
namespace Sys2Proof.Machine

/-! ### Ready work -/

/-- A task that could take a thread: queued, or parked in a `TJOIN` whose children have all ended. -/
def dispatchable (s : State) (t : Task) : Bool :=
  match t.state with
  | .ready => true
  | .parked _ => (range t.joined (t.spawned - t.joined)).all fun i => (outcomeOf s t.id t i).isSome
  | _ => false

def launchPrio (s : State) (l : Launch) : Nat := (s.slot l.slot).prio

/-- Priority of a task. -/
def taskPrio (s : State) (t : Task) : Nat := match s.launches.find? t.launch with | some l => launchPrio s l | none => 0

/-- The tasks that could take a thread of a unit. -/
def unitWork (s : State) (tile : Bool) (u : Nat) : List Task :=
  (s.tasks.map (·.2)).filter fun t => t.unit == u && taskTile s t == tile && dispatchable s t

/-- Whether a saved context could be restored on a unit (19 R351): a lane context on the cluster's lane cores, a pair's on its
tile, where the window files are large enough. -/
def imageUnit (s : State) (im : Image) (tile : Bool) (u : Nat) : Bool :=
  unitCluster tile u == im.cluster && tile == decide (roleOf im.tid ≤ 1) &&
    if tile then u % 6 == tileOf im.tid % 6 && im.demand ≤ wcap s (u * 24) else im.demand ≤ wcap s (u * 4)

def imagePrio (s : State) (im : Image) : Nat := match im.task.bind s.tasks.find? with | some t => taskPrio s t | none => 0

/-- One more than the highest priority of the work that is ready for a unit (02 R39): tasks that could take a thread of it, and
saved contexts that could be restored there; 0 where there is none. -/
def waiting (s : State) (tile : Bool) (u : Nat) : Nat :=
  ((unitWork s tile u).map (taskPrio s) ++ (s.images.filter fun x => imageUnit s x.2 tile u).map fun x => imagePrio s x.2).foldl
    (fun n p => max n (p + 1)) 0

/-- A thread no context holds: the accesses of a handler that ran on it are performed. -/
def freeThread (s : State) (tid : Nat) : Bool :=
  let t := s.thread tid
  t.task.isNone && !t.sup.act && !t.halted && t.owed.isEmpty

/-- Whether a tile has a pair (02 R48): an active one, or one of which a context is on a thread of cores 0 and 1 or is being restored
there. -/
def tileTaken (s : State) (n : Nat) : Bool :=
  (s.tile n).pair.isSome || (range (n * 24) 8).any fun x => (s.thread x).task.isSome || ((s.thread x).sup.act && (s.thread x).sup.why == 3)

/-- The lowest free thread of a core; for a tile, the lowest number free on cores 0 and 1 while no pair is active. -/
def unitThread (s : State) (tile : Bool) (u : Nat) : Option Nat :=
  if tile then
    if tileTaken s u then none
    else ((range 0 4).find? fun n => freeThread s (u * 24 + n) && freeThread s (u * 24 + 4 + n)).map (u * 24 + ·)
  else ((range 0 4).map (u * 4 + ·)).find? (freeThread s)

/-- The matrix state as a pair's task begins (12 R250, 02 R50). -/
def beginPair (x : Tile) (k j : Nat) : Tile :=
  { x with fmt := [], cfg := 0, sems := Vector.replicate 8 0, pair := some k, lastJob := some j
           acc := x.acc.map fun a => (a.1, { a.2 with paired := false }), shadow := [] }

/-- A queued task starts on a thread, or a pair on both its threads (08 R166): its first instruction comes after an acquire of
module scope (06 R124). -/
def startTask (s : State) (l : Launch) (t : Task) (tid : Nat) : State :=
  let tids := if l.tile then [tid, tid + 4] else [tid]
  let s := takeDesc s t
  let s := tids.foldl (fun s x => s.updThread x fun th => th.start t.id t.entry l.header t.args) s
  let s := letIn (s.updTask t.id fun t => { t with state := .running, threads := tids }) (taskCluster s t)
  let s := tids.foldl (fun s x => acquire s x .module) s
  if l.tile then s.updTile (tileOf tid) fun x => beginPair x t.id l.slot else s

/-- A parked task resumes at its `TJOIN` (02 R35), after an acquire of cluster scope (06 R124). -/
def resumeTask (s : State) (l : Launch) (t : Task) (p : Parked) (tid : Nat) : State :=
  let back := fun (s : State) (old new : Nat) (c : Thread) =>
    moveContext (s.updThread new fun th => { c with sup := th.sup, halted := th.halted }) t.id old new
  let s := back s p.tid tid p.th
  let s := match p.other with | some o => back s (p.tid + 4) (tid + 4) o | none => s
  let s := s.updTask t.id fun t => { t with state := .running, threads := if p.other.isSome then [tid, tid + 4] else [tid] }
  let s := (if p.other.isSome then [tid, tid + 4] else [tid]).foldl (fun s x => acquire s x .cluster) s
  match p.tile with
  | some st => s.updTile (tileOf tid) fun x => loadTile x st t.id l.slot
  | none => s

/-- `TASK_DISPATCH` (02 R35–R39): task a takes a free thread of its unit: no work of a higher priority is ready for the unit,
and no task was queued before it at its own. A parked task and a queued one of one priority come in either order (log
entry 109). -/
def execTaskDispatch (s : State) : Result :=
  match s.tasks.find? s.ev.a with
  | none => .next s
  | some t =>
    match s.launches.find? t.launch with
    | none => .next s
    | some l =>
      let behind := waiting s l.tile t.unit > launchPrio s l + 1 || (unitWork s l.tile t.unit).any fun o =>
        taskPrio s o == launchPrio s l && isReady o && isReady t && o.id < t.id
      match t.state, unitThread s l.tile t.unit with
      | .ready, some tid => .next (if behind then s else startTask s l t tid)
      | .parked p, some tid => .next (if behind || !dispatchable s t then s else resumeTask s l t p tid)
      | _, _ => .next s

/-! ### Switching, pre-emption, restores -/

/-- `QUANTUM_EXPIRY` (02 R40): core a takes its next ready thread, if another is ready. -/
def execQuantumExpiry (s : State) : Result :=
  let n := (s.core s.ev.a).running % 4
  .next (s.updCore s.ev.a fun k => { k with running := nextThread s s.ev.a n })

/-- The unit a thread's core belongs to: its tile for cores 0 and 1, else the core. -/
def threadUnit (tid : Nat) : Bool × Nat := if roleOf tid ≤ 1 then (true, tileOf tid) else (false, coreOf tid)

/-- One more than the highest priority that asks for a thread's unit and finds no free thread there. -/
def asking (s : State) (tid : Nat) : Nat :=
  let u := threadUnit tid
  if (unitThread s u.1 u.2).isSome then 0 else waiting s u.1 u.2

/-- One more than the priority a thread serves: of its task, or of a higher request already made of it. -/
def serving (s : State) (tid : Nat) : Nat :=
  let t := s.thread tid
  max t.sup.req (match taskOf s tid with | some k => taskPrio s k + 1 | none => 0)

/-- One thread is pre-empted, or latches the request while a handler runs on it (R348, R352). -/
def preemptThread (s : State) (tid : Nat) : State :=
  let n := asking s tid
  if (s.thread tid).halted then s
  else if (s.thread tid).sup.act then
    s.updThread tid fun t => { t with sup := { t.sup with lat := true, req := n } }
  else
    let s := s.updThread tid Thread.endHold
    let t := s.thread tid
    (supervisorEntry s tid 1 0 t.pc 0).updThread tid fun t => { t with sup := { t.sup with req := n } }

/-- `PREEMPTION` (02 R39, 19 R348): higher-priority work that needs the unit of thread a pre-empts it, a pair on both
threads. -/
def execPreemption (s : State) : Result :=
  let tid := s.ev.a
  if asking s tid > serving s tid ∧ ((s.thread tid).task.isSome ∨ (s.thread tid).sup.act) then
    let tids := match taskOf s tid with | some t => t.threads | none => [tid]
    .next ((tids.filter fun x => asking s x > serving s x).foldl preemptThread s)
  else .next s

/-- `SUPERVISOR_RESTORE_ENTRY` (19 R348, R351): the dispatcher offers image b to the free thread a, a striker's image
beside the stager's. -/
def execSupervisorRestoreEntry (s : State) : Result :=
  let tid := s.ev.a
  match s.images.find? s.ev.b with
  | none => .next s
  | some im =>
    let free := freeThread s tid && tilePresent s (tileOf tid) && im.cluster == clusterOf tid && im.demand ≤ wcap s tid
    let place :=
      if roleOf im.tid = 1 then roleOf tid == 1 && tileOf tid % 6 == tileOf im.tid % 6 && stagerReady s tid im.task
      else if roleOf im.tid = 0 then
        roleOf tid == 0 && tileOf tid % 6 == tileOf im.tid % 6 && !tileTaken s (tileOf tid) && freeThread s (tid + 4)
      else roleOf tid ≥ 2
    let held := (s.threads.any fun x => x.2.task.isSome && x.2.task == im.task && x.1 == im.tid)
    let n := match im.task.bind s.tasks.find? with | some t => taskPrio s t + 1 | none => 0
    let behind := waiting s (threadUnit tid).1 (threadUnit tid).2 > n
    if free && place && !held && !behind then
      let s := supervisorEntry s tid 3 0 (s.thread tid).pc 0
      .next (s.updThread tid fun t => { t with sup := { t.sup with ctxa := BitVec.ofNat 80 im.addr, req := n } })
    else .next s

/-! ### Forced cancellation and the watchdog -/

/-- `CANCEL_GRACE_EXPIRY` (02 R43, 19 R348): the grace period of task a has run out. Its threads enter the handler; a
saved context ends. -/
def execCancelGraceExpiry (s : State) : Result :=
  let k := s.ev.a
  if !s.grace.contains k then .next s
  else
    match s.tasks.find? k with
    | none => .next { s with grace := s.grace.filter (· != k) }
    | some t =>
      match t.state with
      | .saved => .next (endTask s k true 0)
      | .running =>
        let idle := t.threads.filter fun x => !(s.thread x).sup.act
        let s := if idle.length = t.threads.length then { s with grace := s.grace.filter (· != k) } else s
        .next (idle.foldl (fun s x =>
          let s := s.updThread x Thread.endHold
          supervisorEntry s x 2 0 (s.thread x).pc 0) s)
      | _ => .next { s with grace := s.grace.filter (· != k) }

/-- `WATCHDOG_EXPIRY` (02 R45): launch a made no progress for its watchdog period. -/
def execWatchdogExpiry (s : State) : Result :=
  match s.launches.find? s.ev.a with
  | some l => .next (if l.watchdog ≠ 0 ∧ l.state = .running ∧ l.cancel = false then cancelLaunch s false s.ev.a 0x13 else s)
  | none => .next s

end Sys2Proof.Machine
end

