-- ==== Sys2Proof/Machine/Vector.lean ====
section
/-!
DEFINITION. Vector instructions (11 R230–R247): lanes under masks, float lanes through `Num`, integer lanes modulo
their width.
-/
namespace Sys2Proof.Machine

/-! ### Lanes (R230, R231) -/

def laneW : LaneT → Nat
  | .f64 | .i64 => 64
  | .f32 | .i32 => 32
  | .f16 | .bf16 | .i16 => 16
def laneN (t : LaneT) : Nat := 512 / laneW t
def laneFmt : LaneT → Fmt
  | .f64 => fp64
  | .f32 => fp32
  | .f16 => fp16
  | .bf16 => bf16
  | .i64 | .i32 | .i16 => fp64
def floatLane : LaneT → Bool
  | .f64 | .f32 | .f16 | .bf16 => true
  | .i64 | .i32 | .i16 => false

/-- Lane i of a register seen as lanes of w bits. -/
def laneAt (v : Vec) (w i : Nat) : Nat := v.toNat / 2 ^ (w * i) % 2 ^ w

/-- The register whose lane i holds f i, for n lanes of w bits. -/
def ofLanes (w n : Nat) (f : Nat → Nat) : Vec :=
  BitVec.ofNat 512 ((range 0 n).foldr (fun i acc => acc * 2 ^ w + f i % 2 ^ w) 0)

/-- Whether lane i is active under a mask field (R231). -/
def active (t : Thread) (m : MReg) (i : Nat) : Bool := m == 0 || (t.rm m).getLsbD i

def activeLanes (t : Thread) (m : MReg) (n : Nat) : List Nat := (range 0 n).filter (active t m)

/-- A vector result by lanes: inactive lanes keep their old value. -/
def underMask (t : Thread) (ty : LaneT) (d : VReg) (m : MReg) (f : Nat → Nat) : Vec :=
  ofLanes (laneW ty) (laneN ty) fun i => if active t m i then f i else laneAt (t.rv d) (laneW ty) i

/-- A lane as a scalar result (R230): a float's bit pattern, an integer sign-extended. -/
def laneScalar (ty : LaneT) (x : Nat) : Word := if floatLane ty then BitVec.ofNat 64 x else sextWord x (laneW ty)

/-! ### Controls and flags (03 R73, R74) -/

def vctlRm (v : Word) : RMode :=
  match field v 8 2 with
  | 0 => .even
  | 1 => .zero
  | 2 => .up
  | _ => .down
def vctlDaz (v : Word) : Bool := v.getLsbD 11
def vctlFtz (v : Word) : Bool := v.getLsbD 10

/-- Ends a floating-point instruction (R74): an enabled flag traps and nothing changes; else the flags are added to
`VCTL` and the result is written. -/
def State.commit (s : State) (flags : Nat) (f : Thread → Thread) : Result :=
  let hit := flags &&& field s.th.vctl 16 5
  if hit ≠ 0 then s.trap { code := 0x0F, flags := hit }
  else s.retire 4 fun t => { f t with vctl := t.vctl ||| BitVec.ofNat 64 flags }

/-- An input lane: a subnormal reads as zero of its sign under `VCTL.daz`. -/
def readLane (ty : LaneT) (daz : Bool) (x : Nat) : Val :=
  let fm := laneFmt ty
  if daz && fm.subnormal x then .zero (fld x (laneW ty - 1) 1 == 1) else fm.decode x

/-- The bits of an input lane as an instruction that does not round returns them: canonical NaN, flushed input. -/
def pickLane (ty : LaneT) (daz : Bool) (x : Nat) : Nat :=
  let fm := laneFmt ty
  match fm.decode x with
  | .nan _ => fm.nanBits
  | _ => if daz && fm.subnormal x then fm.signBit (fld x (laneW ty - 1) 1 == 1) else x

/-- `nv` for a signalling NaN. -/
def snan (v : Val) : Nat := match v with | .nan true => flagNv | _ => 0

/-- Significand bits an operation on a lane rounds to first: BF16 is computed as FP32 (R72). -/
def laneP (ty : LaneT) : Nat := if ty = .bf16 then 24 else (laneFmt ty).p

/-- The one rounding of a lane operation (R71, R72). -/
def roundLane (ty : LaneT) (rm : RMode) (ftz : Bool) (r : Flagged) : Nat × Nat :=
  if ty = .bf16 then
    let a := fp32.finish rm false r.1
    let b := bf16.finish .even ftz (fp32.decode a.1)
    (b.1, r.2 ||| a.2 ||| b.2)
  else
    let a := (laneFmt ty).finish rm ftz r.1
    (a.1, r.2 ||| a.2)

/-- A float result by lanes, with the flags of the active lanes. -/
def State.floatLanes (s : State) (ty : LaneT) (d : VReg) (m : MReg) (f : Nat → Nat × Nat) : Result :=
  let t := s.th
  let rs := (range 0 (laneN ty)).map fun i => if active t m i then f i else (laneAt (t.rv d) (laneW ty) i, 0)
  s.commit (rs.foldl (fun a r => a ||| r.2) 0) fun t =>
    t.wv d (BitVec.ofNat 512 (rs.foldr (fun r acc => acc * 2 ^ laneW ty + r.1 % 2 ^ laneW ty) 0))

/-- A float operation on the lanes of two registers and the old destination. -/
def State.float3 (s : State) (ty : LaneT) (d a b : VReg) (m : MReg) (op : RMode → Val → Val → Val → Flagged) (third : Bool) : Result :=
  let t := s.th
  let rm := vctlRm t.vctl
  let daz := vctlDaz t.vctl
  s.floatLanes ty d m fun i =>
    let x := readLane ty daz (laneAt (t.rv a) (laneW ty) i)
    let y := readLane ty daz (laneAt (t.rv b) (laneW ty) i)
    let z := readLane ty daz (laneAt (t.rv d) (laneW ty) i)
    let r := roundLane ty rm (vctlFtz t.vctl) (op rm x y z)
    (r.1, r.2 ||| snan x ||| snan y ||| (if third then snan z else 0))

/-- A float operation on the lanes of one register. -/
def State.float1 (s : State) (ty : LaneT) (d a : VReg) (m : MReg) (op : Val → Flagged) : Result :=
  let t := s.th
  s.floatLanes ty d m fun i =>
    let x := readLane ty (vctlDaz t.vctl) (laneAt (t.rv a) (laneW ty) i)
    let r := roundLane ty (vctlRm t.vctl) (vctlFtz t.vctl) (op x)
    (r.1, r.2 ||| snan x)

/-- a × b + d with one rounding; the product's `nv` is raised whatever d is (R233). -/
def fmaVal (rm : RMode) (x y z : Val) : Flagged :=
  let p := mulVal x y
  let r := addVal rm p.1 z
  (r.1, p.2 ||| r.2)

/-- The lesser or greater of two lanes, −0 below +0: an input value, not rounded and so not flushed either
(R233; log entry 125). -/
def minMaxLane (ty : LaneT) (daz greater : Bool) (x y : Nat) : Nat × Nat :=
  let a := readLane ty daz x
  let b := readLane ty daz y
  let f := snan a ||| snan b
  match cmpTotal a b with
  | none => ((laneFmt ty).nanBits, f)
  | some c => (pickLane ty daz (if c = .gt then (if greater then x else y) else (if greater then y else x)), f)

/-! ### Float arithmetic -/

/-- `VFADD` (R233). -/
def execVfadd (ty : LaneT) (d a b : VReg) (m : MReg) (s : State) : Result := s.float3 ty d a b m (fun rm x y _ => addVal rm x y) false

/-- `VFSUB` (R233). -/
def execVfsub (ty : LaneT) (d a b : VReg) (m : MReg) (s : State) : Result := s.float3 ty d a b m (fun rm x y _ => addVal rm x y.neg) false

/-- `VFMUL` (R233). -/
def execVfmul (ty : LaneT) (d a b : VReg) (m : MReg) (s : State) : Result := s.float3 ty d a b m (fun _ x y _ => mulVal x y) false

/-- `VFMA` (R233). -/
def execVfma (ty : LaneT) (d a b : VReg) (m : MReg) (s : State) : Result := s.float3 ty d a b m (fmaVal) true

/-- `VFMS` (R233). -/
def execVfms (ty : LaneT) (d a b : VReg) (m : MReg) (s : State) : Result := s.float3 ty d a b m (fun rm x y z => fmaVal rm x y z.neg) true

/-- `VFNMA` (R233). -/
def execVfnma (ty : LaneT) (d a b : VReg) (m : MReg) (s : State) : Result := s.float3 ty d a b m (fun rm x y z => fmaVal rm x.neg y z) true

/-- `VFDIV` (R233). -/
def execVfdiv (ty : LaneT) (d a b : VReg) (m : MReg) (s : State) : Result := s.float3 ty d a b m (fun _ x y _ => divVal (laneP ty) x y) false

/-- `VFMIN` (R233). -/
def execVfmin (ty : LaneT) (d a b : VReg) (m : MReg) (s : State) : Result :=
  let t := s.th
  s.floatLanes ty d m fun i =>
    minMaxLane ty (vctlDaz t.vctl) false (laneAt (t.rv a) (laneW ty) i) (laneAt (t.rv b) (laneW ty) i)

/-- `VFMAX` (R233). -/
def execVfmax (ty : LaneT) (d a b : VReg) (m : MReg) (s : State) : Result :=
  let t := s.th
  s.floatLanes ty d m fun i =>
    minMaxLane ty (vctlDaz t.vctl) true (laneAt (t.rv a) (laneW ty) i) (laneAt (t.rv b) (laneW ty) i)

/-- `VFSQRT` (R234). -/
def execVfsqrt (ty : LaneT) (d a : VReg) (m : MReg) (s : State) : Result := s.float1 ty d a m (sqrtVal (laneP ty))

/-- `VFRCP` (R234). -/
def execVfrcp (ty : LaneT) (d a : VReg) (m : MReg) (s : State) : Result := s.float1 ty d a m (divVal (laneP ty) (.fin false 1 0 false))

/-- `VFRSQ` (R234). -/
def execVfrsq (ty : LaneT) (d a : VReg) (m : MReg) (s : State) : Result := s.float1 ty d a m (rsqrtVal (laneP ty))

/-- `VFEXP2` (R234). -/
def execVfexp2 (ty : LaneT) (d a : VReg) (m : MReg) (s : State) : Result := s.float1 ty d a m (exp2Val (laneP ty))

/-- `VFLOG2` (R234). -/
def execVflog2 (ty : LaneT) (d a : VReg) (m : MReg) (s : State) : Result := s.float1 ty d a m (log2Val (laneP ty))

/-- `VFTANH` (R234). -/
def execVftanh (ty : LaneT) (d a : VReg) (m : MReg) (s : State) : Result := s.float1 ty d a m (tanhVal (laneP ty))

/-- Lane bits moved by a function of their own: no rounding, no flag (R232). -/
def State.moveLanes (s : State) (ty : LaneT) (d : VReg) (m : MReg) (f : Nat → Nat) : Result :=
  s.retireV d (underMask s.th ty d m f)

/-- `VFABS` (R234): the sign bit becomes 0. -/
def execVfabs (ty : LaneT) (d a : VReg) (m : MReg) (s : State) : Result :=
  s.moveLanes ty d m fun i => laneAt (s.th.rv a) (laneW ty) i % 2 ^ (laneW ty - 1)

/-- `VFNEG` (R234): the sign bit inverts. -/
def execVfneg (ty : LaneT) (d a : VReg) (m : MReg) (s : State) : Result :=
  s.moveLanes ty d m fun i => laneAt (s.th.rv a) (laneW ty) i + 2 ^ (laneW ty - 1)

/-- The class bit of an encoding (R235), read as stored. -/
def classOf (fm : Fmt) (x : Nat) : Nat :=
  match fm.decode x with
  | .nan signalling => if signalling then 2 ^ 8 else 2 ^ 9
  | .inf s => if s then 1 else 2 ^ 7
  | .fin s m _ _ =>
    if m = 0 then (if s then 2 ^ 3 else 2 ^ 4)
    else if fm.subnormal x then (if s then 2 ^ 2 else 2 ^ 5)
    else (if s then 2 else 2 ^ 6)

/-- `VFCLASS` (R235). -/
def execVfclass (ty : LaneT) (d a : VReg) (m : MReg) (s : State) : Result :=
  s.moveLanes ty d m fun i => classOf (laneFmt ty) (laneAt (s.th.rv a) (laneW ty) i)

/-! ### Integer, logic and shift -/

/-- A signed lane operation: the result's low bits are the lane. -/
def State.intLanes (s : State) (ty : LaneT) (d a b : VReg) (m : MReg) (op : Int → Int → Int) : Result :=
  let w := laneW ty
  s.moveLanes ty d m fun i => (op (sextNat (laneAt (s.th.rv a) w i) w) (sextNat (laneAt (s.th.rv b) w i) w) % (2 ^ w : Nat)).toNat

/-- An unsigned lane operation. -/
def State.natLanes (s : State) (ty : LaneT) (d a b : VReg) (m : MReg) (op : Nat → Nat → Nat) : Result :=
  s.moveLanes ty d m fun i => op (laneAt (s.th.rv a) (laneW ty) i) (laneAt (s.th.rv b) (laneW ty) i)

/-- `VADD` (R236). -/
def execVadd (ty : LaneT) (d a b : VReg) (m : MReg) (s : State) : Result := s.intLanes ty d a b m (fun x y => x + y)

/-- `VSUB` (R236). -/
def execVsub (ty : LaneT) (d a b : VReg) (m : MReg) (s : State) : Result := s.intLanes ty d a b m (fun x y => x - y)

/-- `VMUL` (R236). -/
def execVmul (ty : LaneT) (d a b : VReg) (m : MReg) (s : State) : Result := s.intLanes ty d a b m (fun x y => x * y)

/-- `VMULH` (R236). -/
def execVmulh (ty : LaneT) (d a b : VReg) (m : MReg) (s : State) : Result := s.intLanes ty d a b m (fun x y => x * y / (2 ^ laneW ty : Nat))

/-- `VMIN` (R236). -/
def execVmin (ty : LaneT) (d a b : VReg) (m : MReg) (s : State) : Result := s.intLanes ty d a b m (fun x y => if x < y then x else y)

/-- `VMAX` (R236). -/
def execVmax (ty : LaneT) (d a b : VReg) (m : MReg) (s : State) : Result := s.intLanes ty d a b m (fun x y => if x < y then y else x)

/-- `VSADD` (R236). -/
def execVsadd (ty : LaneT) (d a b : VReg) (m : MReg) (s : State) : Result := s.intLanes ty d a b m (fun x y => satS (x + y) (laneW ty))

/-- `VSSUB` (R236). -/
def execVssub (ty : LaneT) (d a b : VReg) (m : MReg) (s : State) : Result := s.intLanes ty d a b m (fun x y => satS (x - y) (laneW ty))

/-- `VABS` (R236): the most negative value stays (03 R75). -/
def execVabs (ty : LaneT) (d a : VReg) (m : MReg) (s : State) : Result := s.intLanes ty d a a m fun x _ => if x < 0 then -x else x

/-- `VAND` (R237). -/
def execVand (ty : LaneT) (d a b : VReg) (m : MReg) (s : State) : Result := s.natLanes ty d a b m (fun x y => x &&& y)

/-- `VOR` (R237). -/
def execVor (ty : LaneT) (d a b : VReg) (m : MReg) (s : State) : Result := s.natLanes ty d a b m (fun x y => x ||| y)

/-- `VXOR` (R237). -/
def execVxor (ty : LaneT) (d a b : VReg) (m : MReg) (s : State) : Result := s.natLanes ty d a b m (fun x y => x ^^^ y)

/-- `VSHL` (R237). -/
def execVshl (ty : LaneT) (d a b : VReg) (m : MReg) (s : State) : Result := s.natLanes ty d a b m (fun x y => x * 2 ^ (y % laneW ty))

/-- `VSHR` (R237). -/
def execVshr (ty : LaneT) (d a b : VReg) (m : MReg) (s : State) : Result := s.natLanes ty d a b m (fun x y => x / 2 ^ (y % laneW ty))

/-- `VNOT` (R237). -/
def execVnot (ty : LaneT) (d a : VReg) (m : MReg) (s : State) : Result := s.natLanes ty d a a m fun x _ => 2 ^ laneW ty - 1 - x

/-- `VSAR` (R237). -/
def execVsar (ty : LaneT) (d a b : VReg) (m : MReg) (s : State) : Result :=
  let w := laneW ty
  s.natLanes ty d a b m fun x y => (sextNat x w / (2 ^ (y % w) : Nat) % (2 ^ w : Nat)).toNat

/-! ### Compares, selection and masks -/

/-- The mask with bit i set where lane i of n has the result; inactive lanes keep their bit, bits above are zero. -/
def maskResult (t : Thread) (d m : MReg) (n : Nat) (f : Nat → Bool) : Mask :=
  BitVec.ofNat 32 ((range 0 n).foldr (fun i acc =>
    acc * 2 + (if (if active t m i then f i else (t.rm d).getLsbD i) then 1 else 0)) 0)

/-- A float compare (R238): `nv` on any NaN for an ordered one, on a signalling NaN otherwise. -/
def State.floatCmp (s : State) (ty : LaneT) (d : MReg) (a b : VReg) (m : MReg) (ordered : Bool) (p : Option Ordering → Bool) : Result :=
  let t := s.th
  let x := fun i => readLane ty (vctlDaz t.vctl) (laneAt (t.rv a) (laneW ty) i)
  let y := fun i => readLane ty (vctlDaz t.vctl) (laneAt (t.rv b) (laneW ty) i)
  let flags := (activeLanes t m (laneN ty)).foldl (fun f i =>
    f ||| snan (x i) ||| snan (y i) ||| (if ordered && (cmpVal (x i) (y i)).isNone then flagNv else 0)) 0
  s.commit flags fun t => t.wm d (maskResult t d m (laneN ty) fun i => p (cmpVal (x i) (y i)))

/-- `VFCMP_EQ` (R238). -/
def execVfcmpEq (ty : LaneT) (d : MReg) (a b : VReg) (m : MReg) (s : State) : Result := s.floatCmp ty d a b m false (fun c => c == some .eq)

/-- `VFCMP.LT` (R238). -/
def execVfcmpLt (ty : LaneT) (d : MReg) (a b : VReg) (m : MReg) (s : State) : Result := s.floatCmp ty d a b m true (fun c => c == some .lt)

/-- `VFCMP.LE` (R238). -/
def execVfcmpLe (ty : LaneT) (d : MReg) (a b : VReg) (m : MReg) (s : State) : Result := s.floatCmp ty d a b m true (fun c => c == some .lt || c == some .eq)

/-- `VFCMP.UN` (R238). -/
def execVfcmpUn (ty : LaneT) (d : MReg) (a b : VReg) (m : MReg) (s : State) : Result := s.floatCmp ty d a b m false (fun c => c.isNone)

/-- An integer compare (R238). -/
def State.intCmp (s : State) (ty : LaneT) (d : MReg) (a b : VReg) (m : MReg) (p : Nat → Nat → Bool) : Result :=
  s.retireM d (maskResult s.th d m (laneN ty) fun i => p (laneAt (s.th.rv a) (laneW ty) i) (laneAt (s.th.rv b) (laneW ty) i))

/-- `VCMP.EQ` (R238). -/
def execVcmpEq (ty : LaneT) (d : MReg) (a b : VReg) (m : MReg) (s : State) : Result := s.intCmp ty d a b m (fun x y => x == y)

/-- `VCMP.LT` (R238). -/
def execVcmpLt (ty : LaneT) (d : MReg) (a b : VReg) (m : MReg) (s : State) : Result := s.intCmp ty d a b m (fun x y => sextNat x (laneW ty) < sextNat y (laneW ty))

/-- `VCMP.LE` (R238). -/
def execVcmpLe (ty : LaneT) (d : MReg) (a b : VReg) (m : MReg) (s : State) : Result := s.intCmp ty d a b m (fun x y => sextNat x (laneW ty) ≤ sextNat y (laneW ty))

/-- `VCMP.LTU` (R238). -/
def execVcmpLtu (ty : LaneT) (d : MReg) (a b : VReg) (m : MReg) (s : State) : Result := s.intCmp ty d a b m (fun x y => x < y)

/-- `VCMP.LEU` (R238). -/
def execVcmpLeu (ty : LaneT) (d : MReg) (a b : VReg) (m : MReg) (s : State) : Result := s.intCmp ty d a b m (fun x y => x ≤ y)

/-- `VSEL` (R239): every lane is written. -/
def execVsel (ty : LaneT) (d a b : VReg) (m : MReg) (s : State) : Result :=
  let w := laneW ty
  s.retireV d (ofLanes w (laneN ty) fun i =>
    if (s.th.rm m).getLsbD i then laneAt (s.th.rv a) w i else laneAt (s.th.rv b) w i)

/-- `MAND` (R239). -/
def execMand (d a b : MReg) (s : State) : Result := s.retireM d (s.th.rm a &&& s.th.rm b)

/-- `MOR` (R239). -/
def execMor (d a b : MReg) (s : State) : Result := s.retireM d (s.th.rm a ||| s.th.rm b)

/-- `MNOT` (R239). -/
def execMnot (d a : MReg) (s : State) : Result := s.retireM d (~~~ s.th.rm a)

/-- `MPOPC` (R239). -/
def execMpopc (d : SReg) (a : MReg) (s : State) : Result := s.retireS d (BitVec.ofNat 64 (popNat 32 (s.th.rm a).toNat))

/-! ### Movement -/

/-- `VBCAST` (R240). -/
def execVbcast (ty : LaneT) (d : VReg) (a : SReg) (m : MReg) (s : State) : Result :=
  s.moveLanes ty d m fun _ => (s.th.rs a).toNat

/-- `VMOVS` (R240). -/
def execVmovs (ty : LaneT) (d : SReg) (a : VReg) (b : SReg) (s : State) : Result :=
  s.retireS d (laneScalar ty (laneAt (s.th.rv a) (laneW ty) ((s.th.rs b).toNat % laneN ty)))

/-- `VINS` (R240): every other lane stays. -/
def execVins (ty : LaneT) (d : VReg) (a b : SReg) (s : State) : Result :=
  s.retireV d (setLane (s.th.rv d) (laneW ty) ((s.th.rs b).toNat % laneN ty) (s.th.rs a).toNat)

/-- `VPERM` (R240). -/
def execVperm (ty : LaneT) (d a b : VReg) (m : MReg) (s : State) : Result :=
  let w := laneW ty
  s.moveLanes ty d m fun i => laneAt (s.th.rv a) w (laneAt (s.th.rv b) w i % laneN ty)

/-- `VSLIDE` (R240). -/
def execVslide (ty : LaneT) (d a : VReg) (b : SReg) (m : MReg) (s : State) : Result :=
  s.moveLanes ty d m fun i =>
    let j := (i : Int) + (s.th.rs b).toInt
    if 0 ≤ j ∧ j < laneN ty then laneAt (s.th.rv a) (laneW ty) j.toNat else 0

/-- `VIOTA` (R240): a count converts exactly to a float type. -/
def execViota (ty : LaneT) (d : VReg) (m : MReg) (s : State) : Result :=
  s.moveLanes ty d m fun i =>
    let n := ((range 0 i).filter (active s.th m)).length
    if floatLane ty then (laneFmt ty).encode false n 0 else n

/-! ### Reductions -/

/-- An integer reduction (R241). -/
def State.intReduce (s : State) (ty : LaneT) (d : SReg) (a : VReg) (m : MReg) (empty : Int) (op : Int → Int → Int) : Result :=
  let w := laneW ty
  let xs := (activeLanes s.th m (laneN ty)).map fun i => sextNat (laneAt (s.th.rv a) w i) w
  let r : Int := match xs with
    | [] => empty
    | x :: rest => rest.foldl op x
  s.retireS d (sextWord (r % (2 ^ w : Nat)).toNat w)

/-- A float reduction (R241): the accumulator is a lane's bits, combined with one lane after another. -/
def State.floatReduce (s : State) (ty : LaneT) (d : SReg) (a : VReg) (m : MReg) (empty : Nat)
    (op : Nat → Nat → Nat × Nat) : Result :=
  let t := s.th
  let xs := (activeLanes t m (laneN ty)).map fun i => laneAt (t.rv a) (laneW ty) i
  let r : Nat × Nat := match xs with
    | [] => (empty, 0)
    | x :: rest => rest.foldl (fun acc y => let r := op acc.1 y; (r.1, acc.2 ||| r.2))
        (pickLane ty (vctlDaz t.vctl) x, snan ((laneFmt ty).decode x))
  s.commit r.2 fun t => t.ws d (BitVec.ofNat 64 r.1)

/-- One addition of a float reduction (R241): the lane is read under `VCTL.daz`, the accumulator as it stands, and each sum is flushed under
`VCTL.ftz` (DESIGN CHOICE: log entry 141). -/
def addLanes (v : Word) (ty : LaneT) (acc y : Nat) : Nat × Nat :=
  let b := readLane ty (vctlDaz v) y
  let r := roundLane ty (vctlRm v) (vctlFtz v) (addVal (vctlRm v) ((laneFmt ty).decode acc) b)
  (r.1, r.2 ||| snan b)

/-- One step of a float minimum or maximum. -/
def pickLanes (v : Word) (ty : LaneT) (greater : Bool) (acc y : Nat) : Nat × Nat :=
  let y' := pickLane ty (vctlDaz v) y
  let r := minMaxLane ty false greater acc y'
  (r.1, r.2 ||| snan ((laneFmt ty).decode y))

/-- `VREDADD` (R241). -/
def execVredadd (ty : LaneT) (d : SReg) (a : VReg) (m : MReg) (s : State) : Result :=
  if floatLane ty then s.floatReduce ty d a m 0 (addLanes s.th.vctl ty) else s.intReduce ty d a m 0 fun x y => x + y

/-- `VREDMAX` (R241). -/
def execVredmax (ty : LaneT) (d : SReg) (a : VReg) (m : MReg) (s : State) : Result :=
  if floatLane ty then s.floatReduce ty d a m ((laneFmt ty).infBits true) (pickLanes s.th.vctl ty true)
  else s.intReduce ty d a m (-(2 ^ (laneW ty - 1) : Nat)) fun x y => if x < y then y else x

/-- `VREDMIN` (R241). -/
def execVredmin (ty : LaneT) (d : SReg) (a : VReg) (m : MReg) (s : State) : Result :=
  if floatLane ty then s.floatReduce ty d a m ((laneFmt ty).infBits false) (pickLanes s.th.vctl ty false)
  else s.intReduce ty d a m ((2 ^ (laneW ty - 1) : Nat) - 1) fun x y => if x < y then x else y

/-- The value a lane compares by in an indexed reduction (R242). -/
def indexVal (v : Word) (ty : LaneT) (x : Nat) : Val :=
  if floatLane ty then readLane ty (vctlDaz v) x else .ofInt (sextNat x (laneW ty))

/-- The index an indexed reduction chooses (R242). -/
def bestLane (greater : Bool) (xs : List (Nat × Val)) : Word :=
  match List.find? (fun x => match x.2 with | .nan _ => true | _ => false) xs with
  | some x => BitVec.ofNat 64 x.1
  | none =>
    match xs with
    | [] => BitVec.allOnes 64
    | x :: rest => BitVec.ofNat 64 (rest.foldl (fun b y =>
        if cmpTotal y.2 b.2 = some (if greater then .gt else .lt) then y else b) x).1

/-- An indexed reduction (R242). -/
def State.indexReduce (s : State) (ty : LaneT) (d : SReg) (a : VReg) (m : MReg) (greater : Bool) : Result :=
  let t := s.th
  let xs := (activeLanes t m (laneN ty)).map fun i => (i, indexVal t.vctl ty (laneAt (t.rv a) (laneW ty) i))
  s.commit (xs.foldl (fun f x => f ||| snan x.2) 0) fun t => t.ws d (bestLane greater xs)

/-- `VREDMAXI` (R242). -/
def execVredmaxi (ty : LaneT) (d : SReg) (a : VReg) (m : MReg) (s : State) : Result := s.indexReduce ty d a m true

/-- `VREDMINI` (R242). -/
def execVredmini (ty : LaneT) (d : SReg) (a : VReg) (m : MReg) (s : State) : Result := s.indexReduce ty d a m false

/-! ### Conversions -/

/-- The mode of a conversion into a type: BF16 always rounds to nearest even (R72). -/
def convRm (v : Word) (ty : LaneT) : RMode := if ty = .bf16 then .even else vctlRm v

/-- A finite float to a signed integer of w bits (R244): flags `nx`, or `nv` where it saturates. -/
def toSigned (w : Nat) (rm : RMode) (v : Val) : Int × Nat :=
  match v with
  | .nan _ => (0, flagNv)
  | .inf s => (if s then -(2 ^ (w - 1) : Nat) else (2 ^ (w - 1) : Nat) - 1, flagNv)
  | .fin s m e k =>
    if (Nat.log2 m : Int) + e > 70 then (if s then -(2 ^ (w - 1) : Nat) else (2 ^ (w - 1) : Nat) - 1, flagNv)
    else
      let r := roundAt s m e k 0 rm
      let x : Int := if s then -(r.1 : Int) else r.1
      if satS x w = x then (x, if r.2 then flagNx else 0) else (satS x w, flagNv)

/-- Converts one lane (R244). Under `VCTL.ftz` a subnormal result is flushed where it is exact too (DESIGN CHOICE: log entry 141). -/
def convLane (v : Word) (dst src : LaneT) (x : Nat) : Nat × Nat :=
  let w := laneW dst
  if floatLane src then
    let a := readLane src (vctlDaz v) x
    if floatLane dst then
      let r := (laneFmt dst).finish (convRm v dst) (vctlFtz v) a
      (r.1, r.2 ||| snan a)
    else
      let r := toSigned w (vctlRm v) a
      ((r.1 % (2 ^ w : Nat)).toNat, r.2)
  else
    let n := sextNat x (laneW src)
    if floatLane dst then (laneFmt dst).finish (convRm v dst) (vctlFtz v) (.ofInt n)
    else ((satS n w % (2 ^ w : Nat)).toNat, 0)

/-- A conversion of the first n lanes; the others keep their values (R243). -/
def State.convert (s : State) (dst src : LaneT) (d a : VReg) (m : MReg) (n : Nat) : Result :=
  let t := s.th
  s.floatLanes dst d m fun i =>
    if i < n then convLane t.vctl dst src (laneAt (t.rv a) (laneW src) i) else (laneAt (t.rv d) (laneW dst) i, 0)

/-- `VCVT` (R243). -/
def execVcvt (ty src : LaneT) (d a : VReg) (m : MReg) (s : State) : Result := s.convert ty src d a m (laneN ty)

/-- `VPACK` (R243). -/
def execVpack (ty src : LaneT) (d a : VReg) (m : MReg) (s : State) : Result := s.convert ty src d a m (laneN src)

/-- `VUNPACK` (R243). -/
def execVunpack (ty src : LaneT) (d a : VReg) (m : MReg) (s : State) : Result := s.convert ty src d a m (laneN ty)

/-! ### Gather and scatter -/

/-- The address of a lane of a gather or scatter (R245). -/
def laneAddr (t : Thread) (ty : LaneT) (a : AReg) (b : VReg) (i : Nat) : Addr :=
  addrPlus (t.ra a) (sextNat (laneAt (t.rv b) (laneW ty) i) (laneW ty) * (laneW ty / 8 : Nat))

/-- Checks the active lanes in ascending order: the first failing one is reported with its index (R246, R247). -/
def checkLanes (f : Nat → Except Trap Elem) : List Nat → Except Trap (List Elem)
  | [] => .ok []
  | i :: r =>
    match f i with
    | .error t => .error { t with detail := i }
    | .ok e =>
      match checkLanes f r with
      | .error t => .error t
      | .ok es => .ok ({ e with lane := i } :: es)

/-- `VGATHER` (R246). -/
def execVgather (ty : LaneT) (d : VReg) (a : AReg) (b : VReg) (m : MReg) (s : State) : Result :=
  let t := s.th
  let n := laneW ty / 8
  s.checked (checkLanes (fun i => loadAt s (laneAddr t ty a b i) n n) (activeLanes t m (laneN ty))) fun es =>
    if es.isEmpty then s.skip 4 else s.load (.lanes d (laneW ty)) .weak (t.ra a) es

/-- `VSCATTER` (R247): the elements are written in ascending lane order. -/
def execVscatter (ty : LaneT) (d : VReg) (a : AReg) (b : VReg) (m : MReg) (s : State) : Result :=
  let t := s.th
  let n := laneW ty / 8
  s.checked (checkLanes (fun i => storeAt s (laneAddr t ty a b i) n n) (activeLanes t m (laneN ty))) fun es =>
    s.weakStore (es.map fun e => { e with bytes := bytesOfNat n (laneAt (t.rv d) (laneW ty) e.lane) })

end Sys2Proof.Machine
end

