-- ==== Sys2Proof/Machine/Dispatch.lean ====
section
/-!
DEFINITION. The dispatch of every row of the opcode table to its meaning.
-/
namespace Sys2Proof.Machine

def exec (i : Instr) (s : State) : Host.Outcome State Fault Refusal :=
  match i with
  | .iflush a d => Sys2Proof.Machine.execIflush a d s
  | .tlbi a d => Sys2Proof.Machine.execTlbi a d s
  | .trap code => Sys2Proof.Machine.execTrap code s
  | .ctlr d idx => Sys2Proof.Machine.execCtlr d idx s
  | .ctlw idx a => Sys2Proof.Machine.execCtlw idx a s
  | .add d a b => Sys2Proof.Machine.execAdd d a b s
  | .sub d a b => Sys2Proof.Machine.execSub d a b s
  | .and d a b => Sys2Proof.Machine.execAnd d a b s
  | .or d a b => Sys2Proof.Machine.execOr d a b s
  | .xor d a b => Sys2Proof.Machine.execXor d a b s
  | .andn d a b => Sys2Proof.Machine.execAndn d a b s
  | .shl d a b => Sys2Proof.Machine.execShl d a b s
  | .shr d a b => Sys2Proof.Machine.execShr d a b s
  | .sar d a b => Sys2Proof.Machine.execSar d a b s
  | .mul d a b => Sys2Proof.Machine.execMul d a b s
  | .mulh d a b => Sys2Proof.Machine.execMulh d a b s
  | .mulhu d a b => Sys2Proof.Machine.execMulhu d a b s
  | .div d a b => Sys2Proof.Machine.execDiv d a b s
  | .divu d a b => Sys2Proof.Machine.execDivu d a b s
  | .rem d a b => Sys2Proof.Machine.execRem d a b s
  | .remu d a b => Sys2Proof.Machine.execRemu d a b s
  | .min d a b => Sys2Proof.Machine.execMin d a b s
  | .max d a b => Sys2Proof.Machine.execMax d a b s
  | .minu d a b => Sys2Proof.Machine.execMinu d a b s
  | .maxu d a b => Sys2Proof.Machine.execMaxu d a b s
  | .seq d a b => Sys2Proof.Machine.execSeq d a b s
  | .sne d a b => Sys2Proof.Machine.execSne d a b s
  | .slt d a b => Sys2Proof.Machine.execSlt d a b s
  | .sltu d a b => Sys2Proof.Machine.execSltu d a b s
  | .clz d a => Sys2Proof.Machine.execClz d a s
  | .ctz d a => Sys2Proof.Machine.execCtz d a s
  | .popc d a => Sys2Proof.Machine.execPopc d a s
  | .brev d a => Sys2Proof.Machine.execBrev d a s
  | .bswap d a => Sys2Proof.Machine.execBswap d a s
  | .sext d a b => Sys2Proof.Machine.execSext d a b s
  | .zext d a b => Sys2Proof.Machine.execZext d a b s
  | .cmov d a b => Sys2Proof.Machine.execCmov d a b s
  | .addi d a imm => Sys2Proof.Machine.execAddi d a imm s
  | .andi d a imm => Sys2Proof.Machine.execAndi d a imm s
  | .ori d a imm => Sys2Proof.Machine.execOri d a imm s
  | .xori d a imm => Sys2Proof.Machine.execXori d a imm s
  | .shli d a n => Sys2Proof.Machine.execShli d a n s
  | .shri d a n => Sys2Proof.Machine.execShri d a n s
  | .sari d a n => Sys2Proof.Machine.execSari d a n s
  | .slti d a imm => Sys2Proof.Machine.execSlti d a imm s
  | .sltiu d a imm => Sys2Proof.Machine.execSltiu d a imm s
  | .movi d imm => Sys2Proof.Machine.execMovi d imm s
  | .moviLong d ext => Sys2Proof.Machine.execMoviLong d ext s
  | .movhi d ext => Sys2Proof.Machine.execMovhi d ext s
  | .adrpc d imm => Sys2Proof.Machine.execAdrpc d imm s
  | .adrpcLong d ext => Sys2Proof.Machine.execAdrpcLong d ext s
  | .adda d a b => Sys2Proof.Machine.execAdda d a b s
  | .suba d a b => Sys2Proof.Machine.execSuba d a b s
  | .movas d a => Sys2Proof.Machine.execMovas d a s
  | .movsa d a => Sys2Proof.Machine.execMovsa d a s
  | .movah d a => Sys2Proof.Machine.execMovah d a s
  | .movha d a => Sys2Proof.Machine.execMovha d a s
  | .aidx d a b => Sys2Proof.Machine.execAidx d a b s
  | .slta d a b => Sys2Proof.Machine.execSlta d a b s
  | .addai d a imm => Sys2Proof.Machine.execAddai d a imm s
  | .addaiLong d a ext => Sys2Proof.Machine.execAddaiLong d a ext s
  | .beq a b off => Sys2Proof.Machine.execBeq a b off s
  | .bne a b off => Sys2Proof.Machine.execBne a b off s
  | .blt a b off => Sys2Proof.Machine.execBlt a b off s
  | .bge a b off => Sys2Proof.Machine.execBge a b off s
  | .bltu a b off => Sys2Proof.Machine.execBltu a b off s
  | .bgeu a b off => Sys2Proof.Machine.execBgeu a b off s
  | .jmp off => Sys2Proof.Machine.execJmp off s
  | .call off => Sys2Proof.Machine.execCall off s
  | .jr a => Sys2Proof.Machine.execJr a s
  | .callr a => Sys2Proof.Machine.execCallr a s
  | .loop a len => Sys2Proof.Machine.execLoop a len s
  | .loopi c len => Sys2Proof.Machine.execLoopi c len s
  | .realign limit => Sys2Proof.Machine.execRealign limit s
  | .ld k o d a off => Sys2Proof.Machine.execLd k o d a off s
  | .st k o d a off => Sys2Proof.Machine.execSt k o d a off s
  | .ldv k o d a off => Sys2Proof.Machine.execLdv k o d a off s
  | .stv k o d a off => Sys2Proof.Machine.execStv k o d a off s
  | .pull k o d a off => Sys2Proof.Machine.execPull k o d a off s
  | .pullv o d a off => Sys2Proof.Machine.execPullv o d a off s
  | .pref hint a off => Sys2Proof.Machine.execPref hint a off s
  | .amoadd wide o d a b => Sys2Proof.Machine.execAmoadd wide o d a b s
  | .amoand wide o d a b => Sys2Proof.Machine.execAmoand wide o d a b s
  | .amoor wide o d a b => Sys2Proof.Machine.execAmoor wide o d a b s
  | .amoxor wide o d a b => Sys2Proof.Machine.execAmoxor wide o d a b s
  | .amomin wide o d a b => Sys2Proof.Machine.execAmomin wide o d a b s
  | .amomax wide o d a b => Sys2Proof.Machine.execAmomax wide o d a b s
  | .amominu wide o d a b => Sys2Proof.Machine.execAmominu wide o d a b s
  | .amomaxu wide o d a b => Sys2Proof.Machine.execAmomaxu wide o d a b s
  | .amoswap wide o d a b => Sys2Proof.Machine.execAmoswap wide o d a b s
  | .amocas wide o d a b => Sys2Proof.Machine.execAmocas wide o d a b s
  | .fence k sc => Sys2Proof.Machine.execFence k sc s
  | .seqadvMax sc d a b => Sys2Proof.Machine.execSeqadvMax sc d a b s
  | .seqadvAdd sc d a b => Sys2Proof.Machine.execSeqadvAdd sc d a b s
  | .watch sc slot a b => Sys2Proof.Machine.execWatch sc slot a b s
  | .waitw d slot => Sys2Proof.Machine.execWaitw d slot s
  | .waita ge acq d a b => Sys2Proof.Machine.execWaita ge acq d a b s
  | .waitc ldl stl cpl mxl => Sys2Proof.Machine.execWaitc ldl stl cpl mxl s
  | .barinit d a b => Sys2Proof.Machine.execBarinit d a b s
  | .barwait a b => Sys2Proof.Machine.execBarwait a b s
  | .baradd a b => Sys2Proof.Machine.execBaradd a b s
  | .keygive a b => Sys2Proof.Machine.execKeygive a b s
  | .keytake d a => Sys2Proof.Machine.execKeytake d a s
  | .keyqry d a => Sys2Proof.Machine.execKeyqry d a s
  | .stashcfg d a => Sys2Proof.Machine.execStashcfg d a s
  | .vfadd t d a b m => Sys2Proof.Machine.execVfadd t d a b m s
  | .vfsub t d a b m => Sys2Proof.Machine.execVfsub t d a b m s
  | .vfmul t d a b m => Sys2Proof.Machine.execVfmul t d a b m s
  | .vfma t d a b m => Sys2Proof.Machine.execVfma t d a b m s
  | .vfms t d a b m => Sys2Proof.Machine.execVfms t d a b m s
  | .vfnma t d a b m => Sys2Proof.Machine.execVfnma t d a b m s
  | .vfdiv t d a b m => Sys2Proof.Machine.execVfdiv t d a b m s
  | .vfmin t d a b m => Sys2Proof.Machine.execVfmin t d a b m s
  | .vfmax t d a b m => Sys2Proof.Machine.execVfmax t d a b m s
  | .vfsqrt t d a m => Sys2Proof.Machine.execVfsqrt t d a m s
  | .vfrcp t d a m => Sys2Proof.Machine.execVfrcp t d a m s
  | .vfrsq t d a m => Sys2Proof.Machine.execVfrsq t d a m s
  | .vfabs t d a m => Sys2Proof.Machine.execVfabs t d a m s
  | .vfneg t d a m => Sys2Proof.Machine.execVfneg t d a m s
  | .vfexp2 t d a m => Sys2Proof.Machine.execVfexp2 t d a m s
  | .vflog2 t d a m => Sys2Proof.Machine.execVflog2 t d a m s
  | .vftanh t d a m => Sys2Proof.Machine.execVftanh t d a m s
  | .vfclass t d a m => Sys2Proof.Machine.execVfclass t d a m s
  | .vadd t d a b m => Sys2Proof.Machine.execVadd t d a b m s
  | .vsub t d a b m => Sys2Proof.Machine.execVsub t d a b m s
  | .vmul t d a b m => Sys2Proof.Machine.execVmul t d a b m s
  | .vmulh t d a b m => Sys2Proof.Machine.execVmulh t d a b m s
  | .vmin t d a b m => Sys2Proof.Machine.execVmin t d a b m s
  | .vmax t d a b m => Sys2Proof.Machine.execVmax t d a b m s
  | .vabs t d a m => Sys2Proof.Machine.execVabs t d a m s
  | .vsadd t d a b m => Sys2Proof.Machine.execVsadd t d a b m s
  | .vssub t d a b m => Sys2Proof.Machine.execVssub t d a b m s
  | .vand t d a b m => Sys2Proof.Machine.execVand t d a b m s
  | .vor t d a b m => Sys2Proof.Machine.execVor t d a b m s
  | .vxor t d a b m => Sys2Proof.Machine.execVxor t d a b m s
  | .vnot t d a m => Sys2Proof.Machine.execVnot t d a m s
  | .vshl t d a b m => Sys2Proof.Machine.execVshl t d a b m s
  | .vshr t d a b m => Sys2Proof.Machine.execVshr t d a b m s
  | .vsar t d a b m => Sys2Proof.Machine.execVsar t d a b m s
  | .vfcmpEq t d a b m => Sys2Proof.Machine.execVfcmpEq t d a b m s
  | .vfcmpLt t d a b m => Sys2Proof.Machine.execVfcmpLt t d a b m s
  | .vfcmpLe t d a b m => Sys2Proof.Machine.execVfcmpLe t d a b m s
  | .vfcmpUn t d a b m => Sys2Proof.Machine.execVfcmpUn t d a b m s
  | .vcmpEq t d a b m => Sys2Proof.Machine.execVcmpEq t d a b m s
  | .vcmpLt t d a b m => Sys2Proof.Machine.execVcmpLt t d a b m s
  | .vcmpLe t d a b m => Sys2Proof.Machine.execVcmpLe t d a b m s
  | .vcmpLtu t d a b m => Sys2Proof.Machine.execVcmpLtu t d a b m s
  | .vcmpLeu t d a b m => Sys2Proof.Machine.execVcmpLeu t d a b m s
  | .vsel t d a b m => Sys2Proof.Machine.execVsel t d a b m s
  | .mand d a b => Sys2Proof.Machine.execMand d a b s
  | .mor d a b => Sys2Proof.Machine.execMor d a b s
  | .mnot d a => Sys2Proof.Machine.execMnot d a s
  | .mpopc d a => Sys2Proof.Machine.execMpopc d a s
  | .vbcast t d a m => Sys2Proof.Machine.execVbcast t d a m s
  | .vmovs t d a b => Sys2Proof.Machine.execVmovs t d a b s
  | .vins t d a b => Sys2Proof.Machine.execVins t d a b s
  | .vperm t d a b m => Sys2Proof.Machine.execVperm t d a b m s
  | .vslide t d a b m => Sys2Proof.Machine.execVslide t d a b m s
  | .viota t d m => Sys2Proof.Machine.execViota t d m s
  | .vredadd t d a m => Sys2Proof.Machine.execVredadd t d a m s
  | .vredmax t d a m => Sys2Proof.Machine.execVredmax t d a m s
  | .vredmin t d a m => Sys2Proof.Machine.execVredmin t d a m s
  | .vredmaxi t d a m => Sys2Proof.Machine.execVredmaxi t d a m s
  | .vredmini t d a m => Sys2Proof.Machine.execVredmini t d a m s
  | .vcvt t src d a m => Sys2Proof.Machine.execVcvt t src d a m s
  | .vpack t src d a m => Sys2Proof.Machine.execVpack t src d a m s
  | .vunpack t src d a m => Sys2Proof.Machine.execVunpack t src d a m s
  | .vgather t d a b m => Sys2Proof.Machine.execVgather t d a b m s
  | .vscatter t d a b m => Sys2Proof.Machine.execVscatter t d a b m s
  | .mma acc ba bb sk so => Sys2Proof.Machine.execMma acc ba bb sk so s
  | .mzero acc => Sys2Proof.Machine.execMzero acc s
  | .mdrain d acc bank so => Sys2Proof.Machine.execMdrain d acc bank so s
  | .mload acc bank so => Sys2Proof.Machine.execMload acc bank so s
  | .semsig n => Sys2Proof.Machine.execSemsig n s
  | .semwait n => Sys2Proof.Machine.execSemwait n s
  | .mcfg a => Sys2Proof.Machine.execMcfg a s
  | .bfmt bank a => Sys2Proof.Machine.execBfmt bank a s
  | .bpull sv asrc adst asig acpl => Sys2Proof.Machine.execBpull sv asrc adst asig acpl s
  | .bpulla sv sx asrc asig acpl => Sys2Proof.Machine.execBpulla sv sx asrc asig acpl s
  | .bcopy sv asrc adst asig acpl => Sys2Proof.Machine.execBcopy sv asrc adst asig acpl s
  | .ecmd a => Sys2Proof.Machine.execEcmd a s
  | .mdec sp sl asrc adst asig acpl => Sys2Proof.Machine.execMdec sp sl asrc adst asig acpl s
  | .lodge sn sx asrc adst asig acpl => Sys2Proof.Machine.execLodge sn sx asrc adst asig acpl s
  | .msend d b => Sys2Proof.Machine.execMsend d b s
  | .msendPost d b => Sys2Proof.Machine.execMsendPost d b s
  | .msendRetry d => Sys2Proof.Machine.execMsendRetry d s
  | .mrecv d => Sys2Proof.Machine.execMrecv d s
  | .mrecvRep d => Sys2Proof.Machine.execMrecvRep d s
  | .mpeek d => Sys2Proof.Machine.execMpeek d s
  | .mpeekRep d => Sys2Proof.Machine.execMpeekRep d s
  | .mreply b => Sys2Proof.Machine.execMreply b s
  | .mbind d a => Sys2Proof.Machine.execMbind d a s
  | .coll a => Sys2Proof.Machine.execColl a s
  | .skinit a sg ss => Sys2Proof.Machine.execSkinit a sg ss s
  | .skinitTab a b sg => Sys2Proof.Machine.execSkinitTab a b sg s
  | .skupd f64 a sk sv => Sys2Proof.Machine.execSkupd f64 a sk sv s
  | .skupdV f64 a vk vv => Sys2Proof.Machine.execSkupdV f64 a vk vv s
  | .skqry d a sk => Sys2Proof.Machine.execSkqry d a sk s
  | .skadd a b => Sys2Proof.Machine.execSkadd a b s
  | .skscl a sf => Sys2Proof.Machine.execSkscl a sf s
  | .skclr a => Sys2Proof.Machine.execSkclr a s
  | .sksat d a => Sys2Proof.Machine.execSksat d a s
  | .sksatClr d a => Sys2Proof.Machine.execSksatClr d a s
  | .xadd d a b => Sys2Proof.Machine.execXadd d a b s
  | .xsub d a b => Sys2Proof.Machine.execXsub d a b s
  | .xmul d a b => Sys2Proof.Machine.execXmul d a b s
  | .xfma d a b => Sys2Proof.Machine.execXfma d a b s
  | .xdiv d a b => Sys2Proof.Machine.execXdiv d a b s
  | .xsqrt d a => Sys2Proof.Machine.execXsqrt d a s
  | .xrnd d a => Sys2Proof.Machine.execXrnd d a s
  | .xneg d a => Sys2Proof.Machine.execXneg d a s
  | .xabs d a => Sys2Proof.Machine.execXabs d a s
  | .xmov d a => Sys2Proof.Machine.execXmov d a s
  | .xscale d a b => Sys2Proof.Machine.execXscale d a b s
  | .xexp d a => Sys2Proof.Machine.execXexp d a s
  | .xcmp d a b => Sys2Proof.Machine.execXcmp d a b s
  | .xlen d a => Sys2Proof.Machine.execXlen d a s
  | .xcvtWindowFromInt64 d a => Sys2Proof.Machine.execXcvtWindowFromInt64 d a s
  | .xcvtWindowFromFp64 d a => Sys2Proof.Machine.execXcvtWindowFromFp64 d a s
  | .xcvtWindowFromUint64 d a => Sys2Proof.Machine.execXcvtWindowFromUint64 d a s
  | .xcvtScalarToInt64 d a => Sys2Proof.Machine.execXcvtScalarToInt64 d a s
  | .xcvtScalarToFp64 d a => Sys2Proof.Machine.execXcvtScalarToFp64 d a s
  | .xcvtScalarToUint64 d a => Sys2Proof.Machine.execXcvtScalarToUint64 d a s
  | .xld o d a off => Sys2Proof.Machine.execXld o d a off s
  | .xst o d a off => Sys2Proof.Machine.execXst o d a off s
  | .xalloc d base n => Sys2Proof.Machine.execXalloc d base n s
  | .xfree d => Sys2Proof.Machine.execXfree d s
  | .xsetp a => Sys2Proof.Machine.execXsetp a s
  | .xgetp d => Sys2Proof.Machine.execXgetp d s
  | .tspawn d a b => Sys2Proof.Machine.execTspawn d a b s
  | .tjoin d a => Sys2Proof.Machine.execTjoin d a s
  | .texit b => Sys2Proof.Machine.execTexit b s
  | .tpath d a => Sys2Proof.Machine.execTpath d a s
  | .cores d a => Sys2Proof.Machine.execCores d a s
  | .tcancel d a b => Sys2Proof.Machine.execTcancel d a b s
  | .grun d a b => Sys2Proof.Machine.execGrun d a b s
  | .gcond a b => Sys2Proof.Machine.execGcond a b s
  | .gstat d a => Sys2Proof.Machine.execGstat d a s
  | .nop => Sys2Proof.Machine.execNop s
  | .idle => Sys2Proof.Machine.execIdle s
  | .bkpt => Sys2Proof.Machine.execBkpt s
  | .eret => Sys2Proof.Machine.execEret s
  | .halt => Sys2Proof.Machine.execHalt s
  | .ret => Sys2Proof.Machine.execRet s
  | .tyield => Sys2Proof.Machine.execTyield s
  | .ujidxDiscard => Sys2Proof.Machine.execUjidxDiscard s
  | .realignLimitExpiry => Sys2Proof.Machine.execRealignLimitExpiry s
  | .idleTimeout => Sys2Proof.Machine.execIdleTimeout s
  | .matrixCompletion => Sys2Proof.Machine.execMatrixCompletion s
  | .taskDispatch => Sys2Proof.Machine.execTaskDispatch s
  | .preemption => Sys2Proof.Machine.execPreemption s
  | .supervisorRestoreEntry => Sys2Proof.Machine.execSupervisorRestoreEntry s
  | .quantumExpiry => Sys2Proof.Machine.execQuantumExpiry s
  | .cancelGraceExpiry => Sys2Proof.Machine.execCancelGraceExpiry s
  | .watchdogExpiry => Sys2Proof.Machine.execWatchdogExpiry s
  | .asyncTrapEntry => Sys2Proof.Machine.execAsyncTrapEntry s
  | .queueLaunchEntry => Sys2Proof.Machine.execQueueLaunchEntry s
  | .queueGraphEntry => Sys2Proof.Machine.execQueueGraphEntry s
  | .queuePhaseBoundary => Sys2Proof.Machine.execQueuePhaseBoundary s
  | .graphLaunchNode => Sys2Proof.Machine.execGraphLaunchNode s
  | .graphEngineJobNode => Sys2Proof.Machine.execGraphEngineJobNode s
  | .graphConditionalNode => Sys2Proof.Machine.execGraphConditionalNode s
  | .graphWhileNode => Sys2Proof.Machine.execGraphWhileNode s
  | .graphSignalNode => Sys2Proof.Machine.execGraphSignalNode s
  | .lineRead => Sys2Proof.Machine.execLineRead s
  | .lineReply => Sys2Proof.Machine.execLineReply s
  | .loadCompletion => Sys2Proof.Machine.execLoadCompletion s
  | .keyholeRead => Sys2Proof.Machine.execKeyholeRead s
  | .watchRequest => Sys2Proof.Machine.execWatchRequest s
  | .watchAnswer => Sys2Proof.Machine.execWatchAnswer s
  | .storePerformed => Sys2Proof.Machine.execStorePerformed s
  | .atomicPerformed => Sys2Proof.Machine.execAtomicPerformed s
  | .l1WriteThrough => Sys2Proof.Machine.execL1WriteThrough s
  | .stashEviction => Sys2Proof.Machine.execStashEviction s
  | .messageRequest => Sys2Proof.Machine.execMessageRequest s
  | .messageReply => Sys2Proof.Machine.execMessageReply s
  | .postedAcceptance => Sys2Proof.Machine.execPostedAcceptance s
  | .postedRefusal => Sys2Proof.Machine.execPostedRefusal s
  | .sendQueueAcceptance => Sys2Proof.Machine.execSendQueueAcceptance s
  | .engineJobStart => Sys2Proof.Machine.execEngineJobStart s
  | .enginePayloadPart => Sys2Proof.Machine.execEnginePayloadPart s
  | .engineJobCompletion => Sys2Proof.Machine.execEngineJobCompletion s
  | .collectiveStep => Sys2Proof.Machine.execCollectiveStep s
  | .collectiveCompletion => Sys2Proof.Machine.execCollectiveCompletion s
  | .mediaFrame => Sys2Proof.Machine.execMediaFrame s
  | .lodgingCopyCompletion => Sys2Proof.Machine.execLodgingCopyCompletion s
  | .powerUp => Sys2Proof.Machine.execPowerUp s
  | .mreset => Sys2Proof.Machine.execMreset s
  | .cxlHotReset => Sys2Proof.Machine.execCxlHotReset s
  | .cxlLinkDown => Sys2Proof.Machine.execCxlLinkDown s
  | .fwgo => Sys2Proof.Machine.execFwgo s
  | .firmwareVerificationDone => Sys2Proof.Machine.execFirmwareVerificationDone s
  | .bar2HostRead => Sys2Proof.Machine.execBar2HostRead s
  | .bar2HostWrite => Sys2Proof.Machine.execBar2HostWrite s
  | .keyhand => Sys2Proof.Machine.execKeyhand s
  | .jobctlEnable => Sys2Proof.Machine.execJobctlEnable s
  | .jobctlEnd => Sys2Proof.Machine.execJobctlEnd s
  | .jobctlCancel => Sys2Proof.Machine.execJobctlCancel s
  | .glcmdLoad => Sys2Proof.Machine.execGlcmdLoad s
  | .glcmdUnload => Sys2Proof.Machine.execGlcmdUnload s
  | .graphLoaderCompletion => Sys2Proof.Machine.execGraphLoaderCompletion s
  | .qtailWrite => Sys2Proof.Machine.execQtailWrite s
  | .qctlCancel => Sys2Proof.Machine.execQctlCancel s
  | .qctlClearError => Sys2Proof.Machine.execQctlClearError s
  | .queueSwitchOut => Sys2Proof.Machine.execQueueSwitchOut s
  | .queueSwitchOutDone => Sys2Proof.Machine.execQueueSwitchOutDone s
  | .queueSwitchIn => Sys2Proof.Machine.execQueueSwitchIn s
  | .queueSwitchInDone => Sys2Proof.Machine.execQueueSwitchInDone s
  | .powerStateEntry => Sys2Proof.Machine.execPowerStateEntry s
  | .powerWake => Sys2Proof.Machine.execPowerWake s
  | .powerWindow => Sys2Proof.Machine.execPowerWindow s
  | .thermalLimit => Sys2Proof.Machine.execThermalLimit s
  | .tokenBucketRefill => Sys2Proof.Machine.execTokenBucketRefill s
  | .htlbcmd => Sys2Proof.Machine.execHtlbcmd s
  | .tlbInvalidationDone => Sys2Proof.Machine.execTlbInvalidationDone s
  | .sropCommit => Sys2Proof.Machine.execSropCommit s
  | .sropCommitDone => Sys2Proof.Machine.execSropCommitDone s
  | .skopWrite => Sys2Proof.Machine.execSkopWrite s
  | .skopRead => Sys2Proof.Machine.execSkopRead s
  | .skopFree => Sys2Proof.Machine.execSkopFree s
  | .sctxSave => Sys2Proof.Machine.execSctxSave s
  | .sctxRestore => Sys2Proof.Machine.execSctxRestore s
  | .sprotWrite => Sys2Proof.Machine.execSprotWrite s
  | .nlctlTrain => Sys2Proof.Machine.execNlctlTrain s
  | .nlctlDown => Sys2Proof.Machine.execNlctlDown s
  | .nlctlClearFailed => Sys2Proof.Machine.execNlctlClearFailed s
  | .narlorPortUp => Sys2Proof.Machine.execNarlorPortUp s
  | .dataFlit => Sys2Proof.Machine.execDataFlit s
  | .idleFlit => Sys2Proof.Machine.execIdleFlit s
  | .retryRequest => Sys2Proof.Machine.execRetryRequest s
  | .narlorPortFailure => Sys2Proof.Machine.execNarlorPortFailure s
  | .neqpopCreate => Sys2Proof.Machine.execNeqpopCreate s
  | .neqpopForceError => Sys2Proof.Machine.execNeqpopForceError s
  | .neqpopDestroy => Sys2Proof.Machine.execNeqpopDestroy s
  | .nergopRegister => Sys2Proof.Machine.execNergopRegister s
  | .nergopDeregister => Sys2Proof.Machine.execNergopDeregister s
  | .deregistrationDone => Sys2Proof.Machine.execDeregistrationDone s
  | .workDeposit => Sys2Proof.Machine.execWorkDeposit s
  | .workRead => Sys2Proof.Machine.execWorkRead s
  | .depositData => Sys2Proof.Machine.execDepositData s
  | .depositLast => Sys2Proof.Machine.execDepositLast s
  | .readRequest => Sys2Proof.Machine.execReadRequest s
  | .readData => Sys2Proof.Machine.execReadData s
  | .ack => Sys2Proof.Machine.execAck s
  | .nak => Sys2Proof.Machine.execNak s
  | .retransmitTimeout => Sys2Proof.Machine.execRetransmitTimeout s
  | .depositAbandonTimeout => Sys2Proof.Machine.execDepositAbandonTimeout s
  | .lockInterfaceRequest => Sys2Proof.Machine.execLockInterfaceRequest s
  | .startInterfaceRequest => Sys2Proof.Machine.execStartInterfaceRequest s
  | .stopInterfaceRequest => Sys2Proof.Machine.execStopInterfaceRequest s
  | .getDeviceInterfaceReport => Sys2Proof.Machine.execGetDeviceInterfaceReport s
  | .ideStreamFailure => Sys2Proof.Machine.execIdeStreamFailure s
  | .ideKm => Sys2Proof.Machine.execIdeKm s
  | .getVersion => Sys2Proof.Machine.execGetVersion s
  | .getCapabilities => Sys2Proof.Machine.execGetCapabilities s
  | .negotiateAlgorithms => Sys2Proof.Machine.execNegotiateAlgorithms s
  | .getDigests => Sys2Proof.Machine.execGetDigests s
  | .getCertificate => Sys2Proof.Machine.execGetCertificate s
  | .challenge => Sys2Proof.Machine.execChallenge s
  | .getMeasurements => Sys2Proof.Machine.execGetMeasurements s
  | .keyExchange => Sys2Proof.Machine.execKeyExchange s
  | .finish => Sys2Proof.Machine.execFinish s
  | .endSession => Sys2Proof.Machine.execEndSession s
  | .preset => Sys2Proof.Machine.execPreset s
  | .mfence => Sys2Proof.Machine.execMfence s
  | .fencemWrite => Sys2Proof.Machine.execFencemWrite s
  | .remapWindow => Sys2Proof.Machine.execRemapWindow s
  | .patrolScrub => Sys2Proof.Machine.execPatrolScrub s
  | .uncorrectableError => Sys2Proof.Machine.execUncorrectableError s
  | .tsnap => Sys2Proof.Machine.execTsnap s
  | .registerWrite => Sys2Proof.Machine.execRegisterWrite s
  | .illegalInstruction => Sys2Proof.Machine.execIllegalInstruction s
  | .fetchTranslation => Sys2Proof.Machine.execFetchTranslation s
  | .firmwareFailure => Sys2Proof.Machine.execFirmwareFailure s
  | .keyholePortUp => Sys2Proof.Machine.execKeyholePortUp s
  | .keyholePortDown => Sys2Proof.Machine.execKeyholePortDown s

end Sys2Proof.Machine
end

