-- ==== Sys2Proof/Machine/Progress.lean ====
section
/-!
DEFINITION. Progress where the moves to come are used up: the events the module owes by itself once an instruction waits, in
a fixed order. The order is the model's (log entry 5); every event it takes is one that may happen then.
-/
namespace Sys2Proof.Machine

abbrev Owed := Instr × EvArgs

/-- The requests and answers in flight over the networks. -/
def owedFlights (s : State) : List Owed :=
  let each := fun (n : Nat) (i : Instr) (flag : Bool) => (range 0 n).map fun k => ((i, { a := k, flag := flag }) : Owed)
  (s.keyholeIn.map fun p => ((.keyholeRead, { a := p.1 }) : Owed)) ++ each s.watchReqs.length .watchRequest false ++ each s.watchAnss.length .watchAnswer false ++
    each s.requests.length .messageRequest false ++ each s.replies.length .messageReply false ++
    each s.accepts.length .postedAcceptance false ++ each s.refusals.length .postedRefusal false ++
    (range 0 s.ingress.length).flatMap fun k =>
      [Instr.lineRead, .lineReply, .watchRequest, .watchAnswer, .messageRequest, .messageReply, .postedAcceptance, .postedRefusal].map fun i =>
        ((i, { a := k, flag := true }) : Owed)

/-- The outstanding operations of every thread. -/
def owedOuts (s : State) : List Owed :=
  s.threads.flatMap fun t =>
    (t.2.outs.flatMap fun o =>
      (o.elems.zipIdx.flatMap fun e =>
        let x : EvArgs := { a := t.1, b := o.serial, c := e.2 }
        match o.kind with
        | .load _ _ _ => [(Instr.loadCompletion, x), (.lineRead, x), (.lineReply, x)]
        | .amo _ _ _ _ _ => [(.atomicPerformed, x)]
        | _ => [(.storePerformed, x)]) ++
      (if o.elems.isEmpty then [(Instr.storePerformed, { a := t.1, b := o.serial })] else [])) ++
    (if t.2.sq.isEmpty then [] else [(Instr.sendQueueAcceptance, { a := t.1 })]) ++
    (if t.2.sup.rbusy then [(Instr.sropCommitDone, { a := t.1 })] else [])

/-- The jobs of every cluster's engines. -/
def owedJobs (s : State) : List Owed :=
  s.clusters.flatMap fun c => c.2.jobs.flatMap fun j =>
    let x : EvArgs := { a := c.1, b := j.id }
    match j.kind with
    | .coll _ _ => [(Instr.engineJobStart, x), (.collectiveStep, x), (.collectiveCompletion, x)]
    | .lodgeCopy _ _ => [(.lodgingCopyCompletion, x)]
    | _ => [(.engineJobStart, x), (.mediaFrame, x), (.engineJobCompletion, x)]

/-- Matrix instructions, dispatch, queues, graphs, loaders. -/
def owedWork (s : State) : List Owed :=
  (s.tiles.map fun t => ((Instr.matrixCompletion, { a := t.1 }) : Owed)) ++
    (s.tasks.map fun t => (Instr.taskDispatch, { a := t.1 })) ++
    (s.queues.flatMap fun q =>
      [(Instr.queueLaunchEntry, { a := q.1 }), (.queueGraphEntry, { a := q.1 }), (.queuePhaseBoundary, { a := q.1 }),
        (.queueSwitchOutDone, { a := q.1 }), (.queueSwitchInDone, { a := q.1 }), (.queueSwitchIn, { a := q.1 })]) ++
    (s.graphs.flatMap fun g => match g.2.run with
      | none => []
      | some r => r.due.flatMap fun n =>
          [Instr.graphLaunchNode, .graphEngineJobNode, .graphConditionalNode, .graphWhileNode, .graphSignalNode].map fun i =>
            ((i, { a := g.1, b := n }) : Owed)) ++
    ([0, 1].map fun d => (Instr.graphLoaderCompletion, { a := d }))

/-- Supervisor, host and network work. -/
def owedRest (s : State) : List Owed :=
  ((range 0 s.invalidations.length).map fun k => ((Instr.tlbInvalidationDone, { a := k }) : Owed)) ++
    ((range 0 16).flatMap fun j => match (s.slot j).ending with
      | none => []
      | some .error => [(Instr.ideStreamFailure, { a := j })]
      | some .off => [(.jobctlEnd, { a := j, flag := true })]
      | some .stop => [(.stopInterfaceRequest, { a := j })]
      | some .reset => [(.preset, { a := j, flag := true })]) ++
    ((range 0 s.regs.keyhands.length).map fun k => (Instr.keyhand, { a := k, flag := true })) ++
    (if s.regs.fwbusy then [(Instr.firmwareVerificationDone, { a := 0 })] else []) ++
    (s.net.qps.flatMap fun q => [(Instr.workDeposit, { a := q.1 }), (.workRead, { a := q.1 })]) ++
    (s.net.regions.filterMap fun r => if r.2.closing then some (Instr.deregistrationDone, { a := r.1 }) else none)

/-- Waits that end with time: images to restore, `IDLE`, `REALIGN`, grace periods, token buckets. -/
def owedTime (s : State) : List Owed :=
  (s.images.flatMap fun im => (range (im.2.cluster * 144) 144).map fun t => ((Instr.supervisorRestoreEntry, { a := t, b := im.1 }) : Owed)) ++
    (s.threads.flatMap fun t => match t.2.hold with
      | some .idle => [(Instr.idleTimeout, { a := t.1 })]
      | some .realign => [(.realignLimitExpiry, { a := t.1 })]
      | _ => []) ++
    (s.grace.map fun k => (Instr.cancelGraceExpiry, { a := k })) ++
    (s.clusters.flatMap fun c => c.2.jobs.flatMap fun j => match j.kind with
      | .coll _ _ => [(Instr.tokenBucketRefill, { a := j.slot, b := c.1, c := 1 }), (.tokenBucketRefill, { a := j.slot, b := c.1, c := 1, flag := true })]
      | _ => [])

def owedEvents (s : State) : List Owed := owedFlights s ++ owedOuts s ++ owedJobs s ++ owedWork s ++ owedRest s ++ owedTime s

/-- The first event of a list that changes the state, performed. -/
def firstOwed (s : State) : List Owed → Option State
  | [] => none
  | (i, x) :: rest =>
    let u : State := { s with ev := x }
    match exec i u with
    | .next t => if t = u then firstOwed s rest else some t
    | _ => firstOwed s rest

/-- What the module does by itself while an instruction waits. -/
def progress (s : State) : Option State := firstOwed s (owedEvents s)

/-! ### Which core issues -/

/-- The cores that have a thread with something to run, ascending. -/
def busyCores (s : State) : List Nat := ((s.threads.filter fun t => runnable t.2).map fun t => coreOf t.1).eraseDups

/-- The next core to issue: the first busy one after the current one, in turn. -/
def nextCore (s : State) : Nat :=
  let cs := busyCores s
  match cs.find? (fun n => s.cur < n) with
  | some n => n
  | none => cs.headD s.cur

/-- The issue passes to the next core. -/
def rotate (s : State) : State := { s with cur := nextCore s, stalled := false }

/-- The issuing core's running thread has nothing to run: another of its threads does, or another core issues. -/
def passIssue (s : State) : State :=
  if (range 0 4).any fun k => runnable (s.thread (s.cur * 4 + k)) then switch s else { rotate s with stalled := true }

end Sys2Proof.Machine
end

