-- ==== Sys2Proof/Machine/Issue.lean ====
section
/-!
DEFINITION. The issue of the current thread's instruction (02 R40; 08 R184, R187; 10 R210; 21 R379).
-/
namespace Sys2Proof.Machine

/-- Whether a pending asynchronous cause is taken before the next instruction (08 R187). -/
def takesPending (t : Thread) : Bool := !t.sup.act && (nextPending t).isSome

/-- A fetch or an operand that is poisoned, before the instruction executes (21 R379). -/
def State.poisonTrap (s : State) (fva : Addr) : Result := .next (takeTrap s s.tid { code := 0x16, fva := fva } true s.th.pc)

/-- Whether an instruction took an exact trap: a handler has begun, or the thread is halted by a trap inside one (08 R185, R186; 19 R347,
R348). A write of `UTVEC` begins none. -/
def tookTrap (s : State) (i : Instr) (t : State) : Bool :=
  let x := s.th
  let y := t.thread s.tid
  let writes := match i with | .ctlw n (.a _) => n == 0x020 | _ => false
  (!x.sup.act && y.sup.act) || (!x.halted && y.halted) || (!writes && !x.utvec.getLsbD 1 && y.utvec.getLsbD 1)

/-- Whether an instruction ended its task without completing: at a cancellation point (02 R43). -/
def cutShort (s : State) (i : Instr) (t : State) : Bool :=
  s.th.task.isSome && (t.thread s.tid).task.isNone && match i with | .texit _ | .halt | .sctxRestore => false | _ => true

/-- Whether an instruction completed: it does not wait, took no trap, and was not cut short. -/
def completed (s : State) (i : Instr) (t : State) : Bool := !t.stalled && !tookTrap s i t && !cutShort s i t

/-- An instruction that completes counts as retired (21 R382). -/
def countRetired (s : State) (i : Instr) (r : Result) : Result :=
  match r with
  | .next t => if completed s i t then .next (t.count (16 * (s.cur / 36) + 1) 1) else .next t
  | x => x

/-- The wait that another instruction at this place had begun is dropped (09 R207, 06 R134). -/
def dropHold (s : State) (i : Instr) : State :=
  if s.th.hold.isSome && !holdsOn i then s.upd fun t => { t with hold := none } else s

/-- A decoded instruction issues: not before the registers it names are written, not with an operand word an error has
struck. -/
def issueInstr (s : State) (i : Instr) : Result :=
  if waitsFor s i then (dropHold s i).stall
  else if readsBad s.th i then s.poisonTrap 0
  else countRetired s i (exec i s)

/-- Fetches and issues the current thread's instruction. -/
def issueFetched (s : State) : Result :=
  match fetchInstr s with
  | .instr i => issueInstr s i
  | .illegal => exec .illegalInstruction s
  | .fault _ => exec .fetchTranslation s
  | .poison va => s.poisonTrap va
  | .miss l => .next (s.fetchMiss l)
  | .away e => s.fetchAway e

/-- One issue of the current thread: a pending asynchronous cause first. -/
def issue (s : State) : Result :=
  if runnable s.th then
    if takesPending s.th then exec .asyncTrapEntry { s with ev := { a := s.tid } } else issueFetched s
  else .next (passIssue s)

/-- One move to come: an event with its arguments, or the core that issues from now on. -/
def takeMove (s : State) (m : Move) : Result :=
  match m with
  | .core n => .next { s with cur := if n < Config.cores then n else s.cur, stalled := false }
  | .event i x => if encode i = [] then exec i { s with ev := x, stalled := false } else .next s

end Sys2Proof.Machine
end

