-- ==== Sys2Proof/Machine/Place.lean ====
section
/-!
DEFINITION. How a program comes to run (log entry 9): the state in which a task of a running module has a given
instruction at its PC, as the host, the driver and the dispatcher leave it.
-/
namespace Sys2Proof.Machine

/-- Where the placed program and its page tables lie, in the HBM of cluster 0: code at 0, the five tables from 0x10000 on. -/
def placedRoot : Nat := 0x10000

/-- A pointer entry to a table, and the leaf that maps the first 8 GiB to themselves: readable, writable, executable. -/
def placedTables (s : State) : List (Nat × Nat) :=
  [(0x10000, s.gpa 0x18000 + 1), (0x18000, s.gpa 0x20000 + 1), (0x20000, s.gpa 0x28000 + 1), (0x28000, s.gpa 0 + 0x3B)]

/-- Memory below 0x40000 as the program needs it: nothing else cached, poisoned or zeroised there. -/
def clearPlace (s : State) : State :=
  { (s.updCluster 0 fun cl => { cl with stashLines := cl.stashLines.filter fun l => !(l.1 < 0x1000) }) with
    poison := s.poison.filter fun w => 0x40000 ≤ w * 8
    stale := Assoc.drop s.stale 0 }

/-- The launch, task and thread that run the program: a lane kernel on package core 2 with every limb it may name. -/
def placedLaunch (s : State) : Launch :=
  { handle := s.nextHandle, slot := 0, tile := false, windows := 256, split := [1, 1, 1, 1], watchdog := 0, spillCap := 0, header := 0
    mask := 1, id := 0, root := s.nextTask, count := 1 }

def placedTask (s : State) : Task :=
  { id := s.nextTask, launch := s.nextHandle, parent := none, path := [], entry := 0, args := 0, state := .running, unit := 2, canon := 2
    threads := [8] }

/-- The bytes of an instruction's words with a word of zeros after them. -/
def placedBytes (nbits w : Nat) : List Byte := bytesOfWord (w % 2 ^ nbits) ++ bytesOfWord (w % 2 ^ nbits / 2 ^ 32)

/-- A port that owes the far end no flit. -/
def Port.quiet (x : Port) : Port := { x with wantRetry := false, owesAck := false, reqFreed := 0, repFreed := 0 }

/-- A running module whose current thread has the instruction at its PC, and nothing before it. -/
def placeProgram (s : State) (nbits w : Nat) : State :=
  let s := clearPlace s
  let mem := (placedTables s).foldl (fun m e => memPuts m e.1 (bytesOfNat 8 e.2)) (memPuts s.mem 0 (placedBytes nbits w))
  let s := { s with mem := mem, inputs := [], egress := [], ports := s.ports.map Port.quiet, keyPorts := s.keyPorts.map Port.quiet, keyholeSend := [], stalled := false, cur := 2, tlb := []
                    regs := { s.regs with mstate := 2 }
                    launches := s.launches.put s.nextHandle (placedLaunch s), nextHandle := s.nextHandle + 1
                    tasks := s.tasks.put s.nextTask (placedTask s), nextTask := s.nextTask + 1 }
  let s := s.updSlot 0 fun x => { x with en := true, tdi := .run, keysLive := true, asid := 0, ptb := placedRoot, part := 0 }
  let s := s.updCore 2 fun k => { k with running := 0 }
  let s := s.setThread 8 (Thread.start {} (s.nextTask - 1) 0 0 0)
  s.updTile 0 fun t => { t with icache := t.icache.put (s.gpa 0 / 64) (truthLine s 0) }

end Sys2Proof.Machine
end

