-- ==== Sys2Proof/Machine/Step.lean ====
section
/-!
DEFINITION. One step of the module, and the state in which a given instruction is the next that issues.
-/
namespace Sys2Proof.Machine

/-- One step. The fabric takes a packet that may leave; else the next move to come happens; else, after an instruction that
waits, an event the module owes, or another core's turn; else the current thread issues. -/
def step (s : State) : Host.Outcome State Fault Refusal :=
  if Config.cores ≤ s.cur then .fault .noSuchCore
  else
    match drainEgress s with
    | some t => .next t
    | none =>
      match s.inputs with
      | m :: rest => takeMove { s with inputs := rest } m
      | [] =>
        if s.stalled then
          match progress { s with stalled := false } with
          | some t => .next t
          | none => .next (rotate s)
        else issue s

/-- The state with an instruction at the PC of the thread that issues next. -/
def State.withFetchWord (s : State) (nbits w : Nat) : State := placeProgram s nbits w

end Sys2Proof.Machine
end

