-- ==== Sys2Proof/Safety.lean ====
section
/-!
DEFINITION. The terms the claims are stated in: what an instruction leaves as it was (its frame), the results the manual's
tables give, and the conditions under which an instruction executes normally.
-/
namespace Sys2Proof.Machine

/-! ### Frames -/

/-- Memory is in its canonical form. -/
def State.MemOk (s : State) : Prop := Memory.wf s.mem = true

/-- No byte of memory changes. -/
def SameBytes (s t : State) : Prop := ∀ a, t.byte a = s.byte a

/-- Nothing outside the issuing thread changes, no byte of memory among it. -/
def OnlyThread (s t : State) : Prop := t = s.setThread s.tid t.th ∧ SameBytes s t

/-- The issuing thread's PC and hardware loops are those after an instruction of `size` bytes that does not transfer (09 R205). -/
def Advances (s t : State) (size : Nat) : Prop :=
  t.th.pc = (s.th.next size).pc ∧ t.th.loop0 = (s.th.next size).loop0 ∧ t.th.loop1 = (s.th.next size).loop1

/-- A word written is no longer one an error has struck; no other mark changes (21 R379). -/
def ClearsMark (s t : State) (b : BadReg) : Prop := ∀ x, x ∈ t.th.bad ↔ x ∈ s.th.bad ∧ x ≠ b

/-- No word of a vector register written is one an error has struck; no other mark changes (21 R379). -/
def ClearsVec (s t : State) (d : VReg) : Prop := ∀ x, x ∈ t.th.bad ↔ x ∈ s.th.bad ∧ ∀ w, x ≠ .v d w

/-- The instruction writes scalar register d and nothing else but the PC and the loops: a write to `s0` is discarded (08 R165). -/
def WritesS (s t : State) (d : SReg) (x : Word) : Prop :=
  t.th.rs d = (if d = 0 then 0 else x) ∧ (∀ r, r ≠ d → t.th.rs r = s.th.rs r) ∧ (d ≠ 0 → ClearsMark s t (.s d)) ∧
    (d = 0 → t.th.bad = s.th.bad) ∧ OnlyThread s t ∧
    t.th = { s.th with pc := t.th.pc, loop0 := t.th.loop0, loop1 := t.th.loop1, s := t.th.s, bad := t.th.bad }

/-- The instruction writes address register d and nothing else but the PC and the loops. -/
def WritesA (s t : State) (d : AReg) (x : Addr) : Prop :=
  t.th.ra d = x ∧ (∀ r, r ≠ d → t.th.ra r = s.th.ra r) ∧ ClearsMark s t (.a d) ∧ OnlyThread s t ∧
    t.th = { s.th with pc := t.th.pc, loop0 := t.th.loop0, loop1 := t.th.loop1, a := t.th.a, bad := t.th.bad }

/-- The instruction writes vector register d and nothing else but the PC and the loops. -/
def WritesV (s t : State) (d : VReg) (x : Vec) : Prop :=
  t.th.rv d = x ∧ (∀ r, r ≠ d → t.th.rv r = s.th.rv r) ∧ ClearsVec s t d ∧ OnlyThread s t ∧
    t.th = { s.th with pc := t.th.pc, loop0 := t.th.loop0, loop1 := t.th.loop1, v := t.th.v, bad := t.th.bad }

/-- The instruction writes mask register d and nothing else but the PC and the loops. -/
def WritesM (s t : State) (d : MReg) (x : Mask) : Prop :=
  t.th.rm d = x ∧ (∀ r, r ≠ d → t.th.rm r = s.th.rm r) ∧ ClearsMark s t (.m d) ∧ OnlyThread s t ∧
    t.th = { s.th with pc := t.th.pc, loop0 := t.th.loop0, loop1 := t.th.loop1, m := t.th.m, bad := t.th.bad }

/-- The instruction changes nothing but the PC and the loops. -/
def WritesNothing (s t : State) : Prop :=
  OnlyThread s t ∧ t.th = { s.th with pc := t.th.pc, loop0 := t.th.loop0, loop1 := t.th.loop1 }

/-! ### Loops and transfers (09 R204, R205) -/

/-- Whether an address lies in a loop's body, from its first word to its last. -/
def InBody (l : Loop) (x : Addr) : Prop := l.first.toNat ≤ x.toNat ∧ x.toNat ≤ l.last.toNat

/-- A loop after a transfer other than a call from pc to a target: disarmed exactly where it leaves the body. -/
def LeavesBody (pc target : Addr) (l m : Loop) : Prop :=
  (l.armed = true ∧ InBody l pc ∧ ¬ InBody l target → m = { l with armed := false }) ∧
    (¬ (l.armed = true ∧ InBody l pc ∧ ¬ InBody l target) → m = l)

/-- A transfer to a target that is no call: both loops obey step 1 of R205, nothing else changes. -/
def JumpsTo (s t : State) (target : Addr) : Prop :=
  t.th.pc = target ∧ LeavesBody s.th.pc target s.th.loop0 t.th.loop0 ∧ LeavesBody s.th.pc target s.th.loop1 t.th.loop1 ∧
    WritesNothing s t

/-- Whether an instruction of n bytes at pc covers the last word of an armed loop. -/
def AtEnd (pc : Addr) (n : Nat) (l : Loop) : Prop := l.armed = true ∧ (pc = l.last ∨ (n = 8 ∧ pc + 4 = l.last))

/-- A thread after an instruction of n bytes that does not transfer, as step 2 of R205 has it: the younger loop is `loop1`. -/
def LoopsBack (t u : Thread) (n : Nat) : Prop :=
  (AtEnd t.pc n t.loop1 ∧ 1 < t.loop1.remaining.toNat →
    u = { t with pc := t.loop1.first, loop1 := { t.loop1 with remaining := t.loop1.remaining - 1 } }) ∧
  (AtEnd t.pc n t.loop1 ∧ t.loop1.remaining.toNat ≤ 1 ∧ AtEnd t.pc n t.loop0 ∧ 1 < t.loop0.remaining.toNat →
    u = { t with pc := t.loop0.first, loop1 := { t.loop1 with armed := false }
                 loop0 := { t.loop0 with remaining := t.loop0.remaining - 1 } }) ∧
  (AtEnd t.pc n t.loop1 ∧ t.loop1.remaining.toNat ≤ 1 ∧ AtEnd t.pc n t.loop0 ∧ t.loop0.remaining.toNat ≤ 1 →
    u = { t with pc := t.pc + BitVec.ofNat 80 n, loop1 := { t.loop1 with armed := false }
                 loop0 := { t.loop0 with armed := false } }) ∧
  (AtEnd t.pc n t.loop1 ∧ t.loop1.remaining.toNat ≤ 1 ∧ ¬ AtEnd t.pc n t.loop0 →
    u = { t with pc := t.pc + BitVec.ofNat 80 n, loop1 := { t.loop1 with armed := false } }) ∧
  (¬ AtEnd t.pc n t.loop1 ∧ AtEnd t.pc n t.loop0 ∧ 1 < t.loop0.remaining.toNat →
    u = { t with pc := t.loop0.first, loop0 := { t.loop0 with remaining := t.loop0.remaining - 1 } }) ∧
  (¬ AtEnd t.pc n t.loop1 ∧ AtEnd t.pc n t.loop0 ∧ t.loop0.remaining.toNat ≤ 1 →
    u = { t with pc := t.pc + BitVec.ofNat 80 n, loop0 := { t.loop0 with armed := false } }) ∧
  (¬ AtEnd t.pc n t.loop1 ∧ ¬ AtEnd t.pc n t.loop0 → u = { t with pc := t.pc + BitVec.ofNat 80 n })

/-- The loops after a new one is armed, the younger of two: of one armed loop either name will do, so an unarmed one is not said. -/
def ArmedAfter (t u : Thread) (first last : Addr) (c : Word) : Prop :=
  let new : Loop := { first := first, last := last, remaining := c, armed := true }
  (t.loop1.armed = true → u.loop0 = t.loop1 ∧ u.loop1 = new) ∧
    (t.loop1.armed = false → t.loop0.armed = true → u.loop0 = t.loop0 ∧ u.loop1 = new) ∧
    (t.loop1.armed = false → t.loop0.armed = false → u.loop0 = new ∧ u.loop1.armed = false)

/-! ### Taking a trap (08 R170, R185, R186; 19 R347, R348) -/

/-- The cause word of an exact trap: its code, and its detail in bits [63:48]. -/
def causeWord (code detail : Nat) : Word := BitVec.ofNat 64 code + BitVec.ofNat 64 detail <<< 48

/-- Whether a trap of a thread goes to its user handler. -/
def UserTakes (t : Thread) (code : Nat) : Prop :=
  code ∈ [0x01, 0x03, 0x07, 0x08, 0x09, 0x0B, 0x0C, 0x0D, 0x0F, 0x11, 0x12, 0x17] ∧ t.utvec.getLsbD 0 = true ∧ t.utvec.getLsbD 1 = false

/-- A thread after the entry of its user handler: the reads that an instruction under execution kept for itself are dropped, and a `TEXIT`
that waited for the pair's other thread has not been executed (04 R94, 13 R277). -/
def userEntered (t : Thread) (cause : Word) (epc fva : Addr) : Thread :=
  { t.abandon with ucause := cause, uepc := epc, ufva := fva, utvec := t.utvec ||| 2, pc := t.utvec &&& ~~~3 }

/-- A thread after the entry of the supervisor handler at `svec`; what it abandons is as above. -/
def supEntered (t : Thread) (svec : Addr) (why : Nat) (cause : Word) (epc fva : Addr) : Thread :=
  { t.abandon with
      pc := svec &&& ~~~3
      sup := { t.sup with act := true, why := why, cause := cause, epc := epc, fva := fva, sav0 := t.rs 30, sav1 := t.rs 31
                          sava := t.ra 6, saved := false, req := 0, savBad := t.bad.filter [BadReg.s 30, .s 31, .a 6].contains } }

/-- Whether every earlier instruction of the issuing thread has completed (08 R185): nothing it has issued is outstanding but a read an
instruction keeps for itself, and no matrix instruction of it is queued. -/
def Settled (s : State) : Prop :=
  (∀ o ∈ s.th.outs, ∃ ord n, o.kind = .load .keep ord n) ∧ ∀ q ∈ (s.tile (tileOf s.tid)).queue, q.tid = s.tid → s.serial ≤ q.serial

/-- The issuing thread, outside a supervisor handler, takes an exact trap once every earlier instruction has completed: PC goes to the handler,
the registers of the entry are written, and nothing else changes, in the thread or elsewhere. Until then the instruction waits, and only the
core's turn passes. -/
def TrapsWith (s t : State) (code : Nat) (cause : Word) (fva : Addr) : Prop :=
  (Settled s → (UserTakes s.th code → t.th = userEntered s.th cause s.th.pc fva) ∧
    (¬ UserTakes s.th code → t.th = supEntered s.th (s.cluster (clusterOf s.tid)).svec 0 cause s.th.pc fva) ∧ OnlyThread s t) ∧
  (¬ Settled s → t = { s with cores := t.cores, stalled := true } ∧ ∀ n, n ≠ s.cur → t.core n = s.core n)

/-- An exact trap whose cause has a code and a detail. -/
def TrapsExactly (s t : State) (code detail : Nat) (fva : Addr) : Prop := TrapsWith s t code (causeWord code detail) fva

/-- The same where the instruction has read memory by then, which may have filled caches: of the thread, only the registers of the entry are
written; the other threads, the units and every byte are as they were. -/
def TrapsKeeping (s t : State) (code : Nat) (cause : Word) (fva : Addr) : Prop :=
  (UserTakes s.th code → t.th = userEntered s.th cause s.th.pc fva) ∧
    (¬ UserTakes s.th code → t.th = supEntered s.th (s.cluster (clusterOf s.tid)).svec 0 cause s.th.pc fva) ∧
    (∀ k, k ≠ s.tid → t.thread k = s.thread k) ∧ SameBytes s t ∧ t.slots = s.slots ∧ t.launches = s.launches ∧ t.tasks = s.tasks ∧
    t.graphs = s.graphs ∧ t.queues = s.queues ∧ t.regs = s.regs

/-! ### Results of the tables -/

/-- D of the integer register table (09 R194, R195, R75). -/
def integerResult (t : Thread) : Instr → Option (SReg × Word)
  | .add d a b => some (d, t.rs a + t.rs b)
  | .sub d a b => some (d, t.rs a - t.rs b)
  | .and d a b => some (d, t.rs a &&& t.rs b)
  | .or d a b => some (d, t.rs a ||| t.rs b)
  | .xor d a b => some (d, t.rs a ^^^ t.rs b)
  | .andn d a b => some (d, t.rs a &&& ~~~(t.rs b))
  | .shl d a b => some (d, t.rs a <<< (t.rs b &&& 63))
  | .shr d a b => some (d, t.rs a >>> (t.rs b &&& 63))
  | .sar d a b => some (d, (t.rs a).sshiftRight' (t.rs b &&& 63))
  | .mul d a b => some (d, t.rs a * t.rs b)
  | .mulh d a b => some (d, ((t.rs a).signExtend 128 * (t.rs b).signExtend 128).extractLsb' 64 64)
  | .mulhu d a b => some (d, ((t.rs a).setWidth 128 * (t.rs b).setWidth 128).extractLsb' 64 64)
  | .div d a b => some (d, if t.rs b = 0 then -1 else (t.rs a).sdiv (t.rs b))
  | .divu d a b => some (d, if t.rs b = 0 then -1 else (t.rs a).udiv (t.rs b))
  | .rem d a b => some (d, if t.rs b = 0 then t.rs a else (t.rs a).srem (t.rs b))
  | .remu d a b => some (d, if t.rs b = 0 then t.rs a else (t.rs a).umod (t.rs b))
  | .min d a b => some (d, if (t.rs a).toInt ≤ (t.rs b).toInt then t.rs a else t.rs b)
  | .max d a b => some (d, if (t.rs a).toInt ≤ (t.rs b).toInt then t.rs b else t.rs a)
  | .minu d a b => some (d, if (t.rs a).toNat ≤ (t.rs b).toNat then t.rs a else t.rs b)
  | .maxu d a b => some (d, if (t.rs a).toNat ≤ (t.rs b).toNat then t.rs b else t.rs a)
  | .seq d a b => some (d, if t.rs a = t.rs b then 1 else 0)
  | .sne d a b => some (d, if t.rs a = t.rs b then 0 else 1)
  | .slt d a b => some (d, if (t.rs a).toInt < (t.rs b).toInt then 1 else 0)
  | .sltu d a b => some (d, if (t.rs a).toNat < (t.rs b).toNat then 1 else 0)
  | .sext d a b =>
    let n := if t.rs b &&& 63 = 0 then 64 else (t.rs b &&& 63).toNat
    some (d, (t.rs a <<< (64 - n)).sshiftRight (64 - n))
  | .zext d a b =>
    let n := if t.rs b &&& 63 = 0 then 64 else (t.rs b &&& 63).toNat
    some (d, t.rs a <<< (64 - n) >>> (64 - n))
  | _ => none

/-- The result of a counting or reordering instruction (09 R194): its destination, its operand, and what holds of the result. -/
def bitResult (t : Thread) : Instr → Option (SReg × (Word → Prop))
  | .clz d a => some (d, fun x => x = (t.rs a).clz)
  | .ctz d a => some (d, fun x => x = (t.rs a).reverse.clz)
  | .popc d a => some (d, fun x => x.toNat = ((List.range 64).filter fun i => (t.rs a).getLsbD i).length)
  | .brev d a => some (d, fun x => ∀ i < 64, x.getLsbD (63 - i) = (t.rs a).getLsbD i)
  | .bswap d a => some (d, fun x => ∀ i < 64, x.getLsbD (8 * (7 - i / 8) + i % 8) = (t.rs a).getLsbD i)
  | _ => none

/-- D of the immediate table and of the constant loads, with the instruction's size (09 R196, R197). -/
def immediateResult (t : Thread) : Instr → Option (Nat × SReg × Word)
  | .addi d a i => some (4, d, t.rs a + i.signExtend 64)
  | .andi d a i => some (4, d, t.rs a &&& i.signExtend 64)
  | .ori d a i => some (4, d, t.rs a ||| i.signExtend 64)
  | .xori d a i => some (4, d, t.rs a ^^^ i.signExtend 64)
  | .shli d a n => some (4, d, t.rs a <<< n)
  | .shri d a n => some (4, d, t.rs a >>> n)
  | .sari d a n => some (4, d, (t.rs a).sshiftRight' n)
  | .slti d a i => some (4, d, if (t.rs a).toInt < i.toInt then 1 else 0)
  | .sltiu d a i => some (4, d, if (t.rs a).toNat < (i.signExtend 64).toNat then 1 else 0)
  | .movi d i => some (4, d, i.signExtend 64)
  | .moviLong d x => some (8, d, x.signExtend 64)
  | .movhi d x => some (8, d, x ++ (t.rs d).setWidth 32)
  | .movsa d a => some (4, d, (t.ra a).setWidth 64)
  | .movha d a => some (4, d, ((t.ra a) >>> 64).setWidth 64)
  | .slta d a b => some (4, d, if (t.ra a).toNat < (t.ra b).toNat then 1 else 0)
  | _ => none

/-- AD of the address operations, with the instruction's size (09 R198–R200). -/
def addressResult (t : Thread) : Instr → Option (Nat × AReg × Addr)
  | .adrpc d i => some (4, d, t.pc + i.signExtend 80 * 4)
  | .adrpcLong d x => some (8, d, t.pc + x.signExtend 80 * 4)
  | .adda d a b => some (4, d, t.ra a + (t.rs b).signExtend 80)
  | .suba d a b => some (4, d, t.ra a - (t.rs b).signExtend 80)
  | .movas d a => some (4, d, (t.rs a).setWidth 80)
  | .movah d a => some (4, d, (t.rs a).setWidth 16 ++ (t.ra d).setWidth 64)
  | .aidx d a b =>
    some (4, d, t.ra a + ((t.rs b).setWidth 60).signExtend 80 * 8 * (((t.rs b) >>> 60).setWidth 80 + 1))
  | .addai d a i => some (4, d, t.ra a + i.signExtend 80)
  | .addaiLong d a x => some (8, d, t.ra a + x.signExtend 80)
  | _ => none

/-- A conditional branch: whether it is taken, and its offset (09 R201). -/
def branchResult (t : Thread) : Instr → Option (Bool × BitVec 15)
  | .beq a b o => some (decide (t.rs a = t.rs b), o)
  | .bne a b o => some (decide (t.rs a ≠ t.rs b), o)
  | .blt a b o => some (decide ((t.rs a).toInt < (t.rs b).toInt), o)
  | .bge a b o => some (decide ((t.rs b).toInt ≤ (t.rs a).toInt), o)
  | .bltu a b o => some (decide ((t.rs a).toNat < (t.rs b).toNat), o)
  | .bgeu a b o => some (decide ((t.rs b).toNat ≤ (t.rs a).toNat), o)
  | _ => none

/-- A transfer by a jump: its target (09 R202, R203), where the target is aligned. -/
def jumpTarget (t : Thread) : Instr → Option Addr
  | .jmp o => some (t.pc + o.signExtend 80 * 4)
  | .jr a => if (t.ra a).extractLsb' 0 2 = 0 then some (t.ra a) else none
  | .ret => if (t.ra 7).extractLsb' 0 2 = 0 then some (t.ra 7) else none
  | _ => none

/-- A call: its target, where the target is aligned and the call covers no armed loop's last word (09 R202–R205). -/
def callTarget (t : Thread) (i : Instr) : Option Addr :=
  if (t.loop0.armed ∧ t.pc = t.loop0.last) ∨ (t.loop1.armed ∧ t.pc = t.loop1.last) then none
  else match i with
    | .call o => some (t.pc + o.signExtend 80 * 4)
    | .callr a => if (t.ra a).extractLsb' 0 2 = 0 then some (t.ra a) else none
    | _ => none

/-! ### Vector lanes (11 R230–R247) -/

/-- Lane i of vector register a. -/
def lane (t : Thread) (ty : LaneT) (a : VReg) (i : Nat) : BitVec (laneW ty) := (t.rv a).extractLsb' (laneW ty * i) (laneW ty)

/-- What a lane instruction computes: its lane type, destination, mask field, and the value of each active lane. -/
structure LaneWork where
  ty : LaneT
  d : VReg
  m : MReg
  f : Nat → BitVec (laneW ty)

/-- Whether lane i takes part under a mask field: 0 means every lane (R231). -/
def Active (t : Thread) (m : MReg) (i : Nat) : Prop := m = 0 ∨ (t.rm m).getLsbD i = true

/-- A sum or difference held between the least and the greatest signed value of w bits. -/
def clampSigned (w : Nat) (x : Int) : BitVec w := BitVec.ofInt w (max (-(2 ^ (w - 1) : Int)) (min (2 ^ (w - 1) - 1) x))

/-- Active lanes below lane i. -/
def activeBelow (t : Thread) (m : MReg) (i : Nat) : Nat := ((List.range i).filter fun j => m = 0 ∨ (t.rm m).getLsbD j).length

/-- Lanes of the members that neither round nor raise a flag (R234, R236, R237, R239, R240). -/
def laneWork (t : Thread) : Instr → Option LaneWork
  | .vadd ty d a b m => some ⟨ty, d, m, fun i => lane t ty a i + lane t ty b i⟩
  | .vsub ty d a b m => some ⟨ty, d, m, fun i => lane t ty a i - lane t ty b i⟩
  | .vmul ty d a b m => some ⟨ty, d, m, fun i => lane t ty a i * lane t ty b i⟩
  | .vmulh ty d a b m => some ⟨ty, d, m, fun i =>
      ((lane t ty a i).signExtend (2 * laneW ty) * (lane t ty b i).signExtend (2 * laneW ty)).extractLsb' (laneW ty) (laneW ty)⟩
  | .vmin ty d a b m => some ⟨ty, d, m, fun i => if (lane t ty a i).toInt ≤ (lane t ty b i).toInt then lane t ty a i else lane t ty b i⟩
  | .vmax ty d a b m => some ⟨ty, d, m, fun i => if (lane t ty a i).toInt ≤ (lane t ty b i).toInt then lane t ty b i else lane t ty a i⟩
  | .vabs ty d a m => some ⟨ty, d, m, fun i => if (lane t ty a i).toInt < 0 then -(lane t ty a i) else lane t ty a i⟩
  | .vsadd ty d a b m => some ⟨ty, d, m, fun i => clampSigned (laneW ty) ((lane t ty a i).toInt + (lane t ty b i).toInt)⟩
  | .vssub ty d a b m => some ⟨ty, d, m, fun i => clampSigned (laneW ty) ((lane t ty a i).toInt - (lane t ty b i).toInt)⟩
  | .vand ty d a b m => some ⟨ty, d, m, fun i => lane t ty a i &&& lane t ty b i⟩
  | .vor ty d a b m => some ⟨ty, d, m, fun i => lane t ty a i ||| lane t ty b i⟩
  | .vxor ty d a b m => some ⟨ty, d, m, fun i => lane t ty a i ^^^ lane t ty b i⟩
  | .vnot ty d a m => some ⟨ty, d, m, fun i => ~~~(lane t ty a i)⟩
  | .vshl ty d a b m => some ⟨ty, d, m, fun i => lane t ty a i <<< ((lane t ty b i).toNat % laneW ty)⟩
  | .vshr ty d a b m => some ⟨ty, d, m, fun i => lane t ty a i >>> ((lane t ty b i).toNat % laneW ty)⟩
  | .vsar ty d a b m => some ⟨ty, d, m, fun i => (lane t ty a i).sshiftRight ((lane t ty b i).toNat % laneW ty)⟩
  | .vfabs ty d a m => some ⟨ty, d, m, fun i => lane t ty a i &&& ~~~(BitVec.intMin (laneW ty))⟩
  | .vfneg ty d a m => some ⟨ty, d, m, fun i => lane t ty a i ^^^ BitVec.intMin (laneW ty)⟩
  | .vsel ty d a b m => some ⟨ty, d, 0, fun i => if (t.rm m).getLsbD i then lane t ty a i else lane t ty b i⟩
  | .vbcast ty d a m => some ⟨ty, d, m, fun _ => (t.rs a).setWidth (laneW ty)⟩
  | .vins ty d a b => some ⟨ty, d, 0, fun i => if i = (t.rs b).toNat % laneN ty then (t.rs a).setWidth (laneW ty) else lane t ty d i⟩
  | .vperm ty d a b m => some ⟨ty, d, m, fun i => lane t ty a ((lane t ty b i).toNat % laneN ty)⟩
  | .vslide ty d a b m => some ⟨ty, d, m, fun i =>
      if 0 ≤ i + (t.rs b).toInt ∧ i + (t.rs b).toInt < laneN ty then lane t ty a (i + (t.rs b).toInt).toNat else 0⟩
  | .viota .i64 d m => some ⟨.i64, d, m, fun i => BitVec.ofNat 64 (activeBelow t m i)⟩
  | .viota .i32 d m => some ⟨.i32, d, m, fun i => BitVec.ofNat 32 (activeBelow t m i)⟩
  | .viota .i16 d m => some ⟨.i16, d, m, fun i => BitVec.ofNat 16 (activeBelow t m i)⟩
  | _ => none

/-- A vector result lane by lane: an inactive lane keeps its old value (R231). -/
def LanesOf (t : Thread) (k : LaneWork) (x : Vec) : Prop :=
  ∀ i < laneN k.ty, (Active t k.m i → x.extractLsb' (laneW k.ty * i) (laneW k.ty) = k.f i) ∧
    (¬ Active t k.m i → x.extractLsb' (laneW k.ty * i) (laneW k.ty) = lane t k.ty k.d i)

/-- What a compare computes: lane type, destination mask, mask field, and the bit of each active lane. -/
structure MaskWork where
  ty : LaneT
  d : MReg
  m : MReg
  f : Nat → Bool

/-- Integer compares (R238). -/
def maskWork (t : Thread) : Instr → Option MaskWork
  | .vcmpEq ty d a b m => some ⟨ty, d, m, fun i => lane t ty a i = lane t ty b i⟩
  | .vcmpLt ty d a b m => some ⟨ty, d, m, fun i => (lane t ty a i).toInt < (lane t ty b i).toInt⟩
  | .vcmpLe ty d a b m => some ⟨ty, d, m, fun i => (lane t ty a i).toInt ≤ (lane t ty b i).toInt⟩
  | .vcmpLtu ty d a b m => some ⟨ty, d, m, fun i => (lane t ty a i).toNat < (lane t ty b i).toNat⟩
  | .vcmpLeu ty d a b m => some ⟨ty, d, m, fun i => (lane t ty a i).toNat ≤ (lane t ty b i).toNat⟩
  | _ => none

/-- A mask result bit by bit: an inactive lane's bit stays, bits at and above the lane count become zero (R238). -/
def BitsOf (t : Thread) (k : MaskWork) (x : Mask) : Prop :=
  ∀ i < 32, (i < laneN k.ty → Active t k.m i → x.getLsbD i = k.f i) ∧
    (i < laneN k.ty → ¬ Active t k.m i → x.getLsbD i = (t.rm k.d).getLsbD i) ∧ (laneN k.ty ≤ i → x.getLsbD i = false)

/-- Active lanes of a register in ascending order. -/
def activeValues (t : Thread) (ty : LaneT) (a : VReg) (m : MReg) : List (BitVec (laneW ty)) :=
  ((List.range (laneN ty)).filter fun i => m = 0 ∨ (t.rm m).getLsbD i).map (lane t ty a)

/-- Integer reductions and `VMOVS` (R240, R241): the scalar result, an integer lane sign-extended. -/
def reduceWork (t : Thread) : Instr → Option (SReg × Word)
  | .vredadd ty d a m => if floatLane ty then none else some (d, ((activeValues t ty a m).foldl (· + ·) 0).signExtend 64)
  | .vredmax ty d a m => if floatLane ty then none else
      some (d, ((activeValues t ty a m).foldl (fun x y => if x.toInt ≤ y.toInt then y else x) (BitVec.intMin _)).signExtend 64)
  | .vredmin ty d a m => if floatLane ty then none else
      some (d, ((activeValues t ty a m).foldl (fun x y => if x.toInt ≤ y.toInt then x else y) (BitVec.intMax _)).signExtend 64)
  | .vmovs ty d a b =>
    let x := lane t ty a ((t.rs b).toNat % laneN ty)
    some (d, if floatLane ty then x.setWidth 64 else x.signExtend 64)
  | .mpopc d a => some (d, BitVec.ofNat 64 ((List.range 32).filter fun i => (t.rm a).getLsbD i).length)
  | _ => none

/-! ### Float lanes (11 R232–R235, R238, R241–R244; 03 R71–R75)

The one rounding of a lane is the model's `roundLane` over the exact operations of `Num`. -/

/-- What a float lane instruction computes in an active lane: the lane's bits and the flags it raises. -/
structure FloatWork where
  ty : LaneT
  d : VReg
  m : MReg
  f : Nat → Nat × Nat

/-- A lane as a value under `VCTL.daz`. -/
def laneVal (t : Thread) (ty : LaneT) (a : VReg) (i : Nat) : Val := readLane ty (t.vctl.getLsbD 11) (lane t ty a i).toNat

/-- The rounding direction of `VCTL.rm` (03 R73). -/
def roundMode (t : Thread) : RMode :=
  if t.vctl.extractLsb' 8 2 = 0 then .even else if t.vctl.extractLsb' 8 2 = 1 then .zero
  else if t.vctl.extractLsb' 8 2 = 2 then .up else .down

/-- The rounded lane of an exact result, with the flags of rounding and of signalling operands. -/
def floatLaneOf (t : Thread) (ty : LaneT) (r : Flagged) (inputs : List Val) : Nat × Nat :=
  let x := roundLane ty (roundMode t) (t.vctl.getLsbD 10) r
  (x.1, inputs.foldl (fun f v => f ||| snan v) x.2)

def floatWork (t : Thread) : Instr → Option FloatWork
  | .vfadd ty d a b m => some ⟨ty, d, m, fun i => let x := laneVal t ty a i; let y := laneVal t ty b i
      floatLaneOf t ty (addVal (roundMode t) x y) [x, y]⟩
  | .vfsub ty d a b m => some ⟨ty, d, m, fun i => let x := laneVal t ty a i; let y := laneVal t ty b i
      floatLaneOf t ty (addVal (roundMode t) x y.neg) [x, y]⟩
  | .vfmul ty d a b m => some ⟨ty, d, m, fun i => let x := laneVal t ty a i; let y := laneVal t ty b i
      floatLaneOf t ty (mulVal x y) [x, y]⟩
  | .vfma ty d a b m => some ⟨ty, d, m, fun i => let x := laneVal t ty a i; let y := laneVal t ty b i; let z := laneVal t ty d i
      floatLaneOf t ty (fmaVal (roundMode t) x y z) [x, y, z]⟩
  | .vfms ty d a b m => some ⟨ty, d, m, fun i => let x := laneVal t ty a i; let y := laneVal t ty b i; let z := laneVal t ty d i
      floatLaneOf t ty (fmaVal (roundMode t) x y z.neg) [x, y, z]⟩
  | .vfnma ty d a b m => some ⟨ty, d, m, fun i => let x := laneVal t ty a i; let y := laneVal t ty b i; let z := laneVal t ty d i
      floatLaneOf t ty (fmaVal (roundMode t) x.neg y z) [x, y, z]⟩
  | .vfdiv ty d a b m => some ⟨ty, d, m, fun i => let x := laneVal t ty a i; let y := laneVal t ty b i
      floatLaneOf t ty (divVal (laneP ty) x y) [x, y]⟩
  | .vfmin ty d a b m => some ⟨ty, d, m, fun i =>
      minMaxLane ty (t.vctl.getLsbD 11) false (lane t ty a i).toNat (lane t ty b i).toNat⟩
  | .vfmax ty d a b m => some ⟨ty, d, m, fun i =>
      minMaxLane ty (t.vctl.getLsbD 11) true (lane t ty a i).toNat (lane t ty b i).toNat⟩
  | .vfsqrt ty d a m => some ⟨ty, d, m, fun i => let x := laneVal t ty a i; floatLaneOf t ty (sqrtVal (laneP ty) x) [x]⟩
  | .vfrcp ty d a m => some ⟨ty, d, m, fun i => let x := laneVal t ty a i
      floatLaneOf t ty (divVal (laneP ty) (.fin false 1 0 false) x) [x]⟩
  | .vfrsq ty d a m => some ⟨ty, d, m, fun i => let x := laneVal t ty a i; floatLaneOf t ty (rsqrtVal (laneP ty) x) [x]⟩
  | .vfexp2 ty d a m => some ⟨ty, d, m, fun i => let x := laneVal t ty a i; floatLaneOf t ty (exp2Val (laneP ty) x) [x]⟩
  | .vflog2 ty d a m => some ⟨ty, d, m, fun i => let x := laneVal t ty a i; floatLaneOf t ty (log2Val (laneP ty) x) [x]⟩
  | .vftanh ty d a m => some ⟨ty, d, m, fun i => let x := laneVal t ty a i; floatLaneOf t ty (tanhVal (laneP ty) x) [x]⟩
  | .vcvt ty src d a m => some ⟨ty, d, m, fun i =>
      if i < laneN ty then convLane t.vctl ty src (laneAt (t.rv a) (laneW src) i) else ((lane t ty d i).toNat, 0)⟩
  | .vpack ty src d a m => some ⟨ty, d, m, fun i =>
      if i < laneN src then convLane t.vctl ty src (laneAt (t.rv a) (laneW src) i) else ((lane t ty d i).toNat, 0)⟩
  | .vunpack ty src d a m => some ⟨ty, d, m, fun i =>
      if i < laneN ty then convLane t.vctl ty src (laneAt (t.rv a) (laneW src) i) else ((lane t ty d i).toNat, 0)⟩
  | _ => none

/-- The flags of the active lanes, combined by OR (R232). -/
def raised (t : Thread) (k : FloatWork) : Nat :=
  ((List.range (laneN k.ty)).filter fun i => k.m = 0 ∨ (t.rm k.m).getLsbD i).foldl (fun f i => f ||| (k.f i).2) 0

/-- The flags that trap: those raised and enabled in `VCTL` [20:16] (03 R74). -/
def trapping (t : Thread) (flags : Nat) : Nat := flags &&& (t.vctl.extractLsb' 16 5).toNat

/-- The scalar or mask result of a float reduction or compare, with its flags. -/
inductive FloatDest where
  | scalar (d : SReg) (x : Word)
  | mask (k : MaskWork)

def floatReduceWork (t : Thread) : Instr → Option (FloatDest × Nat)
  | .vfcmpEq ty d a b m => some (cmp ty d a b m false (· == some .eq))
  | .vfcmpLt ty d a b m => some (cmp ty d a b m true (· == some .lt))
  | .vfcmpLe ty d a b m => some (cmp ty d a b m true fun c => c == some .lt || c == some .eq)
  | .vfcmpUn ty d a b m => some (cmp ty d a b m false (·.isNone))
  | .vredadd ty d a m => if floatLane ty then some (red ty d a m 0 (addLanes t.vctl ty)) else none
  | .vredmax ty d a m => if floatLane ty then some (red ty d a m ((laneFmt ty).infBits true) (pickLanes t.vctl ty true)) else none
  | .vredmin ty d a m => if floatLane ty then some (red ty d a m ((laneFmt ty).infBits false) (pickLanes t.vctl ty false)) else none
  | .vredmaxi ty d a m => some (idx ty d a m true)
  | .vredmini ty d a m => some (idx ty d a m false)
  | _ => none
where
  cmp (ty : LaneT) (d : MReg) (a b : VReg) (m : MReg) (ordered : Bool) (p : Option Ordering → Bool) : FloatDest × Nat :=
    (.mask ⟨ty, d, m, fun i => p (cmpVal (laneVal t ty a i) (laneVal t ty b i))⟩,
      ((List.range (laneN ty)).filter fun i => m = 0 ∨ (t.rm m).getLsbD i).foldl (fun f i =>
        f ||| snan (laneVal t ty a i) ||| snan (laneVal t ty b i) |||
          (if ordered ∧ (cmpVal (laneVal t ty a i) (laneVal t ty b i)).isNone then flagNv else 0)) 0)
  red (ty : LaneT) (d : SReg) (a : VReg) (m : MReg) (empty : Nat) (op : Nat → Nat → Nat × Nat) : FloatDest × Nat :=
    match (activeValues t ty a m).map (·.toNat) with
    | [] => (.scalar d (BitVec.ofNat 64 empty), 0)
    | x :: r =>
      let z := r.foldl (fun acc y => let u := op acc.1 y; (u.1, acc.2 ||| u.2))
        (pickLane ty (t.vctl.getLsbD 11) x, snan ((laneFmt ty).decode x))
      (.scalar d (BitVec.ofNat 64 z.1), z.2)
  idx (ty : LaneT) (d : SReg) (a : VReg) (m : MReg) (greater : Bool) : FloatDest × Nat :=
    let xs := ((List.range (laneN ty)).filter fun i => m = 0 ∨ (t.rm m).getLsbD i).map fun i => (i, indexVal t.vctl ty (lane t ty a i).toNat)
    (.scalar d (bestLane greater xs), xs.foldl (fun f x => f ||| snan x.2) 0)

/-- The class bits of a float encoding with e exponent bits and f fraction bits (R235). -/
def classBits (e f x : Nat) : Nat :=
  let neg := x / 2 ^ (e + f) % 2 = 1
  let ex := x / 2 ^ f % 2 ^ e
  let fr := x % 2 ^ f
  if ex = 2 ^ e - 1 then (if fr = 0 then (if neg then 1 else 2 ^ 7) else if fr / 2 ^ (f - 1) = 0 then 2 ^ 8 else 2 ^ 9)
  else if ex = 0 then (if fr = 0 then (if neg then 2 ^ 3 else 2 ^ 4) else (if neg then 2 ^ 2 else 2 ^ 5))
  else (if neg then 2 else 2 ^ 6)

/-- Exponent and fraction bits of the float lane types (03 R71). -/
def floatParts : LaneT → Nat × Nat
  | .f64 => (11, 52)
  | .f32 => (8, 23)
  | .f16 => (5, 10)
  | .bf16 => (8, 7)
  | .i64 | .i32 | .i16 => (11, 52)

/-- The cause word of a floating-point trap: code 0x0F and the flags in bits [36:32] (08 R170). -/
def floatCause (flags : Nat) : Word := causeWord 0x0F 0 + BitVec.ofNat 64 flags <<< 32

/-- The thread's flags after a float instruction: those raised are added, the rest of `VCTL` stays (03 R74). -/
def addFlags (v : Word) (flags : Nat) : Word := v ||| BitVec.ofNat 64 flags

/-- The instruction writes vector register d and adds flags to `VCTL`, and nothing else but the PC and the loops. -/
def WritesVFlags (s t : State) (d : VReg) (x : Vec) (flags : Nat) : Prop :=
  t.th.rv d = x ∧ (∀ r, r ≠ d → t.th.rv r = s.th.rv r) ∧ t.th.vctl = addFlags s.th.vctl flags ∧ ClearsVec s t d ∧ OnlyThread s t ∧
    t.th = { s.th with pc := t.th.pc, loop0 := t.th.loop0, loop1 := t.th.loop1, v := t.th.v, vctl := t.th.vctl, bad := t.th.bad }

/-- The same for a scalar or a mask destination. -/
def WritesFlags (s t : State) (k : FloatDest) (flags : Nat) : Prop :=
  t.th.vctl = addFlags s.th.vctl flags ∧ OnlyThread s t ∧
    match k with
    | .scalar d x => t.th.rs d = (if d = 0 then 0 else x) ∧ (∀ r, r ≠ d → t.th.rs r = s.th.rs r) ∧
        t.th = { s.th with pc := t.th.pc, loop0 := t.th.loop0, loop1 := t.th.loop1, s := t.th.s, vctl := t.th.vctl, bad := t.th.bad }
    | .mask w => BitsOf s.th w (t.th.rm w.d) ∧ (∀ r, r ≠ w.d → t.th.rm r = s.th.rm r) ∧
        t.th = { s.th with pc := t.th.pc, loop0 := t.th.loop0, loop1 := t.th.loop1, m := t.th.m, vctl := t.th.vctl }

/-! ### Exact numbers and their one rounding, over the rationals (08 R188; 03 R64–R73; 04 R81) -/

/-- The exact value of a finite number that has no rest. -/
def ratOf : Val → Option ℚ
  | .fin neg m e false => some ((if neg then -1 else 1) * (m * (2 : ℚ) ^ e))
  | _ => none

/-- RoundAt (08 R188): x rounded to a multiple of the unit u. -/
def roundAtQ (x u : ℚ) (rm : RMode) : ℚ :=
  let f := ⌊|x| / u⌋
  let rest := |x| / u - f
  let up := match rm with
    | .even => decide (1 / 2 < rest) || decide (rest = 1 / 2 ∧ f % 2 = 1)
    | .away => decide (1 / 2 ≤ rest)
    | .up => decide (0 < rest ∧ 0 < x)
    | .down => decide (0 < rest ∧ x < 0)
    | .zero => false
  (if x < 0 then -1 else 1) * ((if up then f + 1 else f : ℤ) : ℚ) * u

/-- The rounding of RoundIEEE, before overflow is judged. -/
def roundFmtQ (fm : Fmt) (rm : RMode) (x : ℚ) : ℚ := roundAtQ x ((2 : ℚ) ^ (max (Int.log 2 |x|) fm.emin - fm.mbits)) rm

/-- The largest finite value of a format. -/
def maxQ (fm : Fmt) : ℚ := fm.top * (2 : ℚ) ^ (fm.emax - fm.mbits)

/-- Whether an overflow goes to infinity: to nearest, and directed toward the sign. -/
def ToInfinity (rm : RMode) (x : ℚ) : Prop := rm = .even ∨ rm = .away ∨ (rm = .up ∧ 0 < x) ∨ (rm = .down ∧ x < 0)

/-- The bits and flags that the exact nonzero number x leaves in an IEEE format: RoundIEEE, its flags with tininess after rounding (03 R71),
and the flush of a subnormal result (03 R73). -/
def RoundsTo (fm : Fmt) (rm : RMode) (ftz : Bool) (x : ℚ) (r : Nat × Nat) : Prop :=
  let y := roundFmtQ fm rm x
  (fm.decode r.1).sign = decide (x < 0) ∧
    (maxQ fm < |y| → r.2 = flagOf + flagNx ∧ (ToInfinity rm x → fm.decode r.1 = .inf (decide (x < 0))) ∧
      (¬ ToInfinity rm x → ratOf (fm.decode r.1) = some ((if x < 0 then -1 else 1) * maxQ fm))) ∧
    (|y| ≤ maxQ fm → ftz = true ∧ y ≠ 0 ∧ |y| < (2 : ℚ) ^ fm.emin → ratOf (fm.decode r.1) = some 0 ∧ r.2 = flagUf + flagNx) ∧
    (|y| ≤ maxQ fm → ¬ (ftz = true ∧ y ≠ 0 ∧ |y| < (2 : ℚ) ^ fm.emin) → ratOf (fm.decode r.1) = some y ∧
      r.2 = if y = x then 0 else if |roundAtQ x ((2 : ℚ) ^ (Int.log 2 |x| - fm.mbits)) rm| < (2 : ℚ) ^ fm.emin then flagUf + flagNx else flagNx)

/-- Two values are one number, signs of zeros included, or one infinity. -/
def SameVal (a b : Val) : Prop := a.sign = b.sign ∧ ((∃ s, a = .inf s ∧ b = .inf s) ∨ (ratOf a ≠ none ∧ ratOf a = ratOf b))

/-- The order of `VFMIN` and `VFMAX`: −0 below +0 (03 R71). -/
def NotAbove : Val → Val → Prop
  | .inf s, .inf t => s = true ∨ t = false
  | .inf s, .fin _ _ _ _ => s = true
  | .fin _ _ _ _, .inf t => t = false
  | .fin s m e j, .fin t n f k => ∃ x y, ratOf (.fin s m e j) = some x ∧ ratOf (.fin t n f k) = some y ∧ (x < y ∨ x = y ∧ (s = true ∨ t = false))
  | _, _ => False

/-- Whether a value is a number, or an infinity. -/
def Ordered (a : Val) : Prop := ratOf a ≠ none ∨ ∃ s, a = .inf s

/-- The canonical NaN of a float lane type (03 R56). -/
def canonicalNan : LaneT → Nat
  | .f64 => 0x7FF8000000000000
  | .f32 => 0x7FC00000
  | .f16 => 0x7E00
  | .bf16 => 0x7FC0
  | .i64 | .i32 | .i16 => 0

/-- The lesser or the greater of two values, as the bits of a lane and its flags (11 R233): NaN where either is one, `nv` for a signalling one
alone. -/
def PicksOf (ty : LaneT) (greater : Bool) (a b : Val) (r : Nat × Nat) : Prop :=
  r.2 = (if a = .nan true ∨ b = .nan true then flagNv else 0) ∧ ((∃ q, a = .nan q ∨ b = .nan q) → r.1 = canonicalNan ty) ∧
    (Ordered a → Ordered b → (SameVal ((laneFmt ty).decode r.1) a ∨ SameVal ((laneFmt ty).decode r.1) b) ∧
      if greater then NotAbove a ((laneFmt ty).decode r.1) ∧ NotAbove b ((laneFmt ty).decode r.1)
      else NotAbove ((laneFmt ty).decode r.1) a ∧ NotAbove ((laneFmt ty).decode r.1) b)

/-- The signed integer nearest to x in a direction, held between the bounds of w bits, and the flags of R244. -/
def IntegerOf (w : Nat) (rm : RMode) (x : ℚ) (r : Nat × Nat) : Prop :=
  ∃ n : ℤ, (n : ℚ) = roundAtQ x 1 rm ∧ BitVec.ofNat w r.1 = clampSigned w n ∧
    r.2 = if (clampSigned w n).toInt ≠ n then flagNv else if (n : ℚ) = x then 0 else flagNx

/-- Extended rounding of the exact nonzero number x (04 R81). -/
def RoundsExt (p : Nat) (rm : RMode) (x : ℚ) (r : Flagged) : Prop :=
  let y := roundAtQ x ((2 : ℚ) ^ (Int.log 2 |x| - p + 1)) rm
  let sg : ℚ := if x < 0 then -1 else 1
  r.1.sign = decide (x < 0) ∧
    ((2 : ℚ) ^ (4194304 : ℤ) ≤ |y| → r.2 = flagOf + flagNx ∧ (ToInfinity rm x → r.1 = .inf (decide (x < 0))) ∧
      (¬ ToInfinity rm x → ratOf r.1 = some (sg * ((2 ^ p - 1) * (2 : ℚ) ^ (4194304 - (p : ℤ)))))) ∧
    (|y| < (2 : ℚ) ^ (-4194302 : ℤ) → r.2 = flagUf + flagNx ∧
      ratOf r.1 = some (if (rm = .up ∧ 0 < x) ∨ (rm = .down ∧ x < 0) then sg * (2 : ℚ) ^ (-4194302 : ℤ) else 0)) ∧
    ((2 : ℚ) ^ (-4194302 : ℤ) ≤ |y| → |y| < (2 : ℚ) ^ (4194304 : ℤ) → ratOf r.1 = some y ∧ r.2 = if y = x then 0 else flagNx)

/-- The largest exponent of a group's nonzero products (03 R64). -/
def LeadExp (xs : List ℚ) (e : ℤ) : Prop := (∃ x ∈ xs, x ≠ 0 ∧ Int.log 2 |x| = e) ∧ ∀ x ∈ xs, x ≠ 0 → Int.log 2 |x| ≤ e

/-- The sum of a group's products, each cut to whole units (03 R64). -/
def unitSum (unit : ℚ) (xs : List ℚ) : ℤ := (xs.map fun x => if x < 0 then -⌊|x| / unit⌋ else ⌊|x| / unit⌋).sum

/-- An accumulator's FP32 bits after RoundFP32 of the exact total x. -/
def Accumulates (x : ℚ) (bits : Nat) : Prop :=
  (x = 0 → ratOf (fp32.decode bits) = some 0) ∧ (x ≠ 0 → ∃ flags, RoundsTo fp32 .even false x (bits, flags))

/-- What a value x becomes in format c, by a drain or a conversion copy (03 R68, R70): rounded once, to nearest; beyond the range of a format
without infinities its largest value, or a NaN where `clamp` is off and it has one; an integer saturates. -/
def Drains (c : Nat) (clamp : Bool) (x : ℚ) (bits : Nat) : Prop :=
  (∀ fm, codeFmt c = some fm →
    (fm.infinity = true → x ≠ 0 → ∃ r, RoundsTo fm .even (decide (c = 3)) x r ∧ bits = if c = 1 then r.1 * 2 ^ 13 else r.1) ∧
    (fm.infinity = false → |roundFmtQ fm .even x| ≤ maxQ fm → ratOf (fm.decode bits) = some (roundFmtQ fm .even x)) ∧
    (fm.infinity = false → maxQ fm < |roundFmtQ fm .even x| → clamp = true ∨ c = 7 ∨ c = 8 ∨ c = 9 →
      ratOf (fm.decode bits) = some ((if x < 0 then -1 else 1) * maxQ fm)) ∧
    (maxQ fm < |roundFmtQ fm .even x| → clamp = false → c = 5 ∨ c = 6 → fm.decode bits = .nan false)) ∧
  (0x0A ≤ c → c ≤ 0x0F → ∀ n lo hi : ℤ, (n : ℚ) = roundAtQ x 1 .even →
    (if c = 0x0C ∨ c = 0x0E then lo = 0 ∧ hi = 2 ^ codeWidth c - 1 else lo = -(2 ^ (codeWidth c - 1)) ∧ hi = 2 ^ (codeWidth c - 1) - 1) →
    BitVec.ofNat (codeWidth c) bits = BitVec.ofInt _ (max lo (min hi n)))

/-! ### Memory accesses (10 R209–R218; 06 R116–R128) -/

/-- The address of an M-format operand of n bytes: the register plus the signed offset times n (10 R209). -/
def mAddr (t : Thread) (a : AReg) (off : BitVec 12) (n : Nat) : Addr := t.ra a + off.signExtend 80 * BitVec.ofNat 80 n

/-- A load as its row gives it: bytes, address, destination, order, and whether it is a pull. -/
structure LoadForm where
  size : Nat
  va : Addr
  dest : Dest
  order : MOrder
  pull : Bool
  deriving DecidableEq, Repr

def loadForm (t : Thread) : Instr → Option LoadForm
  | .ld .b o d a off => some ⟨1, mAddr t a off 1, .sreg d 1 true, o, false⟩
  | .ld .h o d a off => some ⟨2, mAddr t a off 2, .sreg d 2 true, o, false⟩
  | .ld .w o d a off => some ⟨4, mAddr t a off 4, .sreg d 4 true, o, false⟩
  | .ld .d o d a off => some ⟨8, mAddr t a off 8, .sreg d 8 false, o, false⟩
  | .ld .bu o d a off => some ⟨1, mAddr t a off 1, .sreg d 1 false, o, false⟩
  | .ld .hu o d a off => some ⟨2, mAddr t a off 2, .sreg d 2 false, o, false⟩
  | .ld .wu o d a off => some ⟨4, mAddr t a off 4, .sreg d 4 false, o, false⟩
  | .ldv .full o d a off => some ⟨64, mAddr t a off 64, .vreg d, o, false⟩
  | .ldv .lo32 o d a off => some ⟨32, mAddr t a off 32, .vreg d, o, false⟩
  | .ldv .lo16 o d a off => some ⟨16, mAddr t a off 16, .vreg d, o, false⟩
  | .ldv .lo8 o d a off => some ⟨8, mAddr t a off 8, .vreg d, o, false⟩
  | .pull .b o d a off => some ⟨1, mAddr t a off 1, .sreg d 1 false, o, true⟩
  | .pull .h o d a off => some ⟨2, mAddr t a off 2, .sreg d 2 false, o, true⟩
  | .pull .w o d a off => some ⟨4, mAddr t a off 4, .sreg d 4 false, o, true⟩
  | .pull .d o d a off => some ⟨8, mAddr t a off 8, .sreg d 8 false, o, true⟩
  | .pullv o d a off => some ⟨64, mAddr t a off 64, .vreg d, o, true⟩
  | _ => none

/-- A store as its row gives it: bytes, address, order, and the value whose low bytes it stores. -/
structure StoreForm where
  size : Nat
  va : Addr
  order : MOrder
  value : Vec
  deriving DecidableEq, Repr

def storeForm (t : Thread) : Instr → Option StoreForm
  | .st .b o d a off => some ⟨1, mAddr t a off 1, o, (t.rs d).setWidth 512⟩
  | .st .h o d a off => some ⟨2, mAddr t a off 2, o, (t.rs d).setWidth 512⟩
  | .st .w o d a off => some ⟨4, mAddr t a off 4, o, (t.rs d).setWidth 512⟩
  | .st .d o d a off => some ⟨8, mAddr t a off 8, o, (t.rs d).setWidth 512⟩
  | .stv .full o d a off => some ⟨64, mAddr t a off 64, o, t.rv d⟩
  | .stv .lo32 o d a off => some ⟨32, mAddr t a off 32, o, t.rv d⟩
  | .stv .lo16 o d a off => some ⟨16, mAddr t a off 16, o, t.rv d⟩
  | .stv .lo8 o d a off => some ⟨8, mAddr t a off 8, o, t.rv d⟩
  | _ => none

/-- An atomic as its row gives it (10 R216). -/
def amoForm : Instr → Option (AmoOp × Bool × AOrder × SReg × AReg × SReg)
  | .amoadd w o d a b => some (.add, w, o, d, a, b)
  | .amoand w o d a b => some (.and, w, o, d, a, b)
  | .amoor w o d a b => some (.or, w, o, d, a, b)
  | .amoxor w o d a b => some (.xor, w, o, d, a, b)
  | .amomin w o d a b => some (.min, w, o, d, a, b)
  | .amomax w o d a b => some (.max, w, o, d, a, b)
  | .amominu w o d a b => some (.minu, w, o, d, a, b)
  | .amomaxu w o d a b => some (.maxu, w, o, d, a, b)
  | .amoswap w o d a b => some (.swap, w, o, d, a, b)
  | .amocas w o d a b => some (.cas, w, o, d, a, b)
  | _ => none

/-- The memory value after an atomic on w bits: old value x, operand y, expected value e (10 R216). -/
def amoResult (w : Nat) (op : AmoOp) (x y e : BitVec w) : BitVec w :=
  match op with
  | .add => x + y
  | .and => x &&& y
  | .or => x ||| y
  | .xor => x ^^^ y
  | .min => if x.toInt < y.toInt then x else y
  | .max => if x.toInt < y.toInt then y else x
  | .minu => if x.toNat < y.toNat then x else y
  | .maxu => if x.toNat < y.toNat then y else x
  | .swap => y
  | .cas => if x = e then y else x

/-- The two sequence advances (10 R218). -/
def seqForm : Instr → Option (Bool × Scope × SReg × AReg × SReg)
  | .seqadvMax sc d a b => some (false, sc, d, a, b)
  | .seqadvAdd sc d a b => some (true, sc, d, a, b)
  | _ => none

/-- The elements of an operation lie one after another over n bytes at an address, none of them performed. -/
def Spans (es : List Elem) (pa n : Nat) : Prop :=
  (es.flatMap fun x => (List.range x.size).map (x.pa + ·)) = (List.range n).map (pa + ·) ∧ ∀ x ∈ es, x.got = false ∧ x.home = false

/-- The elements carry the low bytes of a value, in the order of their addresses. -/
def Carries (es : List Elem) (n : Nat) (value : Vec) : Prop :=
  (es.flatMap (·.bytes)) = (List.range n).map fun k => value.extractLsb' (8 * k) 8

/-- What no memory access and no event of one touches: other threads, the levels of work, and the module's registers. -/
def UnitsKept (s t : State) : Prop :=
  t.slots = s.slots ∧ t.launches = s.launches ∧ t.tasks = s.tasks ∧ t.graphs = s.graphs ∧ t.queues = s.queues ∧ t.images = s.images ∧
    t.regs = s.regs ∧ t.fuse = s.fuse ∧ t.spdm = s.spdm ∧ t.net = s.net ∧ t.ports = s.ports ∧ t.keyPorts = s.keyPorts ∧ t.attach = s.attach ∧ t.ranges = s.ranges

/-- Every thread but one is as it was. -/
def OthersKept (s t : State) (n : Nat) : Prop := ∀ k, k ≠ n → t.thread k = s.thread k

/-- Every thread but one is as it was, but that a read it has outstanding fills no copy any more (06 R117). -/
def OthersFill (s t : State) (n : Nat) : Prop :=
  ∀ k, k ≠ n → t.thread k = { s.thread k with outs := (t.thread k).outs } ∧
    (t.thread k).outs.map (fun (o : Out) => { o with elems := o.elems.map fun (e : Elem) => { e with nofill := true } }) =
      (s.thread k).outs.map fun (o : Out) => { o with elems := o.elems.map fun (e : Elem) => { e with nofill := true } }

/-- The issue of a memory operation: the thread gains outstanding operations and counts, and keeps every register. -/
def IssuesOnly (s t : State) : Prop :=
  t.th = { s.th with pc := t.th.pc, loop0 := t.th.loop0, loop1 := t.th.loop1, outs := t.th.outs, ld := t.th.ld, st := t.th.st } ∧
    Advances s t 4 ∧ OthersKept s t s.tid ∧ UnitsKept s t

/-- The stash of a cluster has room for the lines one access fills: none leaves for them (05 R100, R102). -/
abbrev StashFits (s : State) (c : Nat) : Prop :=
  stashCapacity (s.cluster c) = 0 ∨ (s.cluster c).stashLines.length + 32 ≤ stashCapacity (s.cluster c)

/-- The same of the cluster whose memory an address is in. -/
abbrev LineFits (s : State) (a : Nat) : Prop := ∀ c ∈ (spaceOf a).cluster?, StashFits s c

/-- A core's L1 has room for the lines one access fills: none leaves for them (05 R106). -/
abbrev L1Fits (s : State) (core : Nat) : Prop := (s.core core).lines.length + (s.core core).dirty.length + 32 ≤ l1Lines

/-- Memory is as it was but for the core's dirty words in the 8-byte words that n bytes at an address meet: those are
written through first. -/
def KeepsBytesBut (s t : State) (core a n : Nat) : Prop :=
  LineFits s a → ∀ x, (∀ w ∈ dirtyNear s core a n, x / 4 ≠ w) → t.byte x = s.byte x

/-- Byte k of a memory value. -/
def byteOf {w : Nat} (x : BitVec w) (k : Nat) : Byte := x.extractLsb' (8 * k) 8

/-- Memory at the point of truth holds n bytes of a value at an address, and is elsewhere as it was. -/
def Stores {w : Nat} (s t : State) (a n : Nat) (x : BitVec w) : Prop :=
  (∀ k < n, truthByte t (a + k) = byteOf x k) ∧ ∀ y, (y < a ∨ a + n ≤ y) → truthByte t y = truthByte s y

/-- A thread named by an event: it keeps every register but those a returned operation writes. -/
def ReturnsTo (s t : State) (n : Nat) : Prop := OthersKept s t n ∧ UnitsKept s t

/-- No earlier acquire of the thread is outstanding, nor, for a store form, a release fence: an access begins (06 R123, 10 R217). -/
def MayAccess (s : State) (store : Bool) : Prop :=
  (∀ o ∈ s.th.outs, o.acquires = false) ∧ (store = true → ∀ o ∈ s.th.outs, o.isFence = false)

/-- Scalar register d of the context that issued an operation: under a handler it did not issue, `s30` and `s31` of the interrupted
context are the saved ones (19 R348). -/
def contextS (t : Thread) (phys : Bool) (d : SReg) : Word :=
  if t.sup.act = true ∧ phys = false ∧ d = 30 then t.sup.sav0 else if t.sup.act = true ∧ phys = false ∧ d = 31 then t.sup.sav1 else t.rs d

/-- An operation's scalar result reaches the context that issued it, and no other register of that context; a handler keeps its own
`s30` and `s31`. -/
def GivesS (s t : State) (n : Nat) (phys : Bool) (d : SReg) (x : Word) : Prop :=
  contextS (t.thread n) phys d = (if d = 0 then 0 else x) ∧ (∀ r, r ≠ d → contextS (t.thread n) phys r = contextS (s.thread n) phys r) ∧
    ∀ r, r ≠ d ∨ ((s.thread n).sup.act = true ∧ phys = false ∧ (d = 30 ∨ d = 31)) → (t.thread n).rs r = (s.thread n).rs r

/-- A returned operation leaves the list of its thread's outstanding ones, and its data is in its register: o with the bytes it read. -/
def Delivers (s t : State) (n : Nat) (o : Out) (bs : List Byte) : Prop :=
  (t.thread n).out? o.serial = none ∧
    match o.kind with
    | .load (.sreg d size sg) _ counted =>
      GivesS s t n o.phys d (if sg then (BitVec.ofNat (8 * size) (natOfBytes bs)).signExtend 64 else BitVec.ofNat 64 (natOfBytes bs)) ∧
        (t.thread n).v = (s.thread n).v ∧ (t.thread n).ld = (if counted then (s.thread n).ld - 1 else (s.thread n).ld)
    | .load (.vreg d) _ counted =>
      (t.thread n).rv d = BitVec.ofNat 512 (natOfBytes bs) ∧ (∀ r, r ≠ d → (t.thread n).rv r = (s.thread n).rv r) ∧
        (t.thread n).s = (s.thread n).s ∧ (t.thread n).ld = (if counted then (s.thread n).ld - 1 else (s.thread n).ld)
    | _ => False

/-- The last element an operation waits for: every other one is home, and none returned poison. -/
def LastOf (o : Out) (i : Nat) : Prop := ∀ j, j ≠ i → ∀ x, o.elems[j]? = some x → x.home = true ∧ x.poison = false

/-- The operation's bytes once element i has read some. -/
def bytesWith (o : Out) (i : Nat) (bs : List Byte) : List Byte := (o.elems.zipIdx.flatMap fun p => if p.2 = i then bs else p.1.bytes)

/-- A thread's operation and its element i, neither performed nor behind an earlier access to its words (06 R121), within one line
that the stash has room for. -/
def Performable (s : State) (n : Nat) (o : Out) (i : Nat) (e : Elem) : Prop :=
  (s.thread n).out? o.serial = some o ∧ o.elems[i]? = some e ∧ e.home = false ∧ e.got = false ∧ e.sent = false ∧
    behind s n o.serial e = false ∧ 0 < e.size ∧ localOf e.pa % 64 + e.size ≤ 64 ∧ LineFits s (localOf e.pa)

/-- The instruction has to wait: nothing of any thread changes, nor a byte, and it is issued again when its thread runs next. -/
def Waited (s t : State) : Prop := (∀ k, t.thread k = s.thread k) ∧ SameBytes s t ∧ t.stalled = true

/-- A release of a thread has nothing left to wait for and nothing to write but its own operation (06 R117, R122, R124). -/
def Drained (s : State) (n : Nat) (o : Out) (sc : Scope) : Prop :=
  (s.thread n).outs = [o] ∧ (s.core (coreOf n)).dirty = [] ∧ (sc ≠ .thread → (s.tile (tileOf n)).queue = []) ∧
    (sc = .domain → ∀ l ∈ (s.cluster (clusterOf n)).stashLines, l.2.owned = true → l.2.dirty = false)

/-- Every owned line of a cluster's stash is clean. -/
def StashClean (t : State) (c : Nat) : Prop := ∀ k l, (t.cluster c).stashLines.find? k = some l → l.owned = true → l.dirty = false

/-- An acquire of domain scope has dropped the core's clean lines but those of read-only pages, and the cluster's untagged remote
lines (06 R117). -/
def Acquired (t : State) (n : Nat) : Prop :=
  (∀ l ∈ (t.core (coreOf n)).lines, l.2.readOnly = true) ∧ ∀ l ∈ (t.cluster (clusterOf n)).remote, l.2.tag ≠ none

/-- The instruction writes scalar register d with a word it has read, and no other register: the read may fill a stash line. -/
def ReturnsS (s t : State) (d : SReg) (x : Word) (a : Nat) : Prop :=
  t.th.rs d = (if d = 0 then 0 else x) ∧ (∀ r, r ≠ d → t.th.rs r = s.th.rs r) ∧ (d ≠ 0 → ClearsMark s t (.s d)) ∧ (d = 0 → t.th.bad = s.th.bad) ∧
    t.th = { s.th with pc := t.th.pc, loop0 := t.th.loop0, loop1 := t.th.loop1, s := t.th.s, bad := t.th.bad } ∧
    OthersKept s t s.tid ∧ UnitsKept s t ∧ (LineFits s a → SameBytes s t)

/-- The bytes a strong read of a list of elements of own memory gives an instruction that waits for them: those at the point of truth where
it is one read, those of the read kept for the instruction where it is several (06 R118). The core has nothing dirty, the tile
nothing queued, and the stash has room. -/
def ReadsBytes (s : State) (whole : Bool) (es : List Elem) (bs : List Byte) : Prop :=
  (s.core s.cur).dirty = [] ∧ (s.tile (tileOf s.tid)).queue = [] ∧ StashFits s (clusterOf s.tid) ∧
    ((s.th.outs = [] ∧ (whole = true ∨ es.length ≤ 1 ∨ Config.readsWhole s.serial = true) ∧
        (∀ e ∈ es, e.place = .own ∧ truthBad s (localOf e.pa) e.size = false) ∧ bs = es.flatMap fun e => truthRead s (localOf e.pa) e.size) ∨
      (s.th.owed = [] ∧ ∃ x, s.th.kept? es = some x ∧ (∀ e ∈ x.elems, e.home = true ∧ e.poison = false) ∧ bs = x.elems.flatMap (·.bytes)))

/-- The words of some limbs an `XLD` reads: a single one of own memory at once, which no copy holds where the load is weak; several, and those
of other memory, from the read kept for it (13 R276). -/
def LimbsRead (s : State) (o : MOrder) (es : List Elem) (ws : List Word) : Prop :=
  (s.th.kept? es = none ∧ es.length ≤ 1 ∧ meets s es = false ∧ (∀ e ∈ es, e.place = .own ∧ truthBad s (localOf e.pa) 8 = false) ∧
    (o = .weak → ∀ e ∈ es, (s.core s.cur).lines.find? (e.pa / 64) = none) ∧ ws = es.map fun e => truthWord s (localOf e.pa)) ∨
  ∃ x, s.th.kept? es = some x ∧ (∀ e ∈ x.elems, e.home = true ∧ e.poison = false ∧ e.bytes.length = 8) ∧
    ws = x.elems.map fun e => BitVec.ofNat 64 (natOfBytes e.bytes)

/-- The address a port of this module reads for an access: its own walk's, allowed and backed; a handler's access is physical (19 R343). -/
def PortReads (s : State) (phys : Bool) (slot : Option Nat) (va : Addr) (issued pa : Nat) : Prop :=
  (phys = true ∧ pa = issued) ∨ (phys = false ∧ ∃ j l, slot = some j ∧ walkSlot s j va = some l ∧ l.pa = pa ∧ moduleOf pa = s.regs.modnum ∧
    (spaceOf (localOf pa)).cluster? ≠ none ∧ backed s (localOf pa) = true)

/-- The module's registers but the power state, which an arrival wakes (18 R335), and the other units are as they were. -/
def UnitsWoken (s t : State) : Prop := UnitsKept { s with regs := { s.regs with pstate := t.regs.pstate } } t

/-- The first failing check of a load of n bytes outside a supervisor handler: alignment, then translation, which finds no backed byte of
the cluster's own memory or the host's (08 R188, 19 R341, 05 R96). -/
def loadFault (s : State) (va : Addr) (n : Nat) : Option Nat :=
  if va.toNat % n ≠ 0 then some 0x03
  else match walkSlot s (slotOf s s.tid) va with
    | none => some 0x05
    | some l =>
      if (placeOf s (clusterOf s.tid) l.pa = .own ∨ placeOf s (clusterOf s.tid) l.pa = .host) ∧ backed s (localOf l.pa) = false then some 0x05
      else none

/-- The address and width a store form writes: stores, atomics, sequence advances. -/
def storesAt (t : Thread) (i : Instr) : Option (Addr × Nat) :=
  match storeForm t i, amoForm i, seqForm i with
  | some f, _, _ => some (f.va, f.size)
  | none, some (_, wide, _, _, a, _), _ => some (t.ra a, if wide then 8 else 4)
  | none, none, some (_, _, _, a, _) => some (t.ra a, 8)
  | none, none, none => none

/-- The thread may store to every 4 KiB unit of n bytes: a live entry covers it whose holder is the thread, or any of its job's, which is
not deterministic (01 R17, R20). -/
def HoldsKeys (s : State) (a n : Nat) : Prop :=
  ∀ u, a / 4096 ≤ u → u ≤ (a + n - 1) / 4096 → ∃ i e, keyAt (s.cluster (clusterOf s.tid)) u = some (i, e) ∧
    (e.holder = codeOf s.tid ∨ (e.holder = 0xFE ∧ e.job = slotOf s s.tid ∧ (s.slot (slotOf s s.tid)).det = false))

/-- The address of lane i of a gather or scatter (11 R245). -/
def laneVa (t : Thread) (ty : LaneT) (a : AReg) (b : VReg) (i : Nat) : Addr :=
  t.ra a + (lane t ty b i).signExtend 80 * BitVec.ofNat 80 (laneW ty / 8)

/-- The active lanes, ascending (11 R231). -/
def activeList (t : Thread) (ty : LaneT) (m : MReg) : List Nat := (List.range (laneN ty)).filter fun i => m = 0 ∨ (t.rm m).getLsbD i

/-! ### Extended precision (04 R76–R94; 13 R271–R276)

The one rounding is the model's `roundExt` over the exact operations of `Num`. -/

/-- What a member that writes a window computes: its destination, the windows it names, the exact value with the flags it raises by itself,
and the operands the cancellation guard compares. -/
structure ExtWork where
  d : WReg
  live : List WReg
  r : Flagged
  guard : List Val

def extWork (t : Thread) : Instr → Option ExtWork
  | .xadd d a b => some ⟨d, [d, a, b], sig2 a b (addVal (precRm t.prec) (val a) (val b)), [val a, val b]⟩
  | .xsub d a b => some ⟨d, [d, a, b], sig2 a b (addVal (precRm t.prec) (val a) (val b).neg), [val a, val b]⟩
  | .xmul d a b => some ⟨d, [d, a, b], sig2 a b (mulVal (val a) (val b)), []⟩
  | .xdiv d a b => some ⟨d, [d, a, b], sig2 a b (divVal (precP t.prec) (val a) (val b)), []⟩
  | .xfma d a b =>
    let p := mulVal (val a) (val b)
    let r := addVal (precRm t.prec) p.1 (val d)
    some ⟨d, [d, a, b], (r.1, p.2 ||| r.2 ||| snanX (val a) ||| snanX (val b) ||| snanX (val d)), [p.1, val d]⟩
  | .xsqrt d a => some ⟨d, [d, a], sig1 a (sqrtVal (precP t.prec) (val a)), []⟩
  | .xrnd d a => some ⟨d, [d, a], sig1 a (integerVal (precRm t.prec) (val a)), []⟩
  | .xneg d a => some ⟨d, [d, a], sig1 a ((val a).neg, 0), []⟩
  | .xabs d a => some ⟨d, [d, a], sig1 a (if (val a).sign then (val a).neg else val a, 0), []⟩
  | .xmov d a => some ⟨d, [d, a], sig1 a (val a, 0), []⟩
  | .xscale d a b => some ⟨d, [d, a], sig1 a (match val a with | .fin g m e k => .fin g m (e + (t.rs b).toInt) k | v => v, 0), []⟩
  | .xexp d a => some ⟨d, [d, a], sig1 a (expVal (precP t.prec) (val a)), []⟩
  | .xcvtWindowFromInt64 d a => some ⟨d, [d], (.ofInt (t.rs a).toInt, 0), []⟩
  | .xcvtWindowFromUint64 d a => some ⟨d, [d], (.ofInt (t.rs a).toNat, 0), []⟩
  | .xcvtWindowFromFp64 d a => some ⟨d, [d], (fp64.decode (t.rs a).toNat, snanX (fp64.decode (t.rs a).toNat)), []⟩
  | _ => none
where
  val (w : WReg) : Val := extVal (t.limbs (t.winAt w))
  sig1 (a : WReg) (r : Flagged) : Flagged := (r.1, r.2 ||| snanX (val a))
  sig2 (a b : WReg) (r : Flagged) : Flagged := (r.1, r.2 ||| snanX (val a) ||| snanX (val b))

/-- The scalar results: destination, window operands, value and flags (13 R273, R274). -/
def extScalar (t : Thread) : Instr → Option (SReg × List WReg × Word × Nat)
  | .xcmp d a b => some (d, [a, b], (match cmpVal (val a) (val b) with | none => 8 | some .gt => 4 | some .eq => 2 | some .lt => 1),
      snanX (val a) ||| snanX (val b))
  | .xcvtScalarToInt64 d a => some (d, [a], BitVec.ofInt 64 (toInt64 (precRm t.prec) (val a)).1, (toInt64 (precRm t.prec) (val a)).2)
  | .xcvtScalarToUint64 d a => some (d, [a], BitVec.ofNat 64 (toUint64 (precRm t.prec) (val a)).1, (toUint64 (precRm t.prec) (val a)).2)
  | .xcvtScalarToFp64 d a => some (d, [a], BitVec.ofNat 64 (fp64.finish (precRm t.prec) false (val a)).1,
      (fp64.finish (precRm t.prec) false (val a)).2 ||| snanX (val a))
  | _ => none
where
  val (w : WReg) : Val := extVal (t.limbs (t.winAt w))

/-- Every window of a list is live. -/
def Live (t : Thread) (ws : List WReg) : Prop := ∀ w ∈ ws, t.rw w ≠ none

/-- Flags raised that `PREC` [44:40] enables, in the order of its flag field (04 R83). -/
def extTrapping (t : Thread) (flags : Nat) : Nat := precOrder flags &&& (t.prec.extractLsb' 40 5).toNat

/-- The cause of an extended-precision exception: the sub-cause in [11:8], bit 16, the flags in [36:32] (08 R170). -/
def extCause (code sub flags : Nat) (xp : Bool) : Word :=
  BitVec.ofNat 64 (code + sub * 2 ^ 8 + (if xp then 2 ^ 16 else 0) + flags * 2 ^ 32)

/-- Window d holds a value in its limbs and the flags are added to `PREC`; no other limb, register or byte changes. -/
def WritesW (s t : State) (d : WReg) (v : Val) (flags : Nat) : Prop :=
  t.th.limbs (s.th.winAt d) = extEncode (s.th.winAt d).len v ∧ t.th.prec = s.th.prec ||| BitVec.ofNat 64 (precOrder flags) <<< 32 ∧
    (∀ i, (i < (s.th.winAt d).base ∨ (s.th.winAt d).base + (s.th.winAt d).len ≤ i) → t.th.wfile.get 0 i = s.th.wfile.get 0 i) ∧
    OnlyThread s t ∧ Advances s t 4 ∧
    t.th = { s.th with pc := t.th.pc, loop0 := t.th.loop0, loop1 := t.th.loop1, wfile := t.th.wfile, prec := t.th.prec, bad := t.th.bad }

/-! ### The matrix engine (12 R250–R261) -/

/-- The scalar operands a matrix instruction reads at issue, and when its checks accept them: formats are those of the bank's last accepted
`BFMT` (12 R251–R258). -/
def mxForm (s : State) : Instr → Option (Word × Word × Prop)
  | .mcfg a => some (s.th.rs a, 0, s.th.rs a >>> 3 = 0 ∧ (s.th.rs a).extractLsb' 1 2 ≠ 3)
  | .bfmt _ a => some (s.th.rs a, 0, formatOk (s.th.rs a) = true)
  | .mzero _ => some (0, 0, True)
  | .mma _ ba bb sk so => some (s.th.rs sk, s.th.rs so,
      mmaOk (formatAt s (tileOf s.tid) ba) (formatAt s (tileOf s.tid) bb) (s.th.rs sk) (s.th.rs so) = true)
  | .mload _ b so => some (0, s.th.rs so, layoutOk (formatAt s (tileOf s.tid) b) (s.th.rs so) false = true)
  | .mdrain _ _ b so => some (0, s.th.rs so, layoutOk (formatAt s (tileOf s.tid) b) (s.th.rs so) true = true)
  | _ => none

/-- The issuing thread is the striker of its tile's active pair. -/
def IsStriker (s : State) : Prop := inPair s s.tid = true ∧ roleOf s.tid = 1

/-- Every 4 KiB unit a drain writes is under a key of the thread. -/
def DrainKeys (s : State) : Instr → Prop
  | .mdrain _ _ b so => ∀ u ∈ spanUnits (tensorSpans (bankAddr (tileOf s.tid) b) (formatAt s (tileOf s.tid) b) (s.th.rs so)),
      threadMayStore s s.tid (u * 4096) 1 = true
  | _ => True

/-- Element x (row * 64 + column) of accumulator k of a tile. -/
def accElem (s : State) (n : Nat) (k : BitVec 4) (x : Nat) : BitVec 32 := ((s.tile n).accum k.toNat).data.get 0 x

/-- The address of row i of a tensor in a bank: offset in [16:0], pitch in [48:32] of its layout word (12 R256). -/
def rowAt (n : Nat) (b : BitVec 4) (y : Word) (i : Nat) : Nat :=
  bankBase (n / 6) (n % 6) b.toNat + (y.extractLsb' 0 17).toNat + i * (y.extractLsb' 32 17).toNat

/-- A drained row: each element in the destination's format, with whether it saturated and whether a NaN was dropped. -/
def drainedRow (s : State) (n : Nat) (k : BitVec 4) (fmt y : Word) (i : Nat) : List (Nat × Bool × Bool) :=
  (List.range 64).map fun j => drainElem (fmtCode fmt) ((s.tile n).cfg.getLsbD 0) (y.getLsbD 63) (accElem s n k (i * 64 + j))

/-- An accepted instruction of a tile in no redundant mode: of a drain or a multiplication, on an accumulator that no poison has reached and that
has no redundant copy. -/
def PlainMx (s : State) (n : Nat) (q : MxOp) : Prop :=
  match q.instr with
  | .bfmt _ _ | .mcfg _ | .mzero _ | .mload _ _ _ => True
  | .mma c _ _ _ _ => ((s.tile n).accum c.toNat).paired = false
  | .mdrain _ c _ _ => ((s.tile n).accum c.toNat).poison = false ∧ layoutOk q.fmtA q.y true = true ∧ n < 384
  | _ => False

/-! ### Engines (07 R143–R164; 12 R263–R266) -/

/-- Bytes 0 to 3 of a card: kind, and engine, flags and scope from `ECARD` (12 R263, 07 R144). -/
def cardHead (t : Thread) (kind : Byte) : List Byte := [kind, t.ecard.extractLsb' 16 8, t.ecard.extractLsb' 0 8, t.ecard.extractLsb' 8 8]

/-- The copy forms: kind, geometry, selector, source, destination, strides, signal and completion words, value (07 R144). -/
def copyCard (t : Thread) (kind : Byte) (sel : Nat) (src dst sig cpl : Addr) (v : Word) : List Byte :=
  cardHead t kind ++ bytesOfNat 8 t.egeom.toNat ++ bytesOfNat 4 sel ++ bytesOfNat 16 src.toNat ++ bytesOfNat 16 dst.toNat ++
    bytesOfNat 8 t.esstr.toNat ++ bytesOfNat 8 t.edstr.toNat ++ bytesOfNat 16 sig.toNat ++ bytesOfNat 16 cpl.toNat ++
    bytesOfNat 8 v.toNat ++ List.replicate 152 0

/-- The card an engine instruction builds and what its operands must meet first (12 R263, R265, R266). -/
def engineCard (s : State) : Instr → Option (List Byte × Prop)
  | .bpull sv a b c d => some (copyCard s.th 1 0 (s.th.ra a) (s.th.ra b) (s.th.ra c) (s.th.ra d) (s.th.rs sv), True)
  | .bcopy sv a b c d => some (copyCard s.th 3 0 (s.th.ra a) (s.th.ra b) (s.th.ra c) (s.th.ra d) (s.th.rs sv), True)
  | .bpulla sv sx a c d =>
    some (copyCard s.th 2 ((s.th.rs sx).toNat % 2 ^ 32) (s.th.ra a) 0 (s.th.ra c) (s.th.ra d) (s.th.rs sv), s.th.rs sx >>> 32 = 0)
  | .lodge sn sx a b c d =>
    let x := s.th.rs sx
    let tail := bytesOfNat 8 s.th.esstr.toNat ++ bytesOfNat 8 s.th.edstr.toNat ++ bytesOfNat 16 (s.th.ra c).toNat ++
      bytesOfNat 16 (s.th.ra d).toNat ++ List.replicate 160 0
    some (if x.getLsbD 8 then cardHead s.th 6 ++ bytesOfNat 8 (s.th.rs sn).toNat ++ List.replicate 36 0 ++ tail
      else cardHead s.th 5 ++ bytesOfNat 8 (s.th.rs sn).toNat ++ bytesOfNat 4 (x.toNat % 16) ++ bytesOfNat 16 (s.th.ra a).toNat ++
        bytesOfNat 16 (s.th.ra b).toNat ++ tail,
      x.extractLsb' 4 4 = 0 ∧ x >>> 9 = 0)
  | .mdec sp sl a b c d =>
    let ag := (s.th.ra c).toNat
    let tensor := (s.th.esstr.toNat + 4095) / 4096
    let area := (s.th.edstr.toNat + 4095) / 4096
    some (cardHead s.th 4 ++ bytesOfNat 8 (s.th.rs sp).toNat ++ bytesOfNat 4 (s.th.rs sl).toNat ++ bytesOfNat 16 (s.th.ra a).toNat ++
      bytesOfNat 16 (s.th.ra b).toNat ++ bytesOfNat 16 ((ag + 0x200000) % 2 ^ 80) ++ bytesOfNat 16 ag ++ bytesOfNat 16 (s.th.ra d).toNat ++
      List.replicate 96 0 ++ bytesOfNat 10 (s.th.ra b).toNat ++ bytesOfNat 4 tensor ++ [0, 0] ++ bytesOfNat 10 ag ++
      bytesOfNat 4 (512 + area) ++ [0, 0] ++ List.replicate 32 0,
      mediaPresent s = true ∧ s.th.rs sl >>> 32 = 0 ∧ 0 < tensor ∧ tensor < 2 ^ 32 ∧ 0 < area ∧ area < 2 ^ 31)
  | _ => none

/-- The cluster's engines take one more job from the thread, which counts it in `cp` and keeps every register. -/
def JobTaken (s t : State) (j : Job) : Prop :=
  (t.cluster (clusterOf s.tid)).jobs = (s.cluster (clusterOf s.tid)).jobs ++ [j] ∧ j.tid = s.tid ∧ j.started = false ∧ j.status = 0 ∧
    j.task = s.th.task ∧ j.graph = none ∧ t.th.cp = s.th.cp + 1 ∧ Advances s t 4 ∧ OthersKept s t s.tid ∧
    t.th = { s.th with pc := t.th.pc, loop0 := t.th.loop0, loop1 := t.th.loop1, cp := t.th.cp } ∧
    ((s.core s.cur).dirty = [] → StashFits s (clusterOf s.tid) → SameBytes s t)

/-- A place for the job and a count for it: 64 jobs a cluster, 63 counted (07 R145, 08 R165). -/
def JobRoom (s : State) : Prop := s.th.cp < 63 ∧ (s.cluster (clusterOf s.tid)).jobs.length < 64 ∧ MayAccess s true

/-- Nothing of the thread is outstanding or dirty: no earlier access of it stands before the next one. -/
def Quiet (s : State) : Prop := s.th.outs = [] ∧ (s.core s.cur).dirty = [] ∧ (s.tile (tileOf s.tid)).queue = []

/-- A 128-byte descriptor of a sketch at an address of the own cluster, readable and valid (07 R159). -/
def SketchAt (s : State) (va : Addr) (k : Sketch) : Prop :=
  va.toNat % 128 = 0 ∧ initPending s va.toNat = false ∧ StashFits s (clusterOf s.tid) ∧ ∃ e f, loadAt s va 64 64 = .ok e ∧ loadAt s (va + 64) 64 64 = .ok f ∧
    e.place = .own ∧ f.place = .own ∧ truthBad s (localOf e.pa) 64 = false ∧ truthBad s (localOf f.pa) 64 = false ∧
    sketchOf va.toNat (truthRead s (localOf e.pa) 64 ++ truthRead s (localOf f.pa) 64) = some k

/-- The 128 bytes at an aligned address of the own cluster can be read and are no descriptor that passes the check of 07 R159. -/
def NoSketchAt (s : State) (va : Addr) : Prop :=
  va.toNat % 128 = 0 ∧ initPending s va.toNat = false ∧ StashFits s (clusterOf s.tid) ∧ ∃ e f, loadAt s va 64 64 = .ok e ∧ loadAt s (va + 64) 64 64 = .ok f ∧
    e.place = .own ∧ f.place = .own ∧ truthBad s (localOf e.pa) 64 = false ∧ truthBad s (localOf f.pa) 64 = false ∧
    sketchOf va.toNat (truthRead s (localOf e.pa) 64 ++ truthRead s (localOf f.pa) 64) = none

/-- The sketch instructions that read the descriptor at an address register first (12 R270). -/
def descriptorReg : Instr → Option AReg
  | .skupd _ a _ _ | .skupdV _ a _ _ | .skqry _ a _ | .skadd a _ | .skscl a _ | .skclr a | .sksat _ a | .sksatClr _ a => some a
  | _ => none

/-- What the first 4 KiB unit of a sketch's extent that a writing member may not write raises, and at which address: its translation's cause,
0x06 outside the own HBM slice or without write permission, 0x07 without a key (12 R270, 08 R188). -/
def ExtentStops (s : State) (k : Sketch) (code va : Nat) : Prop :=
  ∃ pre post : List Nat, k.shape.units.map (·.2) = pre ++ va :: post ∧
    (∀ v ∈ pre, ∃ l c o, translate s s.tid (BitVec.ofNat 80 v) .write = .ok l ∧ placeOf s (clusterOf s.tid) l.pa = .own ∧
      spaceOf (localOf l.pa) = .hbm c o ∧ threadMayStore s s.tid (localOf l.pa) 1 = true) ∧
    (translate s s.tid (BitVec.ofNat 80 va) .write = .error code ∨ ∃ l, translate s s.tid (BitVec.ofNat 80 va) .write = .ok l ∧
      ((code = 0x06 ∧ (placeOf s (clusterOf s.tid) l.pa ≠ .own ∨ ∀ c o, spaceOf (localOf l.pa) ≠ .hbm c o)) ∨
        (code = 0x07 ∧ placeOf s (clusterOf s.tid) l.pa = .own ∧ (∃ c o, spaceOf (localOf l.pa) = .hbm c o) ∧
          threadMayStore s s.tid (localOf l.pa) 1 = false)))

/-- The sketch a member works on, and the job it becomes (12 R270). -/
def sketchForm (t : Thread) : Instr → Option (AReg × SkOp)
  | .skupd f64 a sk sv => some (a, .update f64 [(t.rs sk, if f64 then t.rs sv else t.rs sv &&& 0xFFFFFFFF)])
  | .skupdV f64 a vk vv => some (a, .update f64 ((List.range 8).map fun i => ((t.rv vk).extractLsb' (64 * i) 64,
      if f64 then (t.rv vv).extractLsb' (64 * i) 64 else ((t.rv vv).extractLsb' (32 * i) 32).setWidth 64)))
  | .skscl a sf => some (a, .scale (t.rs sf &&& 0xFFFFFFFF))
  | .skclr a => some (a, .clear)
  | _ => none

/-! ### Parts of engine jobs (07 R146, R147, R160–R163; 05 R115) -/

/-- The event performs part q of a started job of its cluster, of which nothing has landed, whole. -/
def PartDue (s : State) (j : Job) (q : Nat) : Prop := s.ev.c = q ∧ s.ev.nats = [] ∧ j.cluster = s.ev.a ∧ j.started = true ∧ q ∉ j.partsDone

/-- The part is performed: the job counts it, and no thread changes. -/
def PartEnds (s t : State) (j : Job) (q : Nat) : Prop :=
  t.threads = s.threads ∧ (jobAt t s.ev.a s.ev.b).map (·.partsDone) = some (j.partsDone ++ [q])

/-- A part sends no line reads of its source to other modules now, or no held translation is a choice after them. -/
def Asked (s : State) (j : Job) (q va n : Nat) : Prop := s.tlb = [] ∨ lineAsks s j va n = [] ∨ (j.asked.find? q).isSome = true

/-- The n bytes that a job's engine reaches at an address lie at f: consecutive within a line, no two in one place, in its own cluster's memory,
none poisoned; the engine may write them, and no write of them moves them, since its tables lie elsewhere. -/
def Reaches (s : State) (j : Job) (va n : Nat) (f : Nat → Nat) : Prop :=
  (∀ k < n, f k % 64 = (va + k) % 64 ∧ (k ≠ 0 → (va + k) % 64 ≠ 0 → f k = f (k - 1) + 1) ∧ (∀ i < k, f i ≠ f k) ∧
    writeDiscarded s (f k) = false ∧ truthPoison s (f k) = false) ∧
  ∀ u : State, (∀ x, (∀ k < n, x ≠ f k) → truthByte u x = truthByte s x ∧ truthPoison u x = truthPoison s x) →
    u.slots = s.slots → u.regs = s.regs → u.fuse = s.fuse → u.tlb = s.tlb → (u.serial = s.serial ∨ s.tlb = []) →
    (∀ c, (u.cluster c).keys = (s.cluster c).keys ∧ (u.cluster c).scratch = (s.cluster c).scratch ∧ (u.cluster c).prot = (s.cluster c).prot) →
    ∀ k < n, payloadAt u j ((va + k) % 2 ^ 80) = some (f k) ∧ wordAt u j ((va + k) % 2 ^ 80) = some (f k)

/-- Counter n of row i of a sketch whose bytes lie at f (07 R159). -/
def counterVal (s : State) (k : Sketch) (f : Nat → Nat) (i n : Nat) : ℤ :=
  (BitVec.ofNat 32 (natOfBytes (truthRead s (f (128 + 4 * (i * k.width + n))) 4))).toInt

/-- The counters of row i hold new values, saturated, its flag is set where one saturates, and no other byte changes (07 R161, R163). -/
def RowLeft (s t : State) (k : Sketch) (f : Nat → Nat) (i : Nat) (new : Nat → ℤ) : Prop :=
  (∀ n < k.width, counterVal t k f i n = max (-(2 ^ 31)) (min (2 ^ 31 - 1) (new n))) ∧
    ((∃ n < k.width, new n < -(2 ^ 31) ∨ 2 ^ 31 - 1 < new n) → truthByte t (f 3) = truthByte s (f 3) ||| BitVec.ofNat 8 (2 ^ i)) ∧
    ((∀ n < k.width, -(2 ^ 31) ≤ new n ∧ new n ≤ 2 ^ 31 - 1) → truthByte t (f 3) = truthByte s (f 3)) ∧
    ∀ x, x ≠ f 3 → (∀ m < 4 * k.width, x ≠ f (128 + 4 * (i * k.width) + m)) → truthByte t x = truthByte s x

/-- The flags byte of a sketch holds a value, and no other byte changes. -/
def FlagsLeft (s t : State) (f : Nat → Nat) (x : Byte) : Prop := truthByte t (f 3) = x ∧ ∀ y, y ≠ f 3 → truthByte t y = truthByte s y

/-- What part q of a sketch job leaves (07 R160, R161, R163): descriptor and zeros of a new sketch, a cleared one, one pair of an update in one row,
one row of a sum or a scaling. -/
def SketchLeft (s t : State) (j : Job) (k : Sketch) (f : Nat → Nat) (q : Nat) : SkOp → Prop
  | .init desc => (q = 0 → (∀ m < 128, truthByte t (f m) = desc.getD m 0) ∧ ∀ y, (∀ m < 128, y ≠ f m) → truthByte t y = truthByte s y) ∧
      (q ≠ 0 → RowLeft s t k f (q - 1) fun _ => 0)
  | .clear => (q = 0 → FlagsLeft s t f 0) ∧ (q ≠ 0 → RowLeft s t k f (q - 1) fun _ => 0)
  | .update f64 ps => ∀ key v i, ps[q / k.d]? = some (key, v) → i = q % k.d →
      (∀ (x : ℚ) (n : ℤ), ratOf ((if f64 then fp64 else fp32).decode v.toNat) = some x → (n : ℚ) = roundAtQ (x * (2 : ℚ) ^ (-k.e)) 1 .even →
        RowLeft s t k f i fun m => counterVal s k f i m + if m = k.hash i key then (if k.minus i key then -n else n) else 0) ∧
      (∀ g, (if f64 then fp64 else fp32).decode v.toNat = .inf g → RowLeft s t k f i fun m =>
        if m = k.hash i key then (if g = k.minus i key then 2 ^ 31 else -(2 ^ 31) - 1) else counterVal s k f i m) ∧
      ∀ p, (if f64 then fp64 else fp32).decode v.toNat = .nan p → FlagsLeft s t f (truthByte s (f 3) ||| BitVec.ofNat 8 (2 ^ i))
  | .add src flags => (q = 0 → FlagsLeft s t f (truthByte s (f 3) ||| BitVec.ofNat 8 (flags.toNat % 2 ^ k.d))) ∧
      (q ≠ 0 → ∀ xs : List Byte, readFor s j ({ k with base := src }.counter (q - 1) 0) (4 * k.width) = some (xs.map fun b => (b, 0)) →
        RowLeft s t k f (q - 1) fun n => counterVal s k f (q - 1) n + (BitVec.ofNat 32 (natOfBytes ((xs.drop (4 * n)).take 4))).toInt)
  | .scale g => (∀ x : ℚ, ratOf (fp32.decode g.toNat) = some x → (q = 0 → ∀ y, truthByte t y = truthByte s y) ∧
        (q ≠ 0 → ∀ new : Nat → ℤ, (∀ n < k.width, (new n : ℚ) = roundAtQ (counterVal s k f (q - 1) n * x) 1 .even) → RowLeft s t k f (q - 1) new)) ∧
      (ratOf (fp32.decode g.toNat) = none → (q = 0 → FlagsLeft s t f (truthByte s (f 3) ||| BitVec.ofNat 8 (2 ^ k.d - 1))) ∧
        (q ≠ 0 → ∀ y, truthByte t y = truthByte s y))
  | .satClear _ => FlagsLeft s t f 0

/-! ### Messages (07 R136–R142; 12 R268, R269) -/

/-- The packet a sending interface makes of a program's: its own fields, the program's others, operand words beyond the stated count zero. -/
def Sealed (m p : Vec) (reply posted : Bool) (sender byte9 asid : Nat) : Prop :=
  p.extractLsb' 0 32 = m.extractLsb' 0 32 ∧ (p.extractLsb' 32 24).toNat = sender % 2 ^ 24 ∧ p.extractLsb' 56 8 = m.extractLsb' 56 8 ∧
    p.getLsbD 64 = reply ∧ p.getLsbD 65 = posted ∧ p.extractLsb' 66 3 = m.extractLsb' 66 3 ∧ p.extractLsb' 69 3 = 0 ∧
    (p.extractLsb' 72 8).toNat = byte9 % 256 ∧ p.extractLsb' 80 16 = m.extractLsb' 80 16 ∧ (p.extractLsb' 96 32).toNat = asid % 2 ^ 20 ∧
    ∀ k < 6, p.extractLsb' (128 + 64 * k) 64 = if k < (m.extractLsb' 66 3).toNat then m.extractLsb' (128 + 64 * k) 64 else 0

/-- A message of the issuing thread passes the checks and its queue has a place (07 R139, R140). -/
def MaySend (s : State) (m : Vec) : Prop := msgRefused s m = false ∧ MayAccess s true ∧ s.th.sq.length < s.th.sqDepth

/-- The endpoint of the issuing thread's core. -/
def senderOf (s : State) : Nat := s.regs.modnum % 1024 * 2 ^ 14 + clusterOf s.tid % 64 * 2 ^ 8 + coreOf s.tid % 36

/-! ### Tasks (02 R32–R45; 13 R277–R284) -/

/-- The issuing thread runs task k of a launch, outside a supervisor handler, and no cancellation has been asked of it. -/
def RunsTask (s : State) (k : Nat) (t : Task) (l : Launch) : Prop :=
  s.th.sup.act = false ∧ s.th.task = some k ∧ s.tasks.find? k = some t ∧ s.launches.find? t.launch = some l ∧ t.cancel = false

/-- Only the issuing thread's registers named here, its PC and loops, and the tables of work change. -/
def KeepsRegisters (s t : State) (d : SReg) (x : Word) : Prop :=
  t.th.rs d = (if d = 0 then 0 else x) ∧ (∀ r, r ≠ d → t.th.rs r = s.th.rs r) ∧ t.th.a = s.th.a ∧ t.th.v = s.th.v ∧ t.th.m = s.th.m ∧ t.th.win = s.th.win

/-- A task that no hardware thread runs: queued, or parked in `TJOIN`. -/
def taskWaits (t : Task) : Bool := match t.state with | .ready | .held _ _ | .parked _ => true | _ => false

/-- The table of tasks is in order: one entry for a number, each task under its own, and one that waits holds no thread and no tile. -/
def WorkInOrder (s : State) : Prop :=
  (s.tasks.map (·.1)).Nodup ∧
    ∀ x ∈ s.tasks, x.2.id = x.1 ∧ (taskWaits x.2 = true → x.2.threads = [] ∧ ∀ y ∈ s.tiles, y.2.pair ≠ some x.1)

/-- The tasks of a set are cancelled (02 R43): one that waits ends with a record of zeros, one that runs or is saved ends at its next point or
when its grace period runs out. -/
def TasksCancelled (s u : State) (p : Task → Prop) : Prop :=
  ∀ k t, s.tasks.find? k = some t → p t →
    match t.state with
    | .ready | .held _ _ | .parked _ => ∃ q, u.tasks.find? k = some q ∧ q.cancel = true ∧ q.state = .ended true 0
    | .running | .saved => u.tasks.find? k = some { t with cancel := true } ∧ k ∈ u.grace
    | .ended _ _ => True

/-- How many tasks of a set wait. -/
def waitingTasks (s : State) (p : Task → Bool) : Nat := (s.tasks.filter fun x => p x.2 && taskWaits x.2).length

/-- Launch h is cancelled: its status has the cause, the tasks that waited are counted no more, and it is over where none is left. -/
def LaunchCancelled (s u : State) (h : Nat) (m : Launch) (asked : Bool) (cause : Nat) : Prop :=
  ∃ v, u.launches.find? h = some v ∧ v.cancel = true ∧ v.cause = cause ∧ v.asked = asked ∧
    v.count = m.count - waitingTasks s (·.launch == h) ∧ v.state = if v.count = 0 then .cancelled else .running

/-- Graph k's run r is cancelled: nothing of it is due any more, and it is over or goes on to its end without starting a node. -/
def RunCancelled (u : State) (k : Nat) (r : GraphRun) : Prop :=
  (∃ x y, u.graphs.find? k = some x ∧ x.run = some y ∧ y.handle = r.handle ∧ y.cancel = true ∧ y.due = [] ∧
      y.cause = if r.cause = 0 then 0x15 else r.cause) ∨
    ((u.graphs.find? k).bind (·.run) = none ∧ ∃ e, u.graphEnds.find? r.handle = some e ∧ e.state = .cancelled)

/-- A thread changes at most in that its `REALIGN` ends. -/
def OnlyWakes (s u : State) (n : Nat) : Prop := u.thread n = { s.thread n with hold := (u.thread n).hold }

/-! ### Control registers (08 R167–R171; 13 R288; 19 R347) -/

/-- The 64-bit registers of a task and of a handler that read as they stand. -/
def heldWord (t : Thread) : Nat → Option Word
  | 0x010 => some t.prec
  | 0x011 => some t.vctl
  | 0x021 => some t.ucause
  | 0x050 => some t.egeom
  | 0x051 => some t.ecard
  | 0x052 => some t.esstr
  | 0x053 => some t.edstr
  | 0x101 => some t.sup.cause
  | 0x105 => some t.sup.sav0
  | 0x106 => some t.sup.sav1
  | 0x131 => some t.sup.klo
  | 0x132 => some t.sup.khi
  | 0x140 => some t.sup.ridx
  | 0x141 => some t.sup.rlo
  | 0x142 => some t.sup.rhi
  | _ => none

/-- The bits of such a register that a write changes (08 R170, R171, 19 R346, R347). -/
def writableBits : Nat → Word
  | 0x010 => 0x00001F1FFF0173FF
  | 0x011 => 0x1F0F1F
  | 0x021 | 0x101 => 0xFFFF001F00018F3F
  | 0x050 => 0x0001FFFF01FFFFFF
  | 0x051 => 0xFFFFFF
  | 0x132 => 0xFFFF00FFFFFF
  | 0x140 => 0x3FF000F
  | 0x142 => 3
  | _ => -1

/-- The 80-bit registers. -/
def heldAddr (s : State) (t : Thread) : Nat → Option Addr
  | 0x020 => some t.utvec
  | 0x022 => some t.uepc
  | 0x023 => some t.ufva
  | 0x102 => some t.sup.epc
  | 0x103 => some t.sup.fva
  | 0x104 => some (s.cluster (clusterOf s.tid)).svec
  | 0x107 => some t.sup.sava
  | 0x123 => some t.sup.ctxa
  | _ => none

/-- The general registers, the window file and the outstanding operations are as they were. -/
def KeepsGeneral (s t : State) : Prop :=
  t.th.s = s.th.s ∧ t.th.a = s.th.a ∧ t.th.v = s.th.v ∧ t.th.m = s.th.m ∧ t.th.win = s.th.win ∧ t.th.wfile = s.th.wfile ∧ t.th.outs = s.th.outs

/-! ### Resets, fencing and the host (18 R323–R337; 21 R371–R373) -/

/-- Everything is as at reset but memory, its marks, the fuses and the model's own fields (18 R325). -/
def AfterReset (s t : State) : Prop :=
  t = { State.reset with mem := t.mem, poison := t.poison, stale := t.stale, fuse := s.fuse, inputs := s.inputs, cur := s.cur, serial := s.serial }

/-- A module reset: SRAM reads zero, attached units have lost their keys, other bytes stay (18 R325, 05 R98). -/
def ModuleReset (s t : State) : Prop :=
  AfterReset s t ∧ (s.MemOk → ∀ a, t.byte a = if inSram a then 0 else s.byte a) ∧ ∀ u, (s.attach.find? u).isSome = true → t.stale.find? u = some []

/-- No launch and no resident graph is left. -/
def NoWork (s : State) : Prop := s.launches = [] ∧ s.graphs = []

/-- The module has fenced itself: `MSTAT.state` reads 3 and no interface is left locked or running (21 R373, 20 R365). -/
def Fenced (s t : State) : Prop :=
  t.regs.mstate = 3 ∧ t.regs.modnum = s.regs.modnum ∧ ∀ j < 16, (t.slot j).tdi = if (s.slot j).tdi = .unlocked then .unlocked else .error

/-- A host-port error is logged: the first with its cause and address, and vector 65 is signalled; a later one as overflow (18 R334). -/
def HostError (s t : State) (cause addr : Nat) : Prop :=
  t.threads = s.threads ∧ SameBytes s t ∧
    (s.regs.herrV = false → t.regs = { s.regs with herrV := true, herrCause := cause, herrAddr := BitVec.ofNat 64 addr } ∧ t.msix = s.msix ++ [65]) ∧
    (s.regs.herrV = true → t.regs = { s.regs with herrOvf := true } ∧ t.msix = s.msix)

/-! ### The network engine (20 R360–R364) -/

/-- A packet for queue pair q, not in error, has come in a frame for the engine's UDP port while the engine is enabled. -/
def Arrives (s : State) (q : Nat) (x : QPair) (p : NetPacket) : Prop :=
  netOn s = true ∧ (∀ n ∈ s.ev.slot, n = netPort s) ∧ s.ev.net = some p ∧ p.qp = q ∧ s.qp? q = some x ∧ x.error = false ∧ p.version = 1

/-- The engine may take a command. -/
def NetReady (s : State) : Prop := s.fuse.lite = false ∧ s.net.qpBusy = false ∧ s.net.rgBusy = false

/-- The packets put on the wire by a queue pair, each in its frame. -/
def Puts (s t : State) (x : QPair) (ps : List NetPacket) : Prop := t.net.sent = s.net.sent ++ ps.map (frameOf s x)

/-- Queue pair q is in error, its window empty. -/
def InError (t : State) (q : Nat) : Prop := ∃ y, t.qp? q = some y ∧ y.error = true ∧ y.ready = false ∧ y.unacked = [] ∧ y.recv = none

/-- Work entry bs of queue pair q may be taken: it is the next posted, well formed, and its packets fit in the window (20 R361). -/
def MayTake (s : State) (q : Nat) (x : QPair) (bs : List Byte) : Prop :=
  netOn s = true ∧ s.qp? q = some x ∧ x.ready = true ∧ x.error = false ∧
    (∃ bell, bellOf s x = some bell ∧ x.taken < bell ∧ bell ≤ finishedOf s x + 2 ^ x.k) ∧
    workBytes s x x.taken = some bs ∧ workOk bs = true ∧ psnDiff x.txPsn x.ackPsn + psnCount (natAt bs 4 4) ≤ 1024

/-! ### Fetching (06 R134, 08 R172, R184) -/

/-- The word at a virtual address is the one memory holds at local address a: its page may be fetched from, nothing of its line is poisoned, and the
instruction cache's line holds what memory holds. -/
def WordAt (s : State) (va : Addr) (a : Nat) : Prop :=
  ∃ l v, translate s s.tid va .fetch = .ok l ∧ moduleOf l.pa = s.regs.modnum ∧ localOf l.pa = a ∧ truthBad s (a / 64 * 64) 64 = false ∧
    (s.tile (tileOf s.tid)).icache.find? (l.pa / 64) = some v ∧ lineWord v l.pa = natOfBytes (truthRead s a 4)

/-- The bytes at the PC decode to a well-formed instruction. -/
def InstrAt (s : State) (i : Instr) : Prop :=
  i.WF ∧ ∃ a, WordAt s s.th.pc a ∧ (decode (truthRead s a 4) = (.ok i, 4) ∨
    ∃ b, WordAt s (s.th.pc + 4) b ∧ decode (truthRead s a 4 ++ truthRead s b 4) = (.ok i, 8))

/-- The step issues the current thread's instruction: no packet may leave, no move is to come, nothing was waiting, the thread runs and no
asynchronous cause is taken first. -/
def Issues (s : State) : Prop :=
  s.cur < Config.cores ∧ drainEgress s = none ∧ s.inputs = [] ∧ s.stalled = false ∧ runnable s.th = true ∧ takesPending s.th = false

end Sys2Proof.Machine
end

