-- ==== Sys2Proof/Certificates/Slice0/Obligations.lean ====
section
/-!
DEFINITION. The statements for the provers, each named for what it says; its docstring names the rules it formalises.
-/
open Sys2Proof Sys2Proof.Machine

/-! ### Integer and address instructions, transfers, loops -/

/-- 09 R194, R195 (R75), R165, R193: D of every two-operand integer instruction, its frame and the next PC. -/
def Obligations.IntegerResults : Prop :=
  ∀ (s : State) (i : Instr) (d : SReg) (x : Word), integerResult s.th i = some (d, x) →
    ∃ t, exec i s = .next t ∧ WritesS s t d x ∧ Advances s t 4

/-- 09 R194: `CLZ`, `CTZ`, `POPC`, `BREV`, `BSWAP`, bit by bit.
09 R194: `CMOV` writes A where B is not zero, and leaves D exactly as it was where it is. -/
def Obligations.BitAndMoveResults : Prop :=
  (∀ (s : State) (i : Instr) (d : SReg) (p : Word → Prop), bitResult s.th i = some (d, p) →
      ∃ t x, exec i s = .next t ∧ p x ∧ WritesS s t d x ∧ Advances s t 4) ∧
  (∀ (s : State) (d a b : SReg), ∃ t, exec (.cmov d a b) s = .next t ∧ Advances s t 4 ∧
      if s.th.rs b = 0 then WritesNothing s t else WritesS s t d (s.th.rs a))

/-- 09 R196, R197, R199: immediate forms, constant loads, and the address operations whose result is scalar; `MOVHA` writes bits [79:64] of its
address register. -/
def Obligations.ImmediateResults : Prop :=
  (∀ (s : State) (i : Instr) (n : Nat) (d : SReg) (x : Word), immediateResult s.th i = some (n, d, x) →
    ∃ t, exec i s = .next t ∧ WritesS s t d x ∧ Advances s t n) ∧
  ∀ (s : State) (d : SReg) (a : AReg), ∃ t, exec (.movha d a) s = .next t ∧ WritesS s t d (((s.th.ra a).extractLsb' 64 16).setWidth 64) ∧ Advances s t 4

/-- 09 R198, R199, R200: address results modulo 2^80. -/
def Obligations.AddressResults : Prop :=
  ∀ (s : State) (i : Instr) (n : Nat) (d : AReg) (x : Addr), addressResult s.th i = some (n, d, x) →
    ∃ t, exec i s = .next t ∧ WritesA s t d x ∧ Advances s t n

/-- 09 R201, R205 step 1: a conditional branch, taken or not.
(The model's readings in it: log entry 135 (a body that would wrap past address 2^80 holds no address: the model's choice).) -/
def Obligations.BranchResults : Prop :=
  ∀ (s : State) (i : Instr) (taken : Bool) (o : BitVec 15), branchResult s.th i = some (taken, o) →
    ∃ t, exec i s = .next t ∧
      if taken then JumpsTo s t (s.th.pc + o.signExtend 80 * 4) else WritesNothing s t ∧ Advances s t 4

/-- 09 R202, R203, R205 step 1: `JMP`, `JR` and `RET` to an aligned target; `CALL` and `CALLR` write `a7`, transfer, and leave every loop as it was. A register
transfer to an address that is not a multiple of 4 traps with cause 0x03 and that address, and a call at the last word of an armed loop with
cause 0x01 (08 R185), every earlier instruction having completed; nothing else changes.
(The model's readings in it: log entries 99 and 135 (a body that would wrap past address 2^80 holds no address: the model's choice).) -/
def Obligations.TransferResults : Prop :=
  (∀ (s : State) (i : Instr) (x : Addr), jumpTarget s.th i = some x → ∃ t, exec i s = .next t ∧ JumpsTo s t x) ∧
  (∀ (s : State) (i : Instr) (x : Addr), callTarget s.th i = some x →
      ∃ t, exec i s = .next t ∧ WritesA s t 7 (s.th.pc + 4) ∧ t.th.pc = x ∧ t.th.loop0 = s.th.loop0 ∧ t.th.loop1 = s.th.loop1) ∧
  ∀ (s : State) (a : AReg) (o : BitVec 25), s.th.sup.act = false → Settled s →
    ((s.th.ra a).extractLsb' 0 2 ≠ 0 → ∃ t, exec (.jr a) s = .next t ∧ TrapsExactly s t 0x03 0 (s.th.ra a)) ∧
    ((s.th.ra 7).extractLsb' 0 2 ≠ 0 → ∃ t, exec .ret s = .next t ∧ TrapsExactly s t 0x03 0 (s.th.ra 7)) ∧
    ((s.th.ra a).extractLsb' 0 2 ≠ 0 → ¬ AtEnd s.th.pc 4 s.th.loop0 → ¬ AtEnd s.th.pc 4 s.th.loop1 →
      ∃ t, exec (.callr a) s = .next t ∧ TrapsExactly s t 0x03 0 (s.th.ra a)) ∧
    (AtEnd s.th.pc 4 s.th.loop0 ∨ AtEnd s.th.pc 4 s.th.loop1 →
      (∃ t, exec (.call o) s = .next t ∧ TrapsExactly s t 0x01 0 0) ∧
      ((s.th.ra a).extractLsb' 0 2 = 0 → ∃ t, exec (.callr a) s = .next t ∧ TrapsExactly s t 0x01 0 0))

/-- 09 R204: `LOOP` and `LOOPI` with count c and a body of len + 1 words, where no armed loop ends at them.
(The model's readings in it: log entries 86 and 99.) -/
def Obligations.LoopArming : Prop :=
  ∀ (s : State) (a : SReg) (k : BitVec 11) (len : BitVec 12) (i : Instr) (c : Word),
    (i = .loop a len ∧ c = s.th.rs a) ∨ (i = .loopi k len ∧ c = k.setWidth 64) →
    ¬ AtEnd s.th.pc 4 s.th.loop0 → ¬ AtEnd s.th.pc 4 s.th.loop1 →
    (s.th.loop0.armed = true → s.th.loop1.armed = true → s.th.sup.act = false →
      ∃ t, exec i s = .next t ∧ TrapsExactly s t 0x01 0 0) ∧
    ((s.th.loop0.armed = false ∨ s.th.loop1.armed = false) →
      ∃ t, exec i s = .next t ∧ WritesNothing s t ∧
        (c = 0 → t.th.pc = s.th.pc + 4 * (len.setWidth 80 + 1) + 4 ∧ t.th.loop0 = s.th.loop0 ∧ t.th.loop1 = s.th.loop1) ∧
        (c ≠ 0 → t.th.pc = s.th.pc + 4 ∧ ArmedAfter s.th t.th (s.th.pc + 4) (s.th.pc + 4 * (len.setWidth 80 + 1)) c))

/-- 09 R205 step 2, R206: the next PC and the loops after any instruction that does not transfer.
(The model's readings in it: log entry 86.) -/
def Obligations.LoopBack : Prop := ∀ (t : Thread) (n : Nat), n = 4 ∨ n = 8 → LoopsBack t (t.next n) n

/-- 13 R286, 09 R207: `NOP` changes nothing but the PC; so does a `REALIGN` whose limit is 0 or whose stall has ended, which it ends.
13 R286, 08 R170, R185, R186, 19 R348: `TRAP` (cause 0x12, its code in bits [63:48]) and `BKPT` (0x11) take their exception, in the
user handler or the supervisor's.
(The model's readings in it: log entry 99.) -/
def Obligations.NopsAndTraps : Prop :=
  (∀ s : State, (∃ t, exec .nop s = .next t ∧ WritesNothing s t ∧ Advances s t 4) ∧
      ∀ limit : BitVec 15, (limit = 0 ∨ s.th.hold = some .done) →
        ∃ t, exec (.realign limit) s = .next t ∧ OnlyThread s t ∧ Advances s t 4 ∧
          t.th = { s.th with pc := t.th.pc, loop0 := t.th.loop0, loop1 := t.th.loop1, hold := none }) ∧
  (∀ s : State, s.th.sup.act = false →
      (∀ code : BitVec 12, ∃ t, exec (.trap code) s = .next t ∧ TrapsExactly s t 0x12 code.toNat 0) ∧
        ∃ t, exec .bkpt s = .next t ∧ TrapsExactly s t 0x11 0 0)

/-! ### Vector instructions -/

/-- 11 R231, R234, R236, R237, R239, R240: integer, logic, shift, sign, selection and movement members, lane by lane.
11 R240: `VIOTA` in a float lane type writes the count of active lanes below, exactly; R235: `VFCLASS` writes the class bits of each
lane as stored. -/
def Obligations.LaneResults : Prop :=
  (∀ (s : State) (i : Instr) (k : LaneWork), laneWork s.th i = some k →
      ∃ t x, exec i s = .next t ∧ LanesOf s.th k x ∧ WritesV s t k.d x ∧ Advances s t 4) ∧
  (∀ (s : State) (ty : LaneT) (d a : VReg) (m : MReg), floatLane ty = true →
      (∃ t x, exec (.viota ty d m) s = .next t ∧ WritesV s t d x ∧ Advances s t 4 ∧ ∀ i < laneN ty,
        (Active s.th m i → cmpVal ((laneFmt ty).decode (laneAt x (laneW ty) i)) (.ofInt (activeBelow s.th m i)) = some .eq) ∧
          (¬ Active s.th m i → laneAt x (laneW ty) i = laneAt (s.th.rv d) (laneW ty) i)) ∧
      ∃ t x, exec (.vfclass ty d a m) s = .next t ∧ Advances s t 4 ∧ WritesV s t d x ∧
        LanesOf s.th ⟨ty, d, m, fun i => BitVec.ofNat _ (classBits (floatParts ty).1 (floatParts ty).2 (lane s.th ty a i).toNat)⟩ x)

/-- 11 R238: integer compares write the bits of the active lanes and clear those above the lanes.
11 R239: `MAND`, `MOR` and `MNOT` on all 32 bits.
11 R239–R241: integer reductions over the active lanes, `VMOVS` and `MPOPC`. -/
def Obligations.MaskAndScalarLaneResults : Prop :=
  (∀ (s : State) (i : Instr) (k : MaskWork), maskWork s.th i = some k →
      ∃ t x, exec i s = .next t ∧ BitsOf s.th k x ∧ WritesM s t k.d x ∧ Advances s t 4) ∧
  (∀ (s : State) (d a b : MReg),
      (∃ t, exec (.mand d a b) s = .next t ∧ WritesM s t d (s.th.rm a &&& s.th.rm b) ∧ Advances s t 4) ∧
      (∃ t, exec (.mor d a b) s = .next t ∧ WritesM s t d (s.th.rm a ||| s.th.rm b) ∧ Advances s t 4) ∧
      ∃ t, exec (.mnot d a) s = .next t ∧ WritesM s t d (~~~(s.th.rm a)) ∧ Advances s t 4) ∧
  (∀ (s : State) (i : Instr) (d : SReg) (x : Word), reduceWork s.th i = some (d, x) →
      ∃ t, exec i s = .next t ∧ WritesS s t d x ∧ Advances s t 4)

/-- 11 R231–R234, R243, R244, 03 R71–R74: float arithmetic, functions and conversions. Where no enabled flag is raised the active lanes and
the flags are written; otherwise the instruction traps exactly with cause 0x0F and those flags, and changes nothing. The lanes' one
rounding, the exact sums and products it ends, `VFMIN` and `VFMAX`, and each conversion, over the rationals (08 R188).
(The model's readings in it: log entries 99, 125 (`VFMIN` and `VFMAX` are left unflushed under `VCTL.ftz`: the model's choice) and 141 (an
exact subnormal result of a conversion is flushed: the model's choice).) -/
def Obligations.FloatLaneResults : Prop :=
  (∀ (s : State) (i : Instr) (k : FloatWork), floatWork s.th i = some k →
    (trapping s.th (raised s.th k) = 0 →
      ∃ t x, exec i s = .next t ∧ WritesVFlags s t k.d x (raised s.th k) ∧ Advances s t 4 ∧
        LanesOf s.th ⟨k.ty, k.d, k.m, fun j => BitVec.ofNat _ (k.f j).1⟩ x) ∧
    (trapping s.th (raised s.th k) ≠ 0 → s.th.sup.act = false →
      ∃ t, exec i s = .next t ∧ TrapsWith s t 0x0F (floatCause (trapping s.th (raised s.th k))) 0)) ∧
  (∀ (ty : LaneT) (rm : RMode) (ftz : Bool) (v : Val), floatLane ty = true →
    (∀ q, v = .nan q → roundLane ty rm ftz (v, 0) = (canonicalNan ty, 0)) ∧
    (∀ g, v = .inf g → (laneFmt ty).decode (roundLane ty rm ftz (v, 0)).1 = v ∧ (roundLane ty rm ftz (v, 0)).2 = 0) ∧
    (ratOf v = some 0 → SameVal ((laneFmt ty).decode (roundLane ty rm ftz (v, 0)).1) v ∧ (roundLane ty rm ftz (v, 0)).2 = 0) ∧
    (∀ x, ratOf v = some x → x ≠ 0 → ty ≠ .bf16 → RoundsTo (laneFmt ty) rm ftz x (roundLane ty rm ftz (v, 0))) ∧
    ∀ x, ratOf v = some x → x ≠ 0 → ty = .bf16 → ∃ a, RoundsTo fp32 rm false x a ∧
      (∀ y, ratOf (fp32.decode a.1) = some y → y ≠ 0 → ∃ b, RoundsTo bf16 .even ftz y b ∧ roundLane ty rm ftz (v, 0) = (b.1, a.2 ||| b.2)) ∧
      (ratOf (fp32.decode a.1) = some 0 ∨ (∃ g, fp32.decode a.1 = .inf g) →
        SameVal (bf16.decode (roundLane ty rm ftz (v, 0)).1) (fp32.decode a.1) ∧ (roundLane ty rm ftz (v, 0)).2 = a.2)) ∧
  (∀ (rm : RMode) (a b : Val) (x y : ℚ), ratOf a = some x → ratOf b = some y →
    ratOf (addVal rm a b).1 = some (x + y) ∧ (addVal rm a b).2 = 0 ∧ ratOf (mulVal a b).1 = some (x * y) ∧ (mulVal a b).2 = 0) ∧
  (∀ (ty : LaneT) (daz g : Bool) (x y : Nat), floatLane ty = true →
    PicksOf ty g (readLane ty daz x) (readLane ty daz y) (minMaxLane ty daz g x y)) ∧
  ∀ (v : Word) (dst src : LaneT) (b : Nat) (rm : RMode), dst ≠ src → rm = (if dst = .bf16 then .even else vctlRm v) →
    (floatLane src = true → floatLane dst = true →
      (∀ q, readLane src (v.getLsbD 11) b = .nan q → convLane v dst src b = (canonicalNan dst, if q then flagNv else 0)) ∧
      (∀ x, ratOf (readLane src (v.getLsbD 11) b) = some x → x ≠ 0 → RoundsTo (laneFmt dst) rm (v.getLsbD 10) x (convLane v dst src b)) ∧
      ((ratOf (readLane src (v.getLsbD 11) b) = some 0 ∨ ∃ g, readLane src (v.getLsbD 11) b = .inf g) →
        SameVal ((laneFmt dst).decode (convLane v dst src b).1) (readLane src (v.getLsbD 11) b) ∧ (convLane v dst src b).2 = 0)) ∧
    (floatLane src = true → floatLane dst = false →
      (∀ q, readLane src (v.getLsbD 11) b = .nan q → convLane v dst src b = (0, flagNv)) ∧
      (∀ g, readLane src (v.getLsbD 11) b = .inf g → (convLane v dst src b).2 = flagNv ∧
        BitVec.ofNat (laneW dst) (convLane v dst src b).1 = if g then BitVec.intMin _ else BitVec.intMax _) ∧
      ∀ x, ratOf (readLane src (v.getLsbD 11) b) = some x → IntegerOf (laneW dst) (vctlRm v) x (convLane v dst src b)) ∧
    (floatLane src = false → floatLane dst = true →
      ((BitVec.ofNat (laneW src) b).toInt ≠ 0 → RoundsTo (laneFmt dst) rm (v.getLsbD 10) ((BitVec.ofNat (laneW src) b).toInt : ℚ) (convLane v dst src b)) ∧
      ((BitVec.ofNat (laneW src) b).toInt = 0 → convLane v dst src b = (0, 0))) ∧
    (floatLane src = false → floatLane dst = false →
      BitVec.ofNat (laneW dst) (convLane v dst src b).1 = clampSigned (laneW dst) (BitVec.ofNat (laneW src) b).toInt ∧ (convLane v dst src b).2 = 0)

/-- 11 R238, R241, R242, 03 R74: float compares, float reductions in lane order, and indexed reductions; one step of a reduction and the choice
of an index, over the rationals.
(The model's readings in it: log entries 99, 125 (`VREDMAX` and `VREDMIN` are left unflushed under `VCTL.ftz`: the model's choice) and 141 (each
step of a `VREDADD` is flushed: the model's choice).) -/
def Obligations.FloatReduceResults : Prop :=
  (∀ (s : State) (i : Instr) (k : FloatDest) (flags : Nat), floatReduceWork s.th i = some (k, flags) →
    (trapping s.th flags = 0 → ∃ t, exec i s = .next t ∧ WritesFlags s t k flags ∧ Advances s t 4) ∧
    (trapping s.th flags ≠ 0 → s.th.sup.act = false →
      ∃ t, exec i s = .next t ∧ TrapsWith s t 0x0F (floatCause (trapping s.th flags)) 0)) ∧
  (∀ (v : Word) (ty : LaneT) (g : Bool) (acc y : Nat), floatLane ty = true → (laneFmt ty).decode acc ≠ .nan true →
    PicksOf ty g ((laneFmt ty).decode acc) (readLane ty (v.getLsbD 11) y) (pickLanes v ty g acc y)) ∧
  (∀ (v : Word) (ty : LaneT) (acc y : Nat) (p q : ℚ), floatLane ty = true → ty ≠ .bf16 → ratOf ((laneFmt ty).decode acc) = some p →
    ratOf (readLane ty (v.getLsbD 11) y) = some q → p + q ≠ 0 → RoundsTo (laneFmt ty) (vctlRm v) (v.getLsbD 10) (p + q) (addLanes v ty acc y)) ∧
  ∀ (g : Bool) (xs : List (Nat × Val)), xs.Pairwise (fun a b => a.1 < b.1) → (∀ p ∈ xs, p.1 < 32) →
    (xs = [] → bestLane g xs = -1) ∧
    (∀ i q, (i, Val.nan q) ∈ xs → (∀ j r, (j, Val.nan r) ∈ xs → i ≤ j) → bestLane g xs = BitVec.ofNat 64 i) ∧
    ((∀ p ∈ xs, Ordered p.2) → xs ≠ [] → ∃ p ∈ xs, bestLane g xs = BitVec.ofNat 64 p.1 ∧
      ∀ z ∈ xs, (if g then NotAbove z.2 p.2 else NotAbove p.2 z.2) ∧ (z.1 < p.1 → ¬ if g then NotAbove p.2 z.2 else NotAbove z.2 p.2))

/-! ### Memory accesses -/

/-- 10 R209–R212, R214, 05 R97: a load or pull whose checks pass is outstanding from its issue, over exactly its bytes; a pull, and a load of
another owner's memory or of the host's, counts in `ld`. No register but the PC and no byte of memory changes. -/
def Obligations.LoadsIssued : Prop :=
  ∀ (s : State) (i : Instr) (f : LoadForm) (e : Elem), loadForm s.th i = some f → loadAt s f.va f.size f.size = .ok e → MayAccess s false →
    (s.th.ld < 63 ∨ (f.pull = false ∧ e.place = .own)) →
    ∃ t o counted, exec i s = .next t ∧ t.th.outs = s.th.outs ++ [o] ∧ o.kind = .load f.dest f.order counted ∧ o.va = f.va ∧
      Spans o.elems e.pa f.size ∧ (counted = true ↔ f.pull = true ∨ e.place ≠ .own) ∧
      t.th.ld = (if counted then s.th.ld + 1 else s.th.ld) ∧ t.th.st = s.th.st ∧ IssuesOnly s t ∧ SameBytes s t

/-- 10 R211, R212, R210: a load of own or host memory whose last element is performed writes its register, `LDV` zero above its bytes; a
strong load, or a weak one that meets no copy and no dirty word, reads the point of truth (06 R116, R118, R125). -/
def Obligations.LoadsReturn : Prop :=
  ∀ (s : State) (o : Out) (e : Elem) (dest : Dest) (order : MOrder) (counted : Bool),
    o.serial = s.ev.b → o.kind = .load dest order counted → order ≠ .sync → Performable s s.ev.a o s.ev.c e → LastOf o s.ev.c →
    ((∃ d n sg, dest = .sreg d n sg) ∨ ∃ d, dest = .vreg d) → e.place = .own ∨ e.place = .host →
    dirtyIn s (coreOf s.ev.a) (localOf e.pa) e.size = [] → (order = .weak → (s.core (coreOf s.ev.a)).lines.find? (e.pa / 64) = none) →
    truthBad s (localOf e.pa) e.size = false →
    ∃ t, exec .loadCompletion s = .next t ∧ Delivers s t s.ev.a o (bytesWith o s.ev.c (truthRead s (localOf e.pa) e.size)) ∧
      (L1Fits s (coreOf s.ev.a) → SameBytes s t) ∧ ReturnsTo s t s.ev.a

/-- 10 R214, 05 R104, 20 R356: the owner's port reads a pull's line at the address its own walk gives (19 R343), and the reply that brings its
bytes home writes the register; a line from another module comes with the reply.
(The model's readings in it: log entries 15 and 77.) -/
def Obligations.PullsServed : Prop :=
  ∀ (s : State) (o : Out) (e : Elem) (dest : Dest) (order : MOrder) (counted : Bool), s.ev.flag = false →
    o.serial = s.ev.b → o.kind = .load dest order counted → ((∃ d n sg, dest = .sreg d n sg) ∨ ∃ d, dest = .vreg d) → order ≠ .sync →
    (∀ c pa, Performable s s.ev.a o s.ev.c e → e.place = .cluster c → dirtyIn s (coreOf s.ev.a) (localOf e.pa) e.size = [] →
      portBehind s s.ev.a o.serial s.ev.c e.place (fun f => !f.got) = false → watchBehind s s.ev.a o.serial e.place = false →
      StashFits s (clusterOf s.ev.a) → PortReads s o.phys (some (slotOf s s.ev.a)) e.va e.pa pa → pa % 64 + e.size ≤ 64 →
      truthBad s (localOf pa) e.size = false →
      ∃ t, exec .lineRead s = .next t ∧ (L1Fits s (coreOf s.ev.a) → SameBytes s t) ∧ ReturnsTo s t s.ev.a ∧
        ∃ p, (t.thread s.ev.a).out? o.serial = some p ∧ p.kind = o.kind ∧
          p.elems[s.ev.c]? = some { e with pa := pa, bytes := truthRead s (localOf pa) e.size, got := true, poison := false }) ∧
    ((s.thread s.ev.a).out? o.serial = some o → o.elems[s.ev.c]? = some e → e.home = false → LastOf o s.ev.c → e.poison = false →
      replyBehind s s.ev.a o.serial s.ev.c e = false →
      (∀ c, e.place = .cluster c → e.got = true → (s.ev.line = none → replyFor s (s.ev.b + s.ev.c) = none) →
        ∃ t, exec .lineReply s = .next t ∧ Delivers s t s.ev.a o (bytesWith o s.ev.c e.bytes) ∧ SameBytes s t ∧ ReturnsTo s t s.ev.a) ∧
      (∀ m k v, e.place = .remote m k → e.sent = true → e.pa % 64 + e.size ≤ 64 → s.ev.line = some (.data v) →
        ∃ t, exec .lineReply s = .next t ∧ ReturnsTo s t s.ev.a ∧
          (L1Fits s (coreOf s.ev.a) → StashFits s (clusterOf s.ev.a) → SameBytes s t) ∧
          Delivers s t s.ev.a o (bytesWith o s.ev.c ((List.range e.size).map fun k => byteOf v (e.pa % 64 + k)))))

/-- 10 R211, R212, 06 R116, 05 R106: a store whose checks pass. A strong or release store, and a weak one outside the cached spaces or below 4
bytes, is outstanding with the register's low bytes; a weak one of 4 bytes or more leaves them in L1 as dirty words. Neither changes a
register but the PC, nor memory, where no line must leave for it, but for the core's own dirty words in their 8-byte words, which are written
through first.
(The model's readings in it: log entry 104.) -/
def Obligations.StoresIssued : Prop :=
  ∀ (s : State) (i : Instr) (f : StoreForm) (e : Elem), s.MemOk → storeForm s.th i = some f → storeAt s f.va f.size f.size = .ok e → MayAccess s true →
    (f.order = .weak ∨ s.th.st < 63) →
    (f.order ≠ .weak → ∃ t o, exec i s = .next t ∧ t.th.outs = s.th.outs ++ [o] ∧
      o.kind = .store (if f.order = .sync then some .domain else none) true ∧ Spans o.elems e.pa f.size ∧ Carries o.elems f.size f.value ∧
      t.th.st = s.th.st + 1 ∧ t.th.ld = s.th.ld ∧ IssuesOnly s t ∧ KeepsBytesBut s t s.cur (localOf e.pa) f.size) ∧
    (f.order = .weak → (f.size < 4 ∨ cacheable e.pa = false) → ∃ t os, exec i s = .next t ∧ t.th.outs = s.th.outs ++ os ∧
      (∀ o ∈ os, o.kind = .store none false) ∧ Spans (os.flatMap (·.elems)) e.pa f.size ∧ Carries (os.flatMap (·.elems)) f.size f.value ∧
      t.th.st = s.th.st ∧ t.th.ld = s.th.ld ∧ IssuesOnly s t ∧ KeepsBytesBut s t s.cur (localOf e.pa) f.size) ∧
    (f.order = .weak → 4 ≤ f.size → cacheable e.pa = true → (∀ o ∈ s.th.outs, ∀ x ∈ wordsOf e, o.touches x = false) →
      (∀ x ∈ wordsOf e, mxBehind s s.tid s.serial x = false) →
      ∃ t, exec i s = .next t ∧ t.th.outs = s.th.outs ∧ t.th.st = s.th.st ∧ t.th.ld = s.th.ld ∧ IssuesOnly s t ∧ (L1Fits s s.cur → SameBytes s t ∧
        (∀ k < f.size / 4, ∃ d, (t.core s.cur).dirty.find? (localOf e.pa / 4 + k) = some d ∧ d.tid = s.tid ∧
          d.val = f.value.extractLsb' (32 * k) 32) ∧
        ∀ w, (w < localOf e.pa / 4 ∨ localOf e.pa / 4 + f.size / 4 ≤ w) → ((t.core s.cur).dirty.find? w).map (fun d => (d.val, d.tid)) = ((s.core s.cur).dirty.find? w).map fun d => (d.val, d.tid)))

/-- 10 R216, R218: an atomic or a sequence advance whose checks pass is outstanding with its operands; an advance counts in `st`.
(The model's readings in it: log entry 104.) -/
def Obligations.AtomicsIssued : Prop :=
  (∀ (s : State) (i : Instr) (op : AmoOp) (wide : Bool) (o : AOrder) (d : SReg) (a : AReg) (b : SReg) (e : Elem),
    s.MemOk → amoForm i = some (op, wide, o, d, a, b) → storeAt s (s.th.ra a) (if wide then 8 else 4) (if wide then 8 else 4) = .ok e → MayAccess s true →
    ∃ t x, exec i s = .next t ∧ t.th.outs = s.th.outs ++ [x] ∧ x.kind = .amo op o d (s.th.rs b) (s.th.rs d) ∧ x.elems = [e] ∧
      t.th.st = s.th.st ∧ t.th.ld = s.th.ld ∧ IssuesOnly s t ∧ KeepsBytesBut s t s.cur (localOf e.pa) e.size) ∧
  ∀ (s : State) (i : Instr) (add : Bool) (sc : Scope) (d : SReg) (a : AReg) (b : SReg) (e : Elem),
    s.MemOk → seqForm i = some (add, sc, d, a, b) → storeAt s (s.th.ra a) 8 8 = .ok e → MayAccess s true → s.th.st < 63 →
    ∃ t x, exec i s = .next t ∧ t.th.outs = s.th.outs ++ [x] ∧ x.kind = .seqadv add sc d (s.th.rs b) ∧ x.elems = [e] ∧
      t.th.st = s.th.st + 1 ∧ t.th.ld = s.th.ld ∧ IssuesOnly s t ∧ KeepsBytesBut s t s.cur (localOf e.pa) 8

/-- 06 R118, 10 R211, 05 R106: performing the element of an outstanding store, or writing a dirty word through, alone or both halves that one store
wrote at once, puts its bytes at the point of truth and changes no other byte of it; the store then no longer counts. A release (06 R117, R122; 10
R217) waits while an earlier operation of its thread is owed; a release store with nothing before it is performed as any store, and a release fence
leaves its core nothing dirty and, at domain scope, its cluster's own stash lines clean.
(The model's readings in it: log entry 104.) -/
def Obligations.StoresPerformed : Prop :=
  (∀ (s : State) (o : Out) (e : Elem) (release : Option Scope) (counted : Bool), s.MemOk → o.serial = s.ev.b → o.kind = .store release counted →
    o.elems = [e] → s.ev.c = 0 → (∀ sc, release = some sc → Drained s s.ev.a o sc) →
    Performable s s.ev.a o 0 e → e.bytes.length = e.size → writeDiscarded s (localOf e.pa) = false → (spaceOf (localOf e.pa)).cluster? ≠ none →
    ∃ t, exec .storePerformed s = .next t ∧ Stores s t (localOf e.pa) e.size (BitVec.ofNat 512 (natOfBytes e.bytes)) ∧
      (t.thread s.ev.a).out? o.serial = none ∧ (t.thread s.ev.a).st = (if counted then (s.thread s.ev.a).st - 1 else (s.thread s.ev.a).st) ∧
      (t.thread s.ev.a).s = (s.thread s.ev.a).s ∧ (t.thread s.ev.a).v = (s.thread s.ev.a).v ∧ ReturnsTo s t s.ev.a) ∧
  (∀ (s : State) (o : Out), (s.thread s.ev.a).out? s.ev.b = some o → o.serial = s.ev.b →
    ((((∃ sc counted, o.kind = .store (some sc) counted) ∨ (∃ add sc d y, o.kind = .seqadv add sc d y) ∨ (∃ y, o.kind = .baradd y) ∨
        ∃ sc, o.kind = .fence sc) → (∃ x ∈ (s.thread s.ev.a).owed, x.serial < o.serial) → exec .storePerformed s = .next s) ∧
    ∀ sc, o.kind = .fence sc → (∀ x ∈ (s.thread s.ev.a).owed, o.serial ≤ x.serial) → (s.tile (tileOf s.ev.a)).queue = [] →
      ∃ t, exec .storePerformed s = .next t ∧ (t.thread s.ev.a).out? s.ev.b = none ∧ (t.thread s.ev.a).st = (s.thread s.ev.a).st - 1 ∧
        (t.core (coreOf s.ev.a)).dirty = [] ∧ (sc = .domain → StashClean t (clusterOf s.ev.a)) ∧
        (t.thread s.ev.a).s = (s.thread s.ev.a).s ∧ (t.thread s.ev.a).v = (s.thread s.ev.a).v ∧ ReturnsTo s t s.ev.a)) ∧
  ∀ (s : State) (d : DirtyWord), s.MemOk → (s.core s.ev.a).dirty.find? s.ev.b = some d → (s.core s.ev.a).dirtyBad.contains s.ev.b = false →
    writeDiscarded s (s.ev.b * 4) = false → (spaceOf (s.ev.b * 4)).cluster? ≠ none → LineFits s (s.ev.b * 4) →
    ((d.link = .free ∨ (s.core s.ev.a).dirty.find? (otherHalf s.ev.b) = none) →
      ∃ t, exec .l1WriteThrough s = .next t ∧ Stores s t (s.ev.b * 4) 4 d.val ∧ (∀ k, t.thread k = s.thread k) ∧ UnitsKept s t) ∧
    (∀ p, d.link = .whole → s.ev.b % 2 = 0 → (s.core s.ev.a).dirty.find? (s.ev.b + 1) = some p → (s.core s.ev.a).dirtyBad.contains (s.ev.b + 1) = false →
      ∃ t, exec .l1WriteThrough s = .next t ∧ Stores s t (s.ev.b * 4) 8 (p.val ++ d.val) ∧ (∀ k, t.thread k = s.thread k) ∧ UnitsKept s t)

/-- 10 R216, 06 R128: an atomic, performed, returns the old value sign-extended and leaves the new one; with release order it is performed once
nothing of its thread is before it, with acquire order the copies of domain scope are dropped (06 R117, R122, R123). An advance of any scope
keeps the maximum or the saturated sum and returns the old value (10 R218). -/
def Obligations.AtomicsPerformed : Prop :=
  ∀ (s : State) (o : Out) (e : Elem), s.MemOk → o.serial = s.ev.b → o.elems = [e] → Performable s s.ev.a o 0 e → localOf e.pa % e.size = 0 →
    writeDiscarded s (localOf e.pa) = false → (spaceOf (localOf e.pa)).cluster? ≠ none → truthBad s (localOf e.pa) e.size = false →
    dirtyNear s (coreOf s.ev.a) (localOf e.pa) e.size = [] →
    (∀ op d y x, o.kind = .amo op .none d y x → e.size = 8 →
      ∃ t, exec .atomicPerformed s = .next t ∧ Stores s t (localOf e.pa) 8 (amoResult 64 op (truthWord s (localOf e.pa)) y x) ∧
        GivesS s t s.ev.a o.phys d (truthWord s (localOf e.pa)) ∧ (t.thread s.ev.a).out? o.serial = none ∧ ReturnsTo s t s.ev.a) ∧
    (∀ op d y x, o.kind = .amo op .none d y x → e.size = 4 →
      ∃ t old, exec .atomicPerformed s = .next t ∧ old = BitVec.ofNat 32 (natOfBytes (truthRead s (localOf e.pa) 4)) ∧
        Stores s t (localOf e.pa) 4 (amoResult 32 op old (y.setWidth 32) (x.setWidth 32)) ∧
        GivesS s t s.ev.a o.phys d (old.signExtend 64) ∧ (t.thread s.ev.a).out? o.serial = none ∧ ReturnsTo s t s.ev.a) ∧
    (∀ op order d y x, o.kind = .amo op order d y x → e.size = 4 ∨ e.size = 8 → (order = .rel ∨ order = .ar → Drained s s.ev.a o .domain) →
      (order = .acq ∨ order = .ar → ∀ l ∈ (s.cluster (clusterOf s.ev.a)).stashLines, l.2.owned = true) →
      ∃ t old, exec .atomicPerformed s = .next t ∧ old = BitVec.ofNat (8 * e.size) (natOfBytes (truthRead s (localOf e.pa) e.size)) ∧
        Stores s t (localOf e.pa) e.size (amoResult (8 * e.size) op old (y.setWidth (8 * e.size)) (x.setWidth (8 * e.size))) ∧
        GivesS s t s.ev.a o.phys d (old.signExtend 64) ∧ (t.thread s.ev.a).out? o.serial = none ∧ OthersFill s t s.ev.a ∧ UnitsKept s t ∧
        (order = .acq ∨ order = .ar → Acquired t s.ev.a)) ∧
    (∀ op order d y x, o.kind = .amo op order d y x → order = .rel ∨ order = .ar → (∃ z ∈ (s.thread s.ev.a).owed, z.serial < o.serial) →
      exec .atomicPerformed s = .next s) ∧
    (∀ add sc d y, o.kind = .seqadv add sc d y → e.size = 8 → s.ev.c = 0 → Drained s s.ev.a o sc →
      ∃ t, exec .storePerformed s = .next t ∧
        Stores s t (localOf e.pa) 8 (if add then (if (truthWord s (localOf e.pa)).toNat + y.toNat < 2 ^ 64 then truthWord s (localOf e.pa) + y else -1)
          else if (truthWord s (localOf e.pa)).toNat ≤ y.toNat then y else truthWord s (localOf e.pa)) ∧
        GivesS s t s.ev.a o.phys d (truthWord s (localOf e.pa)) ∧ (t.thread s.ev.a).out? o.serial = none ∧
        (t.thread s.ev.a).st = (s.thread s.ev.a).st - 1 ∧ ReturnsTo s t s.ev.a)

/-- 10 R217, R215, 06 R127: a release fence is outstanding and counts in `st`, and stores wait behind it; an acquire fence waits for the thread's
reads, a full one for everything, its accepted matrix instructions included from tile scope, and one that counts for room in `st`; each then
completes. `PREF` never traps: an address that fails its checks changes nothing, and no form changes a
byte where no line must leave for the one it fetches. -/
def Obligations.FencesAndPrefetch : Prop :=
  ∀ (s : State) (sc : Scope),
    (s.th.st < 63 → ∃ t o, exec (.fence .rel sc) s = .next t ∧ t.th.outs = s.th.outs ++ [o] ∧ o.kind = .fence sc ∧ o.elems = [] ∧
      t.th.st = s.th.st + 1 ∧ IssuesOnly s t ∧ SameBytes s t) ∧
    ((∀ o ∈ s.th.outs, o.reads = false) → ∃ t, exec (.fence .acq sc) s = .next t ∧ t.th.pc = (s.th.next 4).pc ∧ t.th.s = s.th.s ∧ t.th.v = s.th.v ∧
      SameBytes s t ∧ UnitsKept s t ∧
      (sc = .domain → (∀ l ∈ (t.core s.cur).lines, l.2.readOnly = true) ∧ ∀ l ∈ (t.cluster (clusterOf s.tid)).remote, l.2.tag ≠ none)) ∧
    ((∀ o ∈ s.th.outs, o.reads = false) → s.th.st < 63 → ∃ t o, exec (.fence .ar sc) s = .next t ∧ o ∈ t.th.outs ∧ o.kind = .fence sc ∧
      t.th.st = s.th.st + 1 ∧ t.th.pc = (s.th.next 4).pc ∧ t.th.s = s.th.s ∧ SameBytes s t) ∧
    (s.th.outs = [] → (s.tile (tileOf s.tid)).queue = [] → ∃ t, exec (.fence .full sc) s = .next t ∧ t.th.pc = (s.th.next 4).pc ∧ t.th.s = s.th.s ∧
      t.th.v = s.th.v ∧ t.th.outs = [] ∧ UnitsKept s t) ∧
    (∀ k, ((k = .acq ∨ k = .ar) ∧ (∃ o ∈ s.th.outs, o.reads = true)) ∨
        (k = .full ∧ (s.th.owed ≠ [] ∨ (sc ≠ .thread ∧ ∃ q ∈ (s.tile (tileOf s.tid)).queue, q.tid = s.tid ∧ q.serial < s.serial))) ∨
        ((k = .rel ∨ k = .ar) ∧ 63 ≤ s.th.st) → ∃ t, exec (.fence k sc) s = .next t ∧ Waited s t) ∧
    (∀ i f e, storeForm s.th i = some f → storeAt s f.va f.size f.size = .ok e → (∃ o ∈ s.th.outs, o.isFence = true) →
      ∃ t, exec i s = .next t ∧ Waited s t) ∧
    ∀ (hint : BitVec 5) (a : AReg) (off : BitVec 12), (∀ o ∈ s.th.outs, o.acquires = false) →
      ∃ t, exec (.pref hint a off) s = .next t ∧ (L1Fits s s.cur → StashFits s (clusterOf s.tid) → SameBytes s t) ∧ IssuesOnly s t ∧ t.th.ld = s.th.ld ∧
        (∀ c, loadAt s (mAddr s.th a off 64 &&& ~~~(63 : Addr)) 64 64 = .error c → WritesNothing s t)

/-- 08 R187, R188, 19 R341, 01 R17: the checks of an access outside a supervisor handler, in their order: alignment (0x03), translation (0x05; of
an address of another cluster only its walk), the permission to write (0x06), own or host memory, the key (0x07). The first that fails
traps exactly, with the address.
(The model's readings in it: log entry 99.) -/
def Obligations.AccessChecks : Prop :=
  (∀ (s : State) (i : Instr) (f : LoadForm), loadForm s.th i = some f → s.th.sup.act = false →
    (∀ c, loadFault s f.va f.size = some c → ∃ t, exec i s = .next t ∧ TrapsExactly s t c 0 f.va) ∧
    (loadFault s f.va f.size = none → ∃ e l, loadAt s f.va f.size f.size = .ok e ∧ walkSlot s (slotOf s s.tid) f.va = some l ∧ e.pa = l.pa ∧
      e.va = f.va ∧ e.size = f.size ∧ e.place = placeOf s (clusterOf s.tid) l.pa)) ∧
  ∀ (s : State) (i : Instr) (va : Addr) (n : Nat), storesAt s.th i = some (va, n) → s.th.sup.act = false →
    (∀ c, loadFault s va n = some c → ∃ t, exec i s = .next t ∧ TrapsExactly s t c 0 va) ∧
    ∀ l, loadFault s va n = none → walkSlot s (slotOf s s.tid) va = some l →
      (l.w = false → ∃ t, exec i s = .next t ∧ TrapsExactly s t 0x06 0 va) ∧
      (l.w = true → placeOf s (clusterOf s.tid) l.pa ≠ .own → placeOf s (clusterOf s.tid) l.pa ≠ .host →
        ∃ t, exec i s = .next t ∧ TrapsExactly s t 0x06 0 va) ∧
      (l.w = true → placeOf s (clusterOf s.tid) l.pa = .host → ∃ t, exec i s = .next t ∧ TrapsExactly s t 0x07 0 va) ∧
      (l.w = true → placeOf s (clusterOf s.tid) l.pa = .own → ¬ HoldsKeys s (localOf l.pa) n →
        ∃ t, exec i s = .next t ∧ TrapsExactly s t 0x07 0 va) ∧
      (l.w = true → placeOf s (clusterOf s.tid) l.pa = .own → HoldsKeys s (localOf l.pa) n →
        ∃ e, storeAt s va n n = .ok e ∧ e.pa = l.pa ∧ e.va = va ∧ e.size = n ∧ e.place = .own)

/-- 11 R245–R247: a gather is one outstanding load of its active lanes, in lane order; a scatter of 2-byte lanes is outstanding, one of wider
lanes leaves each word in L1 as its last active lane writes it; a lane that fails its checks traps with its number.
(The model's readings in it: log entries 23 and 99.) -/
def Obligations.GatherAndScatter : Prop :=
  ∀ (s : State) (ty : LaneT) (d b : VReg) (a : AReg) (m : MReg),
    (∀ es, checkLanes (fun i => loadAt s (laneVa s.th ty a b i) (laneW ty / 8) (laneW ty / 8)) (activeList s.th ty m) = .ok es →
      MayAccess s false → s.th.ld < 63 →
      (es = [] → ∃ t, exec (.vgather ty d a b m) s = .next t ∧ WritesNothing s t ∧ Advances s t 4) ∧
      (es ≠ [] → ∃ t o counted, exec (.vgather ty d a b m) s = .next t ∧ t.th.outs = s.th.outs ++ [o] ∧
        o.kind = .load (.lanes d (laneW ty)) .weak counted ∧ o.elems = markSent s s.tid s.serial .weak es ∧ es.map (·.lane) = activeList s.th ty m ∧
        (∀ e ∈ es, e.va = laneVa s.th ty a b e.lane ∧ e.size = laneW ty / 8) ∧ IssuesOnly s t ∧ SameBytes s t)) ∧
    (∀ es, checkLanes (fun i => storeAt s (laneVa s.th ty a b i) (laneW ty / 8) (laneW ty / 8)) (activeList s.th ty m) = .ok es →
      MayAccess s true → s.th.outs = [] → (s.tile (tileOf s.tid)).queue = [] →
      (laneW ty = 16 → ∃ t os, exec (.vscatter ty d a b m) s = .next t ∧ t.th.outs = os ∧ IssuesOnly s t ∧
        os.flatMap (·.elems) = es.map fun e => { e with bytes := (List.range 2).map fun k => byteOf (lane s.th ty d e.lane) k }) ∧
      ((∀ e ∈ es, cacheable e.pa = true ∧ localOf e.pa % (laneW ty / 8) = 0) → 32 ≤ laneW ty →
        ∃ t, exec (.vscatter ty d a b m) s = .next t ∧ t.th.outs = [] ∧ IssuesOnly s t ∧ (L1Fits s s.cur → SameBytes s t ∧
          ∀ (j : Nat) (e : Elem), es[j]? = some e → (∀ (k : Nat) (x : Elem), j < k → es[k]? = some x → localOf x.pa ≠ localOf e.pa) → ∀ k < laneW ty / 32,
            ((t.core s.cur).dirty.find? (localOf e.pa / 4 + k)).map (·.val) = some ((lane s.th ty d e.lane).extractLsb' (32 * k) 32)))) ∧
    (∀ c, checkLanes (fun i => loadAt s (laneVa s.th ty a b i) (laneW ty / 8) (laneW ty / 8)) (activeList s.th ty m) = .error c →
      s.th.sup.act = false → ∃ t, exec (.vgather ty d a b m) s = .next t ∧ TrapsExactly s t c.code c.detail (laneVa s.th ty a b c.detail)) ∧
    ∀ c, checkLanes (fun i => storeAt s (laneVa s.th ty a b i) (laneW ty / 8) (laneW ty / 8)) (activeList s.th ty m) = .error c →
      s.th.sup.act = false → ∃ t, exec (.vscatter ty d a b m) s = .next t ∧ TrapsExactly s t c.code c.detail (laneVa s.th ty a b c.detail)

/-! ### Watches, waits, barriers, keys -/

/-- 05 R108–R110, 10 R219: `WATCH` places its request and completes; at the owner's port a word at or above the threshold answers, one below it
enters the watch table; the answer, once no earlier one of its port to its core is on the way (06 R129), reaches the slot that holds the
request's number. -/
def Obligations.WatchesWork : Prop :=
  (∀ (s : State) (sc : Scope) (slot : BitVec 3) (a : AReg) (b : SReg) (e : Elem), s.MemOk → loadAt s (s.th.ra a) 8 8 = .ok e → e.place ≠ .host →
    MayAccess s false → meets s [e] = false →
    ∃ t r, exec (.watch sc slot a b) s = .next t ∧ t.th.slotAt slot = .placed (s.th.ra a) sc s.serial ∧
      (∀ k, k ≠ slot → t.th.slotAt k = s.th.slotAt k) ∧ t.watchReqs = s.watchReqs ++ [r] ∧ r.tid = s.tid ∧ r.serial = s.serial ∧ r.pa = e.pa ∧
      r.threshold = s.th.rs b ∧ r.scope = sc ∧ KeepsBytesBut s t s.cur (localOf e.pa) 8 ∧ Advances s t 4 ∧
      t.th = { s.th with pc := t.th.pc, loop0 := t.th.loop0, loop1 := t.th.loop1, slots := t.th.slots } ∧ OthersKept s t s.tid ∧ UnitsKept s t) ∧
  (∀ (s : State) (r : WatchReq) (d c pa : Nat), s.ev.flag = false → s.watchReqs[s.ev.a]? = some r → r.place = .cluster d →
    watchBehind s r.tid r.serial r.place = false → portBehind s r.tid r.serial 0 r.place (fun e => !e.got) = false →
    PortReads s r.phys (slotOfAsid s r.asid) r.va r.pa pa → (spaceOf (localOf pa)).cluster? = some c → truthPoison s (localOf pa) = false →
    (r.threshold.toNat ≤ (truthWord s (localOf pa)).toNat → ∃ t, exec .watchRequest s = .next t ∧
      t = { s with watchReqs := s.watchReqs.take s.ev.a ++ s.watchReqs.drop (s.ev.a + 1), regs := { s.regs with pstate := t.regs.pstate }
                   watchAnss := s.watchAnss ++ [⟨r.tid, r.serial, pa, truthWord s (localOf pa), .normal⟩] }) ∧
    ((truthWord s (localOf pa)).toNat < r.threshold.toNat → (s.cluster c).watches.length < 1024 → ∃ t, exec .watchRequest s = .next t ∧
      t.watchReqs = s.watchReqs.take s.ev.a ++ s.watchReqs.drop (s.ev.a + 1) ∧ SameBytes s t ∧ t.threads = s.threads ∧ t.watchAnss = s.watchAnss ∧
      UnitsWoken s t ∧
      (t.cluster c).watches = (s.cluster c).watches ++ [{ word := localOf pa, threshold := r.threshold, tid := r.tid, serial := r.serial }])) ∧
  ∀ (s : State) (x : WatchAns) (n : Nat) (k : BitVec 3) (va : Addr) (sc : Scope), s.ev.flag = false → s.watchAnss[s.ev.a]? = some x →
    (answerBehind s s.ev.a x = true → exec .watchAnswer s = .next s) ∧
    (answerBehind s s.ev.a x = false → (s.thread n).slotAt k = .placed va sc x.serial → ∃ t, exec .watchAnswer s = .next t ∧
      (t.thread n).slotAt k = .answered va sc x.gpa x.value x.status ∧ (t.thread n).pc = (s.thread n).pc ∧ (t.thread n).s = (s.thread n).s ∧
      t.watchAnss = s.watchAnss.take s.ev.a ++ s.watchAnss.drop (s.ev.a + 1) ∧ SameBytes s t ∧
      ∀ i, (∀ va sc, ∀ j, (s.thread i).slotAt j ≠ .placed va sc x.serial) → t.thread i = s.thread i)

/-- 10 R220–R222, 05 R109, R111: `WAITW` on a free slot gives 0, on an answered one the value, and frees the slot; `WAITA` completes with the
word once it meets its condition; `WAITC` completes once no counter is above its limit, 31 being none. -/
def Obligations.WaitsComplete : Prop :=
  ∀ s : State, cancelled s s.tid = false →
    (∀ d slot, s.th.slotAt slot = .free → ∃ t, exec (.waitw d slot) s = .next t ∧ WritesS s t d 0 ∧ Advances s t 4) ∧
    (∀ d slot va sc gpa x, s.th.slotAt slot = .answered va sc gpa x .normal → ∃ t, exec (.waitw d slot) s = .next t ∧
      t.th.rs d = (if d = 0 then 0 else x) ∧ (∀ r, r ≠ d → t.th.rs r = s.th.rs r) ∧ t.th.slotAt slot = .free ∧ t.th.fill = some (gpa, x) ∧
      t.th.v = s.th.v ∧ Advances s t 4 ∧ SameBytes s t ∧ UnitsKept s t) ∧
    (∀ d slot va sc gpa x, s.th.slotAt slot = .answered va sc gpa x .full → ∃ t, exec (.waitw d slot) s = .next t ∧
      t.th.rs d = (if d = 0 then 0 else x) ∧ (∀ r, r ≠ d → t.th.rs r = s.th.rs r) ∧ t.th.slotAt slot = .free ∧ t.th.fill = s.th.fill ∧
      t.th.v = s.th.v ∧ Advances s t 4 ∧ OnlyThread s t) ∧
    (∀ ge d a b e, ownAt s (s.th.ra a) 8 8 true = .ok e → MayAccess s false → meets s [e] = false → LineFits s (localOf e.pa) →
      dirtyIn s s.cur (localOf e.pa) 8 = [] → truthBad s (localOf e.pa) 8 = false →
      (truthWord s (localOf e.pa) = s.th.rs b ∨ (ge = true ∧ (s.th.rs b).toNat ≤ (truthWord s (localOf e.pa)).toNat)) →
      ∃ t, exec (.waita ge false d a b) s = .next t ∧ ReturnsS s t d (truthWord s (localOf e.pa)) (localOf e.pa) ∧ Advances s t 4) ∧
    (∀ ldl stl cpl mxl : BitVec 5, (ldl = 31 ∨ s.th.ld ≤ ldl.toNat) → (stl = 31 ∨ s.th.st ≤ stl.toNat) → (cpl = 31 ∨ s.th.cp ≤ cpl.toNat) →
      (mxl = 31 ∨ s.th.mx ≤ mxl.toNat) → ∃ t, exec (.waitc ldl stl cpl mxl) s = .next t ∧ WritesNothing s t ∧ Advances s t 4)

/-- 10 R223, 05 R113: `BARINIT` writes count, next generation, count and zeros and returns the generation; `BARADD` is an outstanding release of
cluster scope that, performed, subtracts from the remaining count, saturated, raises the events by 1 and changes no other byte; `BARWAIT` completes once the generation has passed, or is its own with nothing remaining. -/
def Obligations.Barriers : Prop :=
  ∀ (s : State) (d : SReg) (a : AReg) (b : SReg) (e : Elem), s.MemOk →
    (barrierAt s (s.th.ra a) true = .ok e → MayAccess s true → meets s [e] = false → dirtyIn s s.cur (localOf e.pa) 64 = [] →
      truthBad s (localOf e.pa + 8) 8 = false → writeDiscarded s (localOf e.pa) = false → LineFits s (localOf e.pa) →
      ∃ t gen, exec (.barinit d a b) s = .next t ∧ gen = truthWord s (localOf e.pa + 8) + 1 ∧ t.th.rs d = (if d = 0 then 0 else gen) ∧
        (∀ r, r ≠ d → t.th.rs r = s.th.rs r) ∧ t.th.v = s.th.v ∧ Advances s t 4 ∧ OthersKept s t s.tid ∧ UnitsKept s t ∧
        Stores s t (localOf e.pa) 64 ((s.th.rs b).setWidth 512 + (gen.setWidth 512 <<< 64) + ((s.th.rs b).setWidth 512 <<< 128))) ∧
    (barrierAt s (s.th.ra a) true = .ok e → MayAccess s true → ∃ t o, exec (.baradd a b) s = .next t ∧ t.th.outs = s.th.outs ++ [o] ∧
      o.kind = .baradd (s.th.rs b) ∧ o.elems = [e] ∧ t.th.st = s.th.st ∧ IssuesOnly s t ∧ KeepsBytesBut s t s.cur (localOf e.pa) 64) ∧
    (barrierAt s (s.th.ra a) false = .ok e → MayAccess s false → meets s [e] = false → cancelled s s.tid = false →
      LineFits s (localOf e.pa) → dirtyIn s s.cur (localOf e.pa) 16 = [] → truthBad s (localOf e.pa) 16 = false →
      ((s.th.rs b).toNat < (truthWord s (localOf e.pa + 8)).toNat ∨
        (truthWord s (localOf e.pa + 8) = s.th.rs b ∧ (truthWord s (localOf e.pa)).toInt ≤ 0)) →
      ∃ t, exec (.barwait a b) s = .next t ∧ t.th.pc = (s.th.next 4).pc ∧ t.th.s = s.th.s ∧ t.th.v = s.th.v ∧ SameBytes s t ∧ UnitsKept s t) ∧
    ∀ (o : Out) (y : Word), o.serial = s.ev.b → o.kind = .baradd y → o.elems = [e] → s.ev.c = 0 → e.size = 64 → Performable s s.ev.a o 0 e →
      Drained s s.ev.a o .cluster → writeDiscarded s (localOf e.pa) = false → (spaceOf (localOf e.pa)).cluster? ≠ none →
      truthBad s (localOf e.pa) 32 = false →
      ∃ t, exec .storePerformed s = .next t ∧
        truthWord t (localOf e.pa) = clampSigned 64 ((truthWord s (localOf e.pa)).toInt - y.toInt) ∧
        truthWord t (localOf e.pa + 24) = truthWord s (localOf e.pa + 24) + 1 ∧
        (∀ x, (x < localOf e.pa ∨ localOf e.pa + 8 ≤ x) → (x < localOf e.pa + 24 ∨ localOf e.pa + 32 ≤ x) → truthByte t x = truthByte s x) ∧
        (t.thread s.ev.a).out? o.serial = none ∧ (t.thread s.ev.a).s = (s.thread s.ev.a).s ∧ (t.thread s.ev.a).st = (s.thread s.ev.a).st ∧
        ReturnsTo s t s.ev.a

/-- 10 R224–R227: on the live entry of the thread's job that covers the address, `KEYGIVE` by its holder makes another thread pending with no
holder, any other code the holder; `KEYTAKE` by the pending thread makes it the holder; `KEYQRY` gives the entry's fields, and 0 where there is none.
`KEYGIVE` and `KEYTAKE` there trap with 0x07 and the operand's address (the model's reading: log entry 33).
(The model's readings in it: log entries 6, 33 and 99.) -/
def Obligations.WriterKeys : Prop :=
  ∀ (s : State) (d : SReg) (a : AReg) (b : SReg) (x i : Nat) (e : KeyEntry), s.th.sup.act = false → keyPlace s (s.th.ra a) = .ok x →
    (keyAt (s.cluster (clusterOf s.tid)) (x / 4096) = some (i, e) → e.job = slotOf s s.tid →
      (e.holder = codeOf s.tid → givable s ((s.th.rs b).toNat % 256) = true → MayAccess s true → regionBusy s e = false →
        (s.core s.cur).dirty = [] → (s.th.rs b).toNat % 256 ≠ codeOf s.tid →
        ∃ t, exec (.keygive a b) s = .next t ∧ WritesNothing (s.updCluster (clusterOf s.tid) fun _ => t.cluster (clusterOf s.tid)) t ∧
          Advances s t 4 ∧ (t.cluster (clusterOf s.tid)).keys.find? i = some (if (s.th.rs b).toNat % 256 < 0x90 then
            { e with holder := 0xFF, pending := (s.th.rs b).toNat % 256 } else { e with holder := (s.th.rs b).toNat % 256, pending := 0xFF })) ∧
      (e.pending = codeOf s.tid → MayAccess s false → ∃ t, exec (.keytake d a) s = .next t ∧ t.th.rs d = 0 ∧ Advances s t 4 ∧ SameBytes s t ∧
        (t.cluster (clusterOf s.tid)).keys.find? i = some { e with holder := codeOf s.tid, pending := 0xFF }) ∧
      (e.pending ≠ codeOf s.tid → ∃ t, exec (.keytake d a) s = .next t ∧ WritesS s t d (if e.holder = codeOf s.tid then 1 else 2) ∧ Advances s t 4) ∧
      (i < 4096 → e.len < 2 ^ 24 → e.lender < 256 → e.pending < 256 → e.holder < 256 →
        ∃ t w, exec (.keyqry d a) s = .next t ∧ WritesS s t d w ∧ Advances s t 4 ∧ w.getLsbD 0 = true ∧
          w.getLsbD 1 = decide (e.pending = codeOf s.tid) ∧ w.getLsbD 2 = decide (e.holder = codeOf s.tid) ∧
          w.getLsbD 3 = decide (e.lender ≠ 0xFF) ∧ (w.extractLsb' 4 8).toNat = e.holder ∧ (w.extractLsb' 12 8).toNat = e.pending ∧
          (w.extractLsb' 20 8).toNat = e.lender ∧ (w.extractLsb' 28 24).toNat = e.len ∧ (w.extractLsb' 52 12).toNat = i)) ∧
    (keyAt (s.cluster (clusterOf s.tid)) (x / 4096) = none →
      (∃ t, exec (.keyqry d a) s = .next t ∧ WritesS s t d 0 ∧ Advances s t 4) ∧
      (∃ t, exec (.keygive a b) s = .next t ∧ TrapsExactly s t 0x07 0 (s.th.ra a)) ∧
      ∃ t, exec (.keytake d a) s = .next t ∧ TrapsExactly s t 0x07 0 (s.th.ra a))

/-- 05 R100, R103, 10 R228, R229: a configuration block that names no range and takes no way from scratch sets the cluster's way counts, and `sd` gets the
counts before, once the block's bytes are read and no access of the cluster is in flight.
(The model's readings in it: log entries 30 and 31.) -/
def Obligations.StashConfiguration : Prop :=
  ∀ (s : State) (d : SReg) (a : AReg) (f : Nat → Elem) (bs : List Byte) (k : Cluster), (s.th.ra a).toNat % 16 = 0 → k = s.cluster (clusterOf s.tid) →
    (∀ i < 9, loadAt s (s.th.ra a + BitVec.ofNat 80 (16 * i)) 16 16 = .ok (f i)) → ReadsBytes s false ((List.range 9).map f) bs →
    clusterBusy s (clusterOf s.tid) = false → allZero ((bs.drop 2).take 14) = true →
    natAt bs 0 1 + natAt bs 1 1 + k.prot ≤ 24 → k.scratch ≤ natAt bs 0 1 →
    ∃ t, exec (.stashcfg d a) s = .next t ∧ Advances s t 4 ∧ t.th.rs d = (if d = 0 then 0 else BitVec.ofNat 64 (k.scratch + 256 * k.stash)) ∧
      (∀ r, r ≠ d → t.th.rs r = s.th.rs r) ∧ t.th.a = s.th.a ∧ t.th.v = s.th.v ∧ t.th.m = s.th.m ∧ OthersKept s t s.tid ∧
      (t.cluster (clusterOf s.tid)).scratch = natAt bs 0 1 ∧ (t.cluster (clusterOf s.tid)).stash = natAt bs 1 1 ∧
      (t.cluster (clusterOf s.tid)).ranges = [] ∧ (t.cluster (clusterOf s.tid)).keys = k.keys

/-! ### Extended precision -/

/-- 13 R271, R272, R273, 04 R81–R83, R91: a member that writes a window rounds its exact value once to p bits. A window that is not live is
cause 0x09 sub-cause 1; then a precision the window cannot hold 0x08 sub-cause 1, the guard 0x08 sub-cause 3, an enabled flag 0x0F with bit 16.
That rounding over the rationals, with overflow, underflow and inexactness (04 R81, 08 R188).
(The model's readings in it: log entry 99.) -/
def Obligations.ExtendedResults : Prop :=
  (∀ (p : Nat) (rm : RMode) (v : Val), 8 ≤ p →
    (∀ q, v = .nan q → roundExt p rm v = (.nan false, 0)) ∧ (∀ g, v = .inf g → roundExt p rm v = (v, 0)) ∧
    (ratOf v = some 0 → SameVal (roundExt p rm v).1 v ∧ (roundExt p rm v).2 = 0) ∧
    ∀ x, ratOf v = some x → x ≠ 0 → RoundsExt p rm x (roundExt p rm v)) ∧
  ∀ (s : State) (i : Instr) (k : ExtWork) (y : Flagged), extWork s.th i = some k → y = roundExt (precP s.th.prec) (precRm s.th.prec) k.r.1 →
    (¬ Live s.th k.live → s.th.sup.act = false → ∃ t, exec i s = .next t ∧ TrapsWith s t 0x09 (extCause 0x09 1 0 false) 0) ∧
    (Live s.th k.live → (s.th.winAt k.d).len < nLimbs (precP s.th.prec) → s.th.sup.act = false →
      ∃ t, exec i s = .next t ∧ TrapsWith s t 0x08 (extCause 0x08 1 0 false) 0) ∧
    (Live s.th k.live → nLimbs (precP s.th.prec) ≤ (s.th.winAt k.d).len →
      (k.guard ≠ [] → guardTrips (precG s.th.prec) k.guard y.1 = true → s.th.sup.act = false →
        ∃ t, exec i s = .next t ∧ TrapsWith s t 0x08 (extCause 0x08 3 0 false) 0) ∧
      ((k.guard = [] ∨ guardTrips (precG s.th.prec) k.guard y.1 = false) →
        (extTrapping s.th (k.r.2 ||| y.2) = 0 → ∃ t, exec i s = .next t ∧ WritesW s t k.d y.1 (k.r.2 ||| y.2)) ∧
        (extTrapping s.th (k.r.2 ||| y.2) ≠ 0 → s.th.sup.act = false →
          ∃ t, exec i s = .next t ∧ TrapsWith s t 0x0F (extCause 0x0F 0 (extTrapping s.th (k.r.2 ||| y.2)) true) 0)))

/-- 13 R273–R275, 04 R79, R80, R84, R86: comparison and conversion to scalars; every field of `XLEN`'s word; reads and writes of `PREC`, a value it
does not take being an illegal instruction; `XALLOC` of 1 to 16 limbs below the limit that meet no other live window; `XFREE`. An operand
window that is not live is cause 0x09 sub-cause 1; an `XALLOC` of no limb or more than 16 is sub-cause 4, one above the limit 3, one that meets
another window 2.
(The model's readings in it: log entry 99.) -/
def Obligations.ExtendedScalars : Prop :=
  (∀ (s : State) (i : Instr) (d : SReg) (ws : List WReg) (x : Word) (flags : Nat), extScalar s.th i = some (d, ws, x, flags) → Live s.th ws →
    (extTrapping s.th flags = 0 → ∃ t, exec i s = .next t ∧ t.th.rs d = (if d = 0 then 0 else x) ∧ (∀ r, r ≠ d → t.th.rs r = s.th.rs r) ∧
      t.th.prec = s.th.prec ||| BitVec.ofNat 64 (precOrder flags) <<< 32 ∧ t.th.wfile = s.th.wfile ∧ t.th.v = s.th.v ∧ Advances s t 4 ∧ OnlyThread s t) ∧
    (extTrapping s.th flags ≠ 0 → s.th.sup.act = false →
      ∃ t, exec i s = .next t ∧ TrapsWith s t 0x0F (extCause 0x0F 0 (extTrapping s.th flags) true) 0)) ∧
  (∀ (s : State) (i : Instr) (d : SReg) (ws : List WReg) (x : Word) (flags : Nat), extScalar s.th i = some (d, ws, x, flags) → ¬ Live s.th ws →
    s.th.sup.act = false → ∃ t, exec i s = .next t ∧ TrapsWith s t 0x09 (extCause 0x09 1 0 false) 0) ∧
  (∀ (s : State) (d : SReg) (a : WReg), (s.th.rw a = none → s.th.sup.act = false → ∃ t, exec (.xlen d a) s = .next t ∧
      TrapsWith s t 0x09 (extCause 0x09 1 0 false) 0) ∧
    ∀ (w : Win) (v : Val), s.th.rw a = some w → w.len ≤ 16 → v = extVal (s.th.limbs w) → ∃ t x, exec (.xlen d a) s = .next t ∧ WritesS s t d x ∧
      x.extractLsb' 32 31 = 0 ∧ x.extractLsb' 26 4 = 0 ∧ x.extractLsb' 13 3 = 0 ∧ x.extractLsb' 5 3 = 0 ∧
      (∀ q, v = .nan q → x.extractLsb' 30 2 = 3 ∧ x.extractLsb' 16 10 = 0) ∧ (∀ g, v = .inf g → x.extractLsb' 30 2 = 2 ∧ x.extractLsb' 16 10 = 0) ∧
      ∀ g m e k, v = .fin g m e k → (m = 0 → x.extractLsb' 30 2 = 0 ∧ x.extractLsb' 16 10 = 0) ∧
        (m ≠ 0 → x.extractLsb' 30 2 = 1 ∧ ∃ odd j, m = odd * 2 ^ j ∧ odd % 2 = 1 ∧
          2 ^ (x.extractLsb' 16 10).toNat ≤ 2 * odd ∧ odd < 2 ^ (x.extractLsb' 16 10).toNat)) ∧
  (∀ (s : State) (a : WReg) (base : BitVec 8) (n : BitVec 5), s.th.sup.act = false →
    (n = 0 ∨ 16 < n.toNat → ∃ t, exec (.xalloc a base n) s = .next t ∧ TrapsWith s t 0x09 (extCause 0x09 4 0 false) 0) ∧
    (1 ≤ n.toNat → n.toNat ≤ 16 → windowLimit s s.tid < base.toNat + n.toNat →
      ∃ t, exec (.xalloc a base n) s = .next t ∧ TrapsWith s t 0x09 (extCause 0x09 3 0 false) 0) ∧
    ∀ r w, 1 ≤ n.toNat → n.toNat ≤ 16 → base.toNat + n.toNat ≤ windowLimit s s.tid → r ≠ a → s.th.rw r = some w →
      base.toNat < w.base + w.len → w.base < base.toNat + n.toNat →
      ∃ t, exec (.xalloc a base n) s = .next t ∧ TrapsWith s t 0x09 (extCause 0x09 2 0 false) 0) ∧
  ∀ (s : State) (d : SReg) (a : WReg),
    (∀ w, s.th.rw a = some w → w.len < 256 → ∃ t x, exec (.xlen d a) s = .next t ∧ WritesS s t d x ∧ Advances s t 4 ∧
      (x.extractLsb' 0 8).toNat = w.len ∧ x.getLsbD 63 = ((s.th.limbs w).headD 0).getLsbD 63 ∧
      (nLimbs (precP s.th.prec) < 256 → (x.extractLsb' 8 8).toNat = nLimbs (precP s.th.prec))) ∧
    (∃ t, exec (.xgetp d) s = .next t ∧ WritesS s t d s.th.prec ∧ Advances s t 4) ∧
    (8 ≤ (s.th.rs d).toNat % 1024 → (s.th.rs d).toNat % 1024 ≤ 997 → (s.th.rs d).toNat / 4096 % 8 ≤ 4 → ∃ t, exec (.xsetp d) s = .next t ∧
      Advances s t 4 ∧ OnlyThread s t ∧ t.th = { s.th with pc := t.th.pc, loop0 := t.th.loop0, loop1 := t.th.loop1, prec := t.th.prec } ∧
      t.th.prec.extractLsb' 0 10 = (s.th.rs d).extractLsb' 0 10 ∧ t.th.prec.extractLsb' 12 3 = (s.th.rs d).extractLsb' 12 3 ∧
      t.th.prec.extractLsb' 24 8 = (s.th.rs d).extractLsb' 24 8 ∧ t.th.prec.extractLsb' 32 5 = (s.th.rs d).extractLsb' 32 5 ∧
      t.th.prec.extractLsb' 40 5 = (s.th.rs d).extractLsb' 40 5 ∧ t.th.prec.getLsbD 16 = (s.th.rs d).getLsbD 16) ∧
    (((s.th.rs d).toNat % 1024 < 8 ∨ 997 < (s.th.rs d).toNat % 1024 ∨ 4 < (s.th.rs d).toNat / 4096 % 8) → s.th.sup.act = false →
      ∃ t, exec (.xsetp d) s = .next t ∧ TrapsExactly s t 0x01 0 0) ∧
    (∀ (base : BitVec 8) (n : BitVec 5), 1 ≤ n.toNat → n.toNat ≤ 16 → base.toNat + n.toNat ≤ windowLimit s s.tid →
      (∀ r, r ≠ a → ∀ w, s.th.rw r = some w → w.base + w.len ≤ base.toNat ∨ base.toNat + n.toNat ≤ w.base) →
      ∃ t, exec (.xalloc a base n) s = .next t ∧ t.th.rw a = some ⟨base.toNat, n.toNat⟩ ∧ (∀ r, r ≠ a → t.th.rw r = s.th.rw r) ∧
        (s.th.rw a = none → extVal (t.th.limbs ⟨base.toNat, n.toNat⟩) = .zero false) ∧
        (∀ w, s.th.rw a = some w → w.len ≤ n.toNat → (∀ g, extVal (s.th.limbs w) ≠ .nan g) → ∀ j, 0 < j → j < w.len →
          (t.th.limbs ⟨base.toNat, n.toNat⟩)[j]? = (s.th.limbs w)[j]?) ∧
        t.th.s = s.th.s ∧ Advances s t 4 ∧ OnlyThread s t) ∧
    ∃ t, exec (.xfree a) s = .next t ∧ t.th.rw a = none ∧ (∀ r, r ≠ a → t.th.rw r = s.th.rw r) ∧ t.th.wfile = s.th.wfile ∧ Advances s t 4 ∧
      OnlyThread s t

/-- 04 R88–R90, 13 R276: `XST` stores the window's limbs as they stand, header first; `XLD`, once its header and the other limbs it counts are
read without poison, rounds their value into the window, and its reads no longer count; a header that counts more limbs than the window has is
cause 0x08 sub-cause 2, unless `PREC.nl` allows it, and a window that is not live is cause 0x09 sub-cause 1 of both.
(The model's readings in it: log entries 31 and 102.) -/
def Obligations.ExtendedMemory : Prop :=
  (∀ (s : State) (o : MOrder) (d : WReg) (a : AReg) (off : BitVec 12), s.th.sup.act = false →
    (s.th.rw d = none → (∃ t, exec (.xld o d a off) s = .next t ∧ TrapsWith s t 0x09 (extCause 0x09 1 0 false) 0) ∧
      ∃ t, exec (.xst o d a off) s = .next t ∧ TrapsWith s t 0x09 (extCause 0x09 1 0 false) 0) ∧
    ∀ w e h, s.th.rw d = some w → loadAt s (mAddr s.th a off 8) 8 8 = .ok e → s.th.owed = [] → (s.tile (tileOf s.tid)).queue = [] →
      (s.core s.cur).dirty = [] → StashFits s (clusterOf s.tid) → L1Fits s s.cur → LimbsRead s o [e] [h] → w.len < (h.extractLsb' 59 4).toNat + 1 →
      s.th.prec.getLsbD 16 = false → ∃ t, exec (.xld o d a off) s = .next t ∧ TrapsKeeping s t 0x08 (extCause 0x08 2 0 false) 0) ∧
  ∀ (s : State) (o : MOrder) (d : WReg) (a : AReg) (off : BitVec 12) (w : Win), s.th.rw d = some w →
    (∀ es, checkLimbs (fun x => storeAt s x 8 8) (mAddr s.th a off 8) 0 w.len = .ok es → MayAccess s true → s.th.st < 63 → o ≠ .weak → s.MemOk →
      ∃ t x, exec (.xst o d a off) s = .next t ∧ t.th.outs = s.th.outs ++ [x] ∧ x.kind = .store (if o = .sync then some .domain else none) true ∧
        x.elems.map (fun e => (e.va, e.pa, e.size)) = es.map (fun e => (e.va, e.pa, e.size)) ∧
        x.elems.map (·.bytes) = (s.th.limbs w).map (fun l => (List.range 8).map (byteOf l)) ∧ t.th.st = s.th.st + 1 ∧ IssuesOnly s t) ∧
    (∀ es, checkLimbs (fun x => storeAt s x 8 8) (mAddr s.th a off 8) 0 w.len = .ok es → MayAccess s true → s.th.outs = [] →
      (s.tile (tileOf s.tid)).queue = [] → (∀ e ∈ es, cacheable e.pa) → (∀ e ∈ es, localOf e.pa % 8 = 0) → es.Pairwise (fun e f => localOf e.pa ≠ localOf f.pa) →
      ∃ t, exec (.xst .weak d a off) s = .next t ∧ t.th.outs = [] ∧ IssuesOnly s t ∧ (L1Fits s s.cur → SameBytes s t ∧
        ∀ (j : Nat) (e : Elem) (l : Word), es[j]? = some e → (s.th.limbs w)[j]? = some l →
          ((t.core s.cur).dirty.find? (localOf e.pa / 4)).map (·.val) = some (l.setWidth 32) ∧
          ((t.core s.cur).dirty.find? (localOf e.pa / 4 + 1)).map (·.val) = some ((l >>> 32).setWidth 32))) ∧
    ∀ es n hs rs v y, checkLimbs (fun x => loadAt s x 8 8) (mAddr s.th a off 8) 0 n = .ok es → 0 < n → n ≤ w.len → s.th.owed = [] →
      (s.tile (tileOf s.tid)).queue = [] → (s.core s.cur).dirty = [] → StashFits s (clusterOf s.tid) →
      LimbsRead s o (es.take 1) hs → LimbsRead s o (es.drop 1) rs → (hs.head?.map fun x => (x.extractLsb' 59 4).toNat + 1) = some n →
      v = extVal (hs ++ rs) → y = roundExt (precP s.th.prec) (precRm s.th.prec) v →
      nLimbs (precP s.th.prec) ≤ w.len → extTrapping s.th (snanX v ||| y.2) = 0 →
      ∃ t, exec (.xld o d a off) s = .next t ∧ t.th.limbs w = extEncode w.len y.1 ∧
        t.th.prec = s.th.prec ||| BitVec.ofNat 64 (precOrder (snanX v ||| y.2)) <<< 32 ∧
        (∀ i, (i < w.base ∨ w.base + w.len ≤ i) → t.th.wfile.get 0 i = s.th.wfile.get 0 i) ∧
        t.th = { s.th with pc := t.th.pc, loop0 := t.th.loop0, loop1 := t.th.loop1, wfile := t.th.wfile, prec := t.th.prec, bad := t.th.bad
                           outs := [], ld := if s.th.keptCounted then s.th.ld - 1 else s.th.ld } ∧
        Advances s t 4 ∧ SameBytes s t ∧ UnitsKept s t ∧ (o ≠ .sync → OthersKept s t s.tid)

/-! ### Matrix instructions and semaphores -/

/-- 12 R251–R258: a matrix instruction of the active pair's striker whose checks pass is accepted with the scalars it read and counts in `mx`; one
of any other thread, or one whose checks fail, is cause 0x01; a legal `MDRAIN` into a 4 KiB unit the thread may not store to is cause 0x07 at the
first such unit.
(The model's readings in it: log entries 26 and 99.) -/
def Obligations.MatrixIssue : Prop :=
  (∀ (s : State) (d : SReg) (c b : BitVec 4) (so : SReg) (pre post : List Nat) (u : Nat), IsStriker s → s.th.sup.act = false →
    layoutOk (formatAt s (tileOf s.tid) b) (s.th.rs so) true = true →
    spanUnits (tensorSpans (bankAddr (tileOf s.tid) b) (formatAt s (tileOf s.tid) b) (s.th.rs so)) = pre ++ u :: post →
    (∀ v ∈ pre, threadMayStore s s.tid (v * 4096) 1 = true) → threadMayStore s s.tid (u * 4096) 1 = false →
    ∃ t, exec (.mdrain d c b so) s = .next t ∧ TrapsExactly s t 0x07 0 (BitVec.ofNat 80 (u * 4096))) ∧
  ∀ (s : State) (i : Instr) (x y : Word) (legal : Prop), mxForm s i = some (x, y, legal) →
    (IsStriker s → legal → DrainKeys s i → MayAccess s true → s.th.mx < 63 → redundancyAt s (tileOf s.tid) = 0 →
      ∃ t q, exec i s = .next t ∧ (t.tile (tileOf s.tid)).queue = (s.tile (tileOf s.tid)).queue ++ [q] ∧ q.instr = i ∧ q.tid = s.tid ∧
        q.x = x ∧ q.y = y ∧ t.th.mx = s.th.mx + 1 ∧ Advances s t 4 ∧ SameBytes s t ∧
        OthersKept s t s.tid ∧ UnitsKept s t ∧
        t.th = { s.th with pc := t.th.pc, loop0 := t.th.loop0, loop1 := t.th.loop1, mx := t.th.mx }) ∧
    (¬ IsStriker s ∨ ¬ legal → s.th.sup.act = false → ∃ t, exec i s = .next t ∧ TrapsExactly s t 0x01 0 0)

/-- 12 R252–R258, R68: the oldest accepted instruction of a tile, completed: what each kind leaves in the formats, the accumulators (unpaired),
memory, but for the words of a drain that had been written by themselves, and the drain's status register; `mx` falls. What one group of
products (03 R64, R66), one product of the FP32 path (R65) and one drained element (R68) give, over the rationals.
(The model's readings in it: log entries 105 and 132.) -/
def Obligations.MatrixCompletes : Prop :=
  (∀ (w : Nat) (sa sb : Nat × Int) (ps : List Val) (acc : Nat), acc < 2 ^ 32 →
    (∀ q, .nan q ∈ ps → floatGroup w (some sa) (some sb) ps acc = 0x7FC00000) ∧
    (.inf true ∈ ps → .inf false ∈ ps → floatGroup w (some sa) (some sb) ps acc = 0x7FC00000) ∧
    (∀ g, .inf g ∈ ps → .inf (!g) ∉ ps → (∀ q, .nan q ∉ ps) →
      (fp32.decode (floatGroup w (some sa) (some sb) ps acc) = .inf g ∧ ∀ q, fp32.decode acc ≠ .nan q) ∨
        floatGroup w (some sa) (some sb) ps acc = 0x7FC00000 ∧ (fp32.decode acc = .inf (!g) ∨ ∃ q, fp32.decode acc = .nan q)) ∧
    floatGroup w none (some sb) ps acc = acc ∧ floatGroup w (some sa) none ps acc = acc ∧
    ∀ xs y e, ps.map ratOf = xs.map some → ratOf (fp32.decode acc) = some y →
      ((∀ x ∈ xs, x = 0) → floatGroup w (some sa) (some sb) ps acc = acc) ∧
      (LeadExp xs e → -100000 < e → (unitSum ((2 : ℚ) ^ (e - w + 1)) xs = 0 → floatGroup w (some sa) (some sb) ps acc = acc) ∧
        (unitSum ((2 : ℚ) ^ (e - w + 1)) xs ≠ 0 →
          Accumulates (y + unitSum ((2 : ℚ) ^ (e - w + 1)) xs * (2 : ℚ) ^ (e - w + 1) * (sa.1 * (2 : ℚ) ^ sa.2) * (sb.1 * (2 : ℚ) ^ sb.2))
            (floatGroup w (some sa) (some sb) ps acc)))) ∧
  (∀ (sa sb : Nat × Int) (p : Val) (x y : ℚ) (acc : Nat), ratOf p = some x → ratOf (fp32.decode acc) = some y →
    (x = 0 → fp32Path [some sa] [some sb] 0 [p] acc = acc) ∧
    (x ≠ 0 → sa.1 ≠ 0 → sb.1 ≠ 0 → Accumulates (y + x * (sa.1 * (2 : ℚ) ^ sa.2) * (sb.1 * (2 : ℚ) ^ sb.2)) (fp32Path [some sa] [some sb] 0 [p] acc))) ∧
  (∀ (n : Nat) (a b : List Int) (acc : Int) (sat : Bool) (t : Int), a ≠ [] → a.length = b.length → a.length ≤ n →
    t = acc + (List.zipWith (· * ·) a b).sum →
    intGroups n a.length a b (acc, sat) = (max (-(2 ^ 31)) (min (2 ^ 31 - 1) t), sat || decide (t < -(2 ^ 31) ∨ 2 ^ 31 - 1 < t))) ∧
  (∀ (c : Nat) (clamp : Bool) (z : BitVec 32) (x : ℚ) (fm : Fmt), drainElem 0 clamp false z = (z.toNat, false, false) ∧
    (codeFmt c = some fm → ratOf (fp32.decode z.toNat) = some x → c ≠ 0 →
      (fm.infinity = true → x ≠ 0 → ∃ r, RoundsTo fm .even (decide (c = 3)) x r ∧
        drainElem c clamp false z = (if c = 1 then r.1 * 2 ^ 13 else r.1, false, false)) ∧
      (fm.infinity = false → |roundFmtQ fm .even x| ≤ maxQ fm → ratOf (fm.decode (drainElem c clamp false z).1) = some (roundFmtQ fm .even x) ∧
        (fm.decode (drainElem c clamp false z).1).sign = (fp32.decode z.toNat).sign) ∧
      (fm.infinity = false → maxQ fm < |roundFmtQ fm .even x| → clamp = true ∨ c = 7 ∨ c = 8 ∨ c = 9 →
        ratOf (fm.decode (drainElem c clamp false z).1) = some ((if x < 0 then -1 else 1) * maxQ fm)) ∧
      (maxQ fm < |roundFmtQ fm .even x| → clamp = false → c = 5 ∨ c = 6 → fm.decode (drainElem c clamp false z).1 = .nan false)) ∧
    (0x0A ≤ c → c ≤ 0x0F → ∀ (asInt : Bool) (n : ℤ), (asInt = true → n = z.toInt) →
      (asInt = false → ratOf (fp32.decode z.toNat) = some x ∧ (n : ℚ) = roundAtQ x 1 .even) →
      ∀ lo hi : ℤ, (if c = 0x0C ∨ c = 0x0E then lo = 0 ∧ hi = 2 ^ codeWidth c - 1 else lo = -(2 ^ (codeWidth c - 1)) ∧ hi = 2 ^ (codeWidth c - 1) - 1) →
        BitVec.ofNat (codeWidth c) (drainElem c clamp asInt z).1 = BitVec.ofInt _ (max lo (min hi n)) ∧
          (drainElem c clamp asInt z).2.1 = decide (n < lo ∨ hi < n))) ∧
  ∀ (s : State) (q : MxOp) (rest : List MxOp), (s.tile s.ev.a).queue = q :: rest → (s.thread q.tid).outs = [] → s.MemOk → s.stale = [] →
    redundancy (s.tile s.ev.a).cfg = 0 → PlainMx s s.ev.a q →
    ∃ t, exec .matrixCompletion s = .next t ∧ (t.tile s.ev.a).queue = rest ∧ (t.thread q.tid).mx = (s.thread q.tid).mx - 1 ∧
        OthersKept s t q.tid ∧
        (∀ b a, q.instr = .bfmt b a → (t.tile s.ev.a).fmtAt b.toNat = q.x ∧ SameBytes s t) ∧
        (∀ a, q.instr = .mcfg a → (t.tile s.ev.a).cfg = q.x.setWidth 3 ∧ SameBytes s t) ∧
        (∀ c, q.instr = .mzero c → (∀ x, accElem t s.ev.a c x = 0) ∧ SameBytes s t) ∧
        (∀ c b so, q.instr = .mload c b so → SameBytes s t ∧ ∀ i < 64, ∀ j < 64, accElem t s.ev.a c (i * 64 + j) =
          loadElem (fmtCode q.fmtA) (((readElems s (rowAt s.ev.a b q.y i) (fmtCode q.fmtA) 64)[j]?).getD 0)) ∧
        (∀ c ba bb sk so, q.instr = .mma c ba bb sk so → SameBytes s t ∧
          ∀ i < 64, ∀ j < 64, accElem t s.ev.a c (i * 64 + j) =
            (mmaElement (readOperand s (bankAddr s.ev.a ba) q.fmtA (q.y.extractLsb' 0 17).toNat (q.x.extractLsb' 0 13).toNat)
              (readOperand s (bankAddr s.ev.a bb) q.fmtB (q.y.extractLsb' 32 17).toNat (q.x.extractLsb' 0 13).toNat) i j
              (accElem s s.ev.a c (i * 64 + j))).1) ∧
        (∀ d c b so, q.instr = .mdrain d c b so →
          (∀ i < 64, ∀ k, (rowAt s.ev.a b q.y i + k) / 8 ∉ q.landed →
            (packElems (fmtCode q.fmtA) ((drainedRow s s.ev.a c q.fmtA q.y i).map (·.1)))[k]? =
              if k < (packElems (fmtCode q.fmtA) ((drainedRow s s.ev.a c q.fmtA q.y i).map (·.1))).length then
                some (truthByte t (rowAt s.ev.a b q.y i + k)) else none) ∧
          (∀ y, (y / 8 ∈ q.landed ∨ ∀ i < 64, y < rowAt s.ev.a b q.y i ∨ rowAt s.ev.a b q.y i + rowBytes (fmtCode q.fmtA) 64 ≤ y) →
            truthByte t y = truthByte s y) ∧
          (d ≠ 0 → ∀ n, (contextS (t.thread q.tid) false d).getLsbD n = (match n with
            | 0 => ((s.tile s.ev.a).accum c.toNat).sat
            | 1 => ((s.tile s.ev.a).accum c.toNat).tinv
            | 2 => (List.range 64).any fun i => (drainedRow s s.ev.a c q.fmtA q.y i).any (·.2.1)
            | 3 => (List.range 64).any fun i => (drainedRow s s.ev.a c q.fmtA q.y i).any (·.2.2)
            | _ => false)))

/-- 12 R261, 02 R50: in the active pair `SEMSIG` with nothing outstanding and a count below 15 raises the semaphore, and `SEMWAIT` on one above 0
lowers it; outside the pair both are cause 0x01.
(The model's readings in it: log entry 99.) -/
def Obligations.Semaphores : Prop :=
  ∀ (s : State) (n : BitVec 3),
    (inPair s s.tid = true → s.th.outs = [] → (s.tile (tileOf s.tid)).queue = [] →
      (((s.tile (tileOf s.tid)).sem n) < 15 → ∃ t, exec (.semsig n) s = .next t ∧
        (t.tile (tileOf s.tid)).sem n = (s.tile (tileOf s.tid)).sem n + 1 ∧
        (∀ k, k ≠ n → (t.tile (tileOf s.tid)).sem k = (s.tile (tileOf s.tid)).sem k) ∧ t.th.s = s.th.s ∧ t.th.v = s.th.v ∧ Advances s t 4) ∧
      (cancelled s s.tid = false → ((s.tile (tileOf s.tid)).sem n) ≠ 0 → ∃ t, exec (.semwait n) s = .next t ∧
        (t.tile (tileOf s.tid)).sem n = (s.tile (tileOf s.tid)).sem n - 1 ∧
        (∀ k, k ≠ n → (t.tile (tileOf s.tid)).sem k = (s.tile (tileOf s.tid)).sem k) ∧ t.th.s = s.th.s ∧ t.th.v = s.th.v ∧ SameBytes s t ∧
        t.th.pc = (s.th.next 4).pc)) ∧
    (inPair s s.tid = false → s.th.sup.act = false → (∃ t, exec (.semsig n) s = .next t ∧ TrapsExactly s t 0x01 0 0) ∧
      ∃ t, exec (.semwait n) s = .next t ∧ TrapsExactly s t 0x01 0 0)

/-! ### Engines -/

/-- 12 R263–R266, 07 R144, R145: the card an engine instruction builds, or `ECMD` reads, that passes every check becomes a job of the cluster,
its first 128 bytes as given; one that fails traps exactly with the first failing check's cause and address.
(The model's readings in it: log entries 88, 99 and 136 (the V of an `MDEC` and of a `LODGE` card is 0: the model's choice).) -/
def Obligations.CardsAccepted : Prop :=
  (∀ (s : State) (i : Instr) (c : List Byte) (legal : Prop), engineCard s i = some (c, legal) → legal → (s.tile (tileOf s.tid)).queue = [] →
    (cardFault s (threadParty s) true c = none → JobRoom s →
      ∃ t j, exec i s = .next t ∧ JobTaken s t j ∧ j.kind = .card ∧ j.card.take 128 = c.take 128) ∧
    (∀ tr, cardFault s (threadParty s) true c = some tr → s.th.sup.act = false → ∃ t, exec i s = .next t ∧ TrapsExactly s t tr.code 0 tr.fva)) ∧
  ∀ (s : State) (a : AReg) (es : List Elem) (c : List Byte), s.th.outs = [] → (s.core s.cur).dirty = [] → (s.tile (tileOf s.tid)).queue = [] →
    StashFits s (clusterOf s.tid) → (s.th.ra a).toNat % 64 = 0 → es.length = 4 →
    (∀ (k : Nat) (e : Elem), es[k]? = some e → loadAt s (s.th.ra a + BitVec.ofNat 80 (64 * k)) 64 64 = .ok e ∧ e.place = .own ∧
      truthBad s (localOf e.pa) 64 = false) → c = es.flatMap (fun e => truthRead s (localOf e.pa) 64) →
    cardFault s (threadParty s) false c = none → JobRoom s →
    ∃ t j, exec (.ecmd a) s = .next t ∧ JobTaken s t j ∧ j.kind = .card ∧ j.card = c

/-- 12 R270, 07 R159–R164: on a valid sketch whose extent the thread may write, the updating members, `SKADD` of a sketch of the same shape,
and `SKINIT` with a valid geometry become jobs; `SKQRY` and `SKSAT` are outstanding loads counted in `ld`; `SKSAT.CLR` is both. A descriptor that
fails its check, or an `SKADD` of another shape, is cause 0x17; an extent the thread may not write is 0x05, 0x06 or 0x07 at its first such
unit.
(The model's readings in it: log entry 99.) -/
def Obligations.SketchesAccepted : Prop :=
  (∀ s : State, Quiet s → s.th.sup.act = false → L1Fits s s.cur →
    (∀ i a, descriptorReg i = some a → NoSketchAt s (s.th.ra a) → ∃ t, exec i s = .next t ∧ TrapsKeeping s t 0x17 (causeWord 0x17 0) 0) ∧
    (∀ a b k x, SketchAt s (s.th.ra a) k → SketchAt s (s.th.ra b) x → extentFault s k = none →
      (x.d, x.logw, x.e, x.mulA, x.mulC) ≠ (k.d, k.logw, k.e, k.mulA, k.mulC) →
      ∃ t, exec (.skadd a b) s = .next t ∧ TrapsKeeping s t 0x17 (causeWord 0x17 0) 0) ∧
    (∀ i a op k code va, sketchForm s.th i = some (a, op) ∨ (∃ b, i = .skadd a b) → SketchAt s (s.th.ra a) k → ExtentStops s k code va →
      ∃ t, exec i s = .next t ∧ TrapsKeeping s t code (causeWord code 0) (BitVec.ofNat 80 va)) ∧
    ∀ a sg ss k code va, geometryWordOk (s.th.rs sg) = true → (s.th.ra a).toNat % 128 = 0 → k.base = (s.th.ra a).toNat →
      k.d = (s.th.rs sg).toNat % 256 → k.logw = (s.th.rs sg).toNat / 256 % 256 → ExtentStops s k code va →
      ∃ t, exec (.skinit a sg ss) s = .next t ∧ TrapsExactly s t code 0 (BitVec.ofNat 80 va)) ∧
  ∀ s : State, Quiet s → JobRoom s → s.th.ld < 63 →
    (∀ i a op k, sketchForm s.th i = some (a, op) → SketchAt s (s.th.ra a) k → extentFault s k = none →
      ∃ t j, exec i s = .next t ∧ JobTaken s t j ∧ j.kind = .sketch k op) ∧
    (∀ a b k x, SketchAt s (s.th.ra a) k → SketchAt s (s.th.ra b) x → extentFault s k = none →
      (x.d, x.logw, x.e, x.mulA, x.mulC) = (k.d, k.logw, k.e, k.mulA, k.mulC) →
      (∀ u ∈ x.shape.units.map (·.2), ∃ l, translate s s.tid (BitVec.ofNat 80 u) .read = .ok l) →
      ∃ t j, exec (.skadd a b) s = .next t ∧ JobTaken s t j ∧ j.kind = .sketch k (.add x.base x.flags)) ∧
    (∀ a sg ss k, geometryWordOk (s.th.rs sg) = true → (s.th.ra a).toNat % 128 = 0 → extentFault s k = none →
      k = { base := (s.th.ra a).toNat, d := (s.th.rs sg).toNat % 256, logw := (s.th.rs sg).toNat / 256 % 256,
            e := ((s.th.rs sg).extractLsb' 16 16).toInt, mulA := (skSeed (s.th.rs ss) ((s.th.rs sg).toNat % 256)).1
            mulC := (skSeed (s.th.rs ss) ((s.th.rs sg).toNat % 256)).2 } →
      ∃ t j desc, exec (.skinit a sg ss) s = .next t ∧ JobTaken s t j ∧ j.kind = .sketch k (.init desc)) ∧
    (∀ (a b : AReg) (sg : SReg) (k : Sketch) (es : List Elem), geometryWordOk (s.th.rs sg) = true → (s.th.ra a).toNat % 128 = 0 → (s.th.ra b).toNat % 8 = 0 → extentFault s k = none →
      es.length = 2 * ((s.th.rs sg).toNat % 256) → StashFits s (clusterOf s.tid) →
      (∀ (n : Nat) (e : Elem), es[n]? = some e → loadAt s (s.th.ra b + BitVec.ofNat 80 (8 * n)) 8 8 = .ok e ∧ e.place = .own ∧
        truthBad s (localOf e.pa) 8 = false) →
      k = { base := (s.th.ra a).toNat, d := (s.th.rs sg).toNat % 256, logw := (s.th.rs sg).toNat / 256 % 256,
            e := ((s.th.rs sg).extractLsb' 16 16).toInt
            mulA := (es.map fun e => truthWord s (localOf e.pa)).take ((s.th.rs sg).toNat % 256)
            mulC := (es.map fun e => truthWord s (localOf e.pa)).drop ((s.th.rs sg).toNat % 256) } →
      ∃ t j desc, exec (.skinitTab a b sg) s = .next t ∧ JobTaken s t j ∧ j.kind = .sketch k (.init desc)) ∧
    (∀ (d : SReg) (a : AReg) (sk : SReg) (k : Sketch) (es : List Elem), SketchAt s (s.th.ra a) k → es.length = k.d + 1 →
      (∀ (n : Nat) (e : Elem), es[n]? = some e → loadAt s (if n = 0 then BitVec.ofNat 80 ((k.base + 3) % 2 ^ 80)
        else BitVec.ofNat 80 (k.counter (n - 1) (k.hash (n - 1) (s.th.rs sk)))) (if n = 0 then 1 else 4) 1 = .ok e) →
      ∃ t o, exec (.skqry d a sk) s = .next t ∧ t.th.outs = [o] ∧
        o.kind = .load (.query d k.e ((List.range k.d).map fun i => k.minus i (s.th.rs sk))) .strong true ∧ o.elems = markSent s s.tid s.serial .strong es ∧
        t.th.ld = s.th.ld + 1 ∧ IssuesOnly s t ∧ SameBytes s t) ∧
    ∀ d a k e, SketchAt s (s.th.ra a) k → flagsAt s k = .ok e →
      (∃ t o, exec (.sksat d a) s = .next t ∧ t.th.outs = [o] ∧ o.kind = .load (.flags d) .strong true ∧
        o.elems = markSent s s.tid s.serial .strong [e] ∧ t.th.ld = s.th.ld + 1 ∧ IssuesOnly s t ∧ SameBytes s t) ∧
      (extentFault s k = none → ∃ t o j, exec (.sksatClr d a) s = .next t ∧ t.th.outs = [o] ∧ o.kind = .load (.flags d) .strong true ∧
        o.elems = markSent s s.tid s.serial .strong [e] ∧ t.th.ld = s.th.ld + 1 ∧ t.th.cp = s.th.cp + 1 ∧ j.kind = .sketch k (.satClear o.serial) ∧
        (t.cluster (clusterOf s.tid)).jobs = (s.cluster (clusterOf s.tid)).jobs ++ [j] ∧ t.th.s = s.th.s ∧ Advances s t 4 ∧ SameBytes s t)

/-- 12 R267, 07 R148, R149: a collective block that passes its checks, by a member of its group, becomes a job of the collective engine. -/
def Obligations.CollectivesAccepted : Prop :=
  ∀ (s : State) (a : AReg) (e f : Elem) (b : List Byte) (ms : List Nat) (rank : Nat), Quiet s → StashFits s (clusterOf s.tid) → JobRoom s → (s.th.ra a).toNat % 64 = 0 →
    loadAt s (s.th.ra a) 64 64 = .ok e → loadAt s (s.th.ra a + 64) 64 64 = .ok f → e.place = .own → f.place = .own →
    threadMayStore s s.tid (localOf e.pa) 64 = true → threadMayStore s s.tid (localOf f.pa) 64 = true →
    truthBad s (localOf e.pa) 64 = false → truthBad s (localOf f.pa) 64 = false →
    b = truthRead s (localOf e.pa) 64 ++ truthRead s (localOf f.pa) 64 ++ bytesOfNat 10 (s.th.ra a).toNat → blockBad b = false →
    (groupOf s (slotOf s s.tid) (collGroup b)).1 = some ms → rankOf s (clusterOf s.tid) ms = some rank →
    groupBad s (clusterOf s.tid) b ms.length = false → collOp b ≠ 4 → collFault s (threadParty s) b ms.length 128 = none → s.fuse.lite = false →
    (collSketch s (threadParty s) b).isNone = true →
    ∃ t j, exec (.coll a) s = .next t ∧ JobTaken s t j ∧ j.kind = .coll ms rank ∧ j.card = b

/-! ### Messages -/

/-- 12 R268, 07 R136, R137, R139–R141: a send with a place in the queue and a free slot or entry queues the sealed packet, reserves the place and
returns its number; a reply takes none; a retry sends the entry `UJIDX` names again, and returns all ones where it names none; a refused
target or opcode is cause 0x0C; a full queue is cause 0x0B where `SQCTL.trap` is 1, and waited for where it is 0.
(The model's readings in it: log entries 35, 36, 37 and 99.) -/
def Obligations.MessagesSent : Prop :=
  (∀ (s : State) (d : SReg) (b : VReg) (i : Instr), i = .msend d b ∨ i = .msendPost d b ∨ i = .mreply b → msgRefused s (s.th.rv b) = false →
    MayAccess s true → s.th.sqDepth ≤ s.th.sq.length →
    (s.th.sqTrap = true → s.th.sup.act = false → ∃ t, exec i s = .next t ∧ TrapsExactly s t 0x0B 0 0) ∧
    (s.th.sqTrap = false → ∃ t, exec i s = .next t ∧ (∀ k, t.thread k = s.thread k) ∧ SameBytes s t ∧ t.stalled = true)) ∧
  ∀ (s : State) (d : SReg) (b : VReg),
    (MaySend s (s.th.rv b) → ∀ asid, asid = asidOf s s.tid →
      ((∃ i, i < 16 ∧ s.th.reps[i]? = some .free) → ∃ t p i, exec (.msend d b) s = .next t ∧ i < 16 ∧ s.th.reps[i]? = some .free ∧
        Sealed (s.th.rv b) p false false (senderOf s) (i + 16 * (s.tid % 4)) asid ∧ t.th.sq = s.th.sq ++ [p] ∧
        t.th.reps[i]? = some (.reserved p s.tid s.serial) ∧ t.th.rs d = (if d = 0 then 0 else BitVec.ofNat 64 i) ∧
        (∀ r, r ≠ d → t.th.rs r = s.th.rs r) ∧ (∀ j, j ≠ i → t.th.reps[j]? = s.th.reps[j]?) ∧ t.th.v = s.th.v ∧ Advances s t 4 ∧ SameBytes s t ∧
        OthersKept s t s.tid) ∧
      ((∃ i, i < 16 ∧ s.th.journal[i]? = some .free) → ∃ t p i, exec (.msendPost d b) s = .next t ∧ i < 16 ∧ s.th.journal[i]? = some .free ∧
        Sealed (s.th.rv b) p false true (senderOf s) (i + 16 * (s.tid % 4)) asid ∧ t.th.sq = s.th.sq ++ [p] ∧
        t.th.journal[i]? = some (.sent p s.tid s.serial) ∧ t.th.rs d = (if d = 0 then 0 else BitVec.ofNat 64 i) ∧
        (∀ r, r ≠ d → t.th.rs r = s.th.rs r) ∧ t.th.reps = s.th.reps ∧ t.th.v = s.th.v ∧ Advances s t 4 ∧ SameBytes s t ∧ OthersKept s t s.tid) ∧
      (∃ t p, exec (.mreply b) s = .next t ∧ Sealed (s.th.rv b) p true false (senderOf s) (((s.th.rv b).extractLsb' 72 8).toNat) asid ∧
        t.th.sq = s.th.sq ++ [p] ∧ t.th.s = s.th.s ∧ t.th.v = s.th.v ∧ Advances s t 4 ∧ SameBytes s t ∧ OthersKept s t s.tid)) ∧
    (s.th.ujV = false → ∃ t, exec (.msendRetry d) s = .next t ∧ WritesS s t d (-1) ∧ Advances s t 4) ∧
    (∀ m st o, s.th.ujV = true → s.th.ujIdx < 16 → s.th.journal[s.th.ujIdx]? = some (.refused m st o) → MaySend s m →
      ∃ t p, exec (.msendRetry d) s = .next t ∧ Sealed m p false true (senderOf s) (s.th.ujIdx + 16 * (s.tid % 4)) (asidOf s s.tid) ∧
        t.th.sq = s.th.sq ++ [p] ∧ t.th.ujV = false ∧ t.th.journal[s.th.ujIdx]? = some (.sent p s.tid s.serial) ∧
        t.th.rs d = (if d = 0 then 0 else BitVec.ofNat 64 s.th.ujIdx) ∧ (∀ r, r ≠ d → t.th.rs r = s.th.rs r) ∧ Advances s t 4) ∧
    (s.th.ujV = true → s.th.ujIdx < 16 → ∃ t, exec .ujidxDiscard s = .next t ∧ t.th.ujV = false ∧ t.th.journal[s.th.ujIdx]? = some .free ∧
      (∀ j, j ≠ s.th.ujIdx → t.th.journal[j]? = s.th.journal[j]?) ∧ t.th.s = s.th.s ∧ t.th.pc = s.th.pc ∧ OnlyThread s t) ∧
    (msgRefused s (s.th.rv b) = true → s.th.sup.act = false → (∃ t, exec (.msend d b) s = .next t ∧ TrapsExactly s t 0x0C 0 0) ∧
      (∃ t, exec (.msendPost d b) s = .next t ∧ TrapsExactly s t 0x0C 0 0) ∧ ∃ t, exec (.mreply b) s = .next t ∧ TrapsExactly s t 0x0C 0 0)

/-- 12 R268, R269, 07 R137, R138, R142: `MRECV` removes the oldest request, the spilled ones first, and gives 0 to an unbound thread; its reply form
frees the oldest reply's slot, and gives 0 with all 16 slots free; the peeks remove nothing; `MBIND` binds a free inbox (0), which releases an
earlier binding with its waiting requests, refuses one held by another (1), and releases (2, or 3 where there is none). -/
def Obligations.MessagesReceived : Prop :=
  (∀ (s : State) (v : VReg) (d a : SReg), (cancelled s s.tid = false → (∀ i < 16, s.th.reps[i]? = some .free) →
      ∃ t, exec (.mrecvRep v) s = .next t ∧ WritesV s t v 0 ∧ Advances s t 4) ∧
    ∀ n, s.th.inbox = some n →
      (s.th.rs a >>> 7 = 0 → (s.th.rs a).getLsbD 6 = true → ∃ t, exec (.mbind d a) s = .next t ∧ t.th.inbox = none ∧ t.th.spill = [] ∧
        ((t.cluster (clusterOf s.tid)).inboxes.get {} n).bound = none ∧
        ((t.cluster (clusterOf s.tid)).inboxes.get {} n).msgs = s.th.spill ++ ((s.cluster (clusterOf s.tid)).inboxes.get {} n).msgs ∧
        (∀ m, m ≠ n → (t.cluster (clusterOf s.tid)).inboxes.get {} m = (s.cluster (clusterOf s.tid)).inboxes.get {} m) ∧
        t.th.rs d = (if d = 0 then 0 else 2) ∧ (∀ r, r ≠ d → t.th.rs r = s.th.rs r) ∧ t.th.v = s.th.v ∧ Advances s t 4 ∧ SameBytes s t) ∧
      (s.th.rs a >>> 6 = 0 → (s.th.rs a).toNat ≠ n → ((s.cluster (clusterOf s.tid)).inboxes.get {} (s.th.rs a).toNat).bound = none →
        ∃ t, exec (.mbind d a) s = .next t ∧ t.th.inbox = some (s.th.rs a).toNat ∧ t.th.spill = [] ∧
          ((t.cluster (clusterOf s.tid)).inboxes.get {} n).bound = none ∧
          ((t.cluster (clusterOf s.tid)).inboxes.get {} n).msgs = s.th.spill ++ ((s.cluster (clusterOf s.tid)).inboxes.get {} n).msgs ∧
          t.th.rs d = 0)) ∧
  ∀ (s : State) (v : VReg) (d a : SReg),
    (cancelled s s.tid = false → s.th.inbox = none → ∃ t, exec (.mrecv v) s = .next t ∧ WritesV s t v 0 ∧ Advances s t 4) ∧
    (∀ m rest, cancelled s s.tid = false → waitingReqs s s.tid = m :: rest → ∃ t, exec (.mrecv v) s = .next t ∧ t.th.rv v = m ∧
      (∀ r, r ≠ v → t.th.rv r = s.th.rv r) ∧ waitingReqs t s.tid = rest ∧ t.th.s = s.th.s ∧ Advances s t 4 ∧ SameBytes s t) ∧
    (∀ (i : Nat) m o, cancelled s s.tid = false → i < 16 → s.th.reps[i]? = some (.reply m o) →
      (∀ (j : Nat) n q, j ≠ i → s.th.reps[j]? = some (.reply n q) → o < q) → ∃ t, exec (.mrecvRep v) s = .next t ∧ t.th.rv v = m ∧
      t.th.reps[i]? = some .free ∧ (∀ j, j ≠ i → t.th.reps[j]? = s.th.reps[j]?) ∧ (∀ r, r ≠ v → t.th.rv r = s.th.rv r) ∧ t.th.s = s.th.s ∧
      Advances s t 4 ∧ OnlyThread s t) ∧
    (∃ t, exec (.mpeek v) s = .next t ∧ WritesV s t v ((waitingReqs s s.tid).headD 0) ∧ Advances s t 4) ∧
    (∃ t x, exec (.mpeekRep v) s = .next t ∧ WritesV s t v x ∧ Advances s t 4 ∧
      ((∀ (i : Nat) m o, s.th.reps[i]? ≠ some (.reply m o)) → x = 0) ∧
      ∀ (i : Nat) m o, s.th.reps[i]? = some (.reply m o) → (∀ (j : Nat) n q, j ≠ i → s.th.reps[j]? = some (.reply n q) → o < q) → x = m) ∧
    (s.th.rs a >>> 6 = 0 → ∀ n, n = (s.th.rs a).toNat →
      (((s.cluster (clusterOf s.tid)).inboxes.get {} n).bound = none → ∃ t, exec (.mbind d a) s = .next t ∧ t.th.inbox = some n ∧
        ((t.cluster (clusterOf s.tid)).inboxes.get {} n).bound = bindKey s s.tid ∧
        ((t.cluster (clusterOf s.tid)).inboxes.get {} n).job = slotOf s s.tid ∧ t.th.rs d = 0 ∧ (∀ r, r ≠ d → t.th.rs r = s.th.rs r) ∧
        t.th.v = s.th.v ∧ Advances s t 4 ∧ SameBytes s t) ∧
      (∀ h, ((s.cluster (clusterOf s.tid)).inboxes.get {} n).bound = some h → ∃ t, exec (.mbind d a) s = .next t ∧
        WritesS s t d (if some h = bindKey s s.tid then 0 else 1) ∧ Advances s t 4)) ∧
    (s.th.rs a >>> 7 = 0 → (s.th.rs a).getLsbD 6 = true → s.th.inbox = none →
      ∃ t, exec (.mbind d a) s = .next t ∧ WritesS s t d 3 ∧ Advances s t 4)

/-- 07 R137, R139–R141: the mesh takes the oldest message of a queue; a request of this module enters the inbox bound by its own job, or is refused with
status 1 where none is bound; a reply fills the slot reserved longest under its name; an acceptance frees its entry, a refusal keeps it
and makes 0x0D pending.
(The model's readings in it: log entry 39.) -/
def Obligations.MessageEvents : Prop :=
  (∀ (s : State) (m : Vec) (rest : List Vec), (s.thread s.ev.a).sq = m :: rest → epModule (msgTarget m) = s.regs.modnum % 1024 →
    ∃ t, exec .sendQueueAcceptance s = .next t ∧ (t.thread s.ev.a).sq = rest ∧
      (msgReply m = false → t.requests = s.requests ++ [{ msg := m, slot := slotOf s s.ev.a }] ∧ t.replies = s.replies) ∧
      (msgReply m = true → t.replies = s.replies ++ [m] ∧ t.requests = s.requests) ∧ OthersKept s t s.ev.a ∧ UnitsKept s t ∧ SameBytes s t) ∧
  (∀ (s : State) (f : Flight) (c : Nat), s.ev.flag = false → s.requests[s.ev.a]? = some f → c = epCluster (msgTarget f.msg) → msgPosted f.msg = false →
    (∀ q ∈ s.requests.take s.ev.a, msgSender q.msg ≠ msgSender f.msg ∨ epCluster (msgTarget q.msg) ≠ c) →
    (∀ b, b = (s.cluster c).inboxes.get {} (msgInbox f.msg) → b.bound.isSome = true → b.job = f.slot → b.msgs.length < 32 →
      ∃ t, exec .messageRequest s = .next t ∧ ((t.cluster c).inboxes.get {} (msgInbox f.msg)).msgs = b.msgs ++ [f.msg] ∧
        t.requests = s.requests.take s.ev.a ++ s.requests.drop (s.ev.a + 1) ∧ t.replies = s.replies ∧ SameBytes s t ∧ UnitsWoken s t) ∧
    (((s.cluster c).inboxes.get {} (msgInbox f.msg)).bound = none → ∃ t r, exec .messageRequest s = .next t ∧ t.replies = s.replies ++ [r] ∧
      msgStatus r = 1 ∧ msgTarget r = msgSender f.msg ∧ msgReply r = true ∧ t.threads = s.threads ∧ t.clusters = s.clusters ∧ SameBytes s t)) ∧
  (∀ (s : State) (m : Vec) (n : Nat) (q : Vec) (k : Nat), s.ev.flag = false → s.replies[s.ev.a]? = some m → epUnit (msgTarget m) < 0x24 → msgByte m 9 < 64 →
    (∀ x ∈ s.replies.take s.ev.a, msgSender x ≠ msgSender m ∨ msgTarget x ≠ msgTarget m) →
    n = threadOf (msgTarget m) (msgByte m 9) → (s.thread n).reps[msgSlot m]? = some (.reserved q n k) → slotOwner s n (msgSlot m) = some k →
    ∃ t, exec .messageReply s = .next t ∧ (t.thread n).reps[msgSlot m]? = some (.reply m s.serial) ∧ (t.thread n).s = (s.thread n).s ∧
      (∀ j, j ≠ msgSlot m → (t.thread n).reps[j]? = (s.thread n).reps[j]?) ∧ SameBytes s t) ∧
  ∀ (s : State) (f : PostFlight) (m : Vec) (k : Nat), s.ev.flag = false → f.entry < 16 → (s.thread f.tid).journal[f.entry]? = some (.sent m f.tid k) →
    entryOwner s f.tid f.entry = some k → postBefore s f = false →
    (s.accepts[s.ev.a]? = some f → f.status = 0 → ∃ t, exec .postedAcceptance s = .next t ∧ (t.thread f.tid).journal[f.entry]? = some .free ∧
      (t.thread f.tid).pend = (s.thread f.tid).pend ∧ SameBytes s t) ∧
    (s.refusals[s.ev.a]? = some f → f.status ≠ 0 → ∃ t, exec .postedRefusal s = .next t ∧
      (t.thread f.tid).journal[f.entry]? = some (.refused m f.status s.serial) ∧
      (t.thread f.tid).pend = (s.thread f.tid).pend ++ [{ code := 0x0D }] ∧ SameBytes s t)

/-! ### Tasks and graphs -/

/-- 13 R277–R281, 02 R32–R37: `TSPAWN` queues child number `spawned` at its placed unit with the path, entry and arguments given, or refuses the
16th level (−1), the 4,097th child (−2) and, outside deterministic mode, one whose descriptor finds no place (−3); where an earlier access is
outstanding the child waits for a release of its parent, which frees it; `TJOIN` with every child ended writes the records and the count word; `TEXIT` ends the task with
its record, a pair's once both threads have executed it; `TPATH`, `CORES` and `TYIELD`.
(The model's readings in it: log entries 41 and 42.) -/
def Obligations.TaskInstructions : Prop :=
  (∀ (s : State) (o : Out) (counted : Bool), (s.thread s.ev.a).out? s.ev.b = some o → o.serial = s.ev.b → o.kind = .store (some .module) counted →
    o.elems = [] → (∀ x ∈ (s.thread s.ev.a).owed, o.serial ≤ x.serial) → (s.tile (tileOf s.ev.a)).queue = [] →
    ∃ u, exec .storePerformed s = .next u ∧ (u.thread s.ev.a).out? s.ev.b = none ∧ (u.core (coreOf s.ev.a)).dirty = [] ∧ OthersKept s u s.ev.a ∧
      ∀ j c, s.tasks.find? j = some c → c.state = .held s.ev.a s.ev.b → u.tasks.find? j = some { c with state := .ready }) ∧
  ∀ (s : State) (k : Nat) (t : Task) (l : Launch) (d : SReg) (a : AReg) (x : SReg) (b : VReg), RunsTask s k t l →
    (roleOf s.tid ≠ 1 → (s.th.ra a).toNat % 4 = 0 →
      (t.path.length = 15 → ∃ u, exec (.tspawn d a b) s = .next u ∧ WritesS s u d (-1) ∧ Advances s u 4) ∧
      (t.path.length ≠ 15 → t.spawned = 4096 → ∃ u, exec (.tspawn d a b) s = .next u ∧ WritesS s u d (-2) ∧ Advances s u 4) ∧
      (∀ canon unit, t.path.length ≠ 15 → t.spawned ≠ 4096 → place s l (t.path ++ [t.spawned]) = some (canon, unit) → Quiet s → k ≠ s.nextTask →
        queuedOn s (unitCluster l.tile unit) < 4096 → ∃ u c, exec (.tspawn d a b) s = .next u ∧ u.tasks.find? s.nextTask = some c ∧
          c.parent = some k ∧ c.path = t.path ++ [t.spawned] ∧ c.entry = s.th.ra a ∧ c.args = s.th.rv b ∧ c.unit = unit ∧ c.state = .ready ∧
          (u.tasks.find? k).map (·.spawned) = some (t.spawned + 1) ∧ u.nextTask = s.nextTask + 1 ∧
          KeepsRegisters s u d (BitVec.ofNat 64 t.spawned) ∧ Advances s u 4 ∧ OthersKept s u s.tid ∧ SameBytes s u) ∧
      (∀ canon unit, t.path.length ≠ 15 → t.spawned ≠ 4096 → place s l (t.path ++ [t.spawned]) = some (canon, unit) →
        (∃ o ∈ s.th.owed, o.serial < s.serial) → k ≠ s.nextTask → queuedOn s (unitCluster l.tile unit) < 4096 →
        ∃ u c n o, exec (.tspawn d a b) s = .next u ∧ u.tasks.find? s.nextTask = some c ∧ c.parent = some k ∧ c.path = t.path ++ [t.spawned] ∧
          c.state = .held s.tid n ∧ u.th.outs = s.th.outs ++ [o] ∧ o.serial = n ∧ o.kind = .store (some .module) false ∧ o.elems = [] ∧
          (u.tasks.find? k).map (·.spawned) = some (t.spawned + 1) ∧
          KeepsRegisters s u d (BitVec.ofNat 64 t.spawned) ∧ Advances s u 4 ∧ OthersKept s u s.tid ∧ SameBytes s u) ∧
      (∀ canon unit, t.path.length ≠ 15 → t.spawned ≠ 4096 → place s l (t.path ++ [t.spawned]) = some (canon, unit) →
        descRoom s l (unitCluster l.tile unit) = none → (s.slot l.slot).det = false →
        ∃ u, exec (.tspawn d a b) s = .next u ∧ WritesS s u d (-3) ∧ Advances s u 4)) ∧
    (roleOf s.tid ≠ 1 → t.spawned ≤ t.joined → ∃ u, exec (.tjoin d a) s = .next u ∧ WritesS s u d (BitVec.ofNat 64 (t.joined * 2 ^ 32)) ∧ Advances s u 4) ∧
    (∀ e was r, roleOf s.tid ≠ 1 → t.spawned = t.joined + 1 → storeAt s (s.th.ra a) 64 64 = .ok e → outcomeOf s k t t.joined = some (was, r) → Quiet s →
      s.MemOk → writeDiscarded s (localOf e.pa) = false → (s.cluster (clusterOf s.tid)).stashLines = [] →
      ∃ u, exec (.tjoin d a) s = .next u ∧ Stores s u (localOf e.pa) 64 (if was then 0 else r) ∧
        (u.tasks.find? k).map (·.joined) = some t.spawned ∧
        KeepsRegisters s u d (BitVec.ofNat 64 (1 + (if was then 2 ^ 16 else 0) + t.joined * 2 ^ 32)) ∧ Advances s u 4) ∧
    (∀ (es : List Elem) (rs : List (Bool × Vec)), roleOf s.tid ≠ 1 → es ≠ [] → t.spawned = t.joined + es.length → rs.length = es.length →
      (s.th.ra a).toNat % 64 = 0 → (∀ (i : Nat) (e : Elem), es[i]? = some e → storeAt s (s.th.ra a + BitVec.ofNat 80 (64 * i)) 64 64 = .ok e ∧
        localOf e.pa % 64 = 0 ∧ writeDiscarded s (localOf e.pa) = false) →
      (∀ (i : Nat) (r : Bool × Vec), rs[i]? = some r → outcomeOf s k t (t.joined + i) = some r) → Quiet s → s.MemOk →
      (s.cluster (clusterOf s.tid)).stashLines = [] → (stashCapacity (s.cluster (clusterOf s.tid)) = 0 ∨ es.length ≤ stashCapacity (s.cluster (clusterOf s.tid))) →
      ∃ u, exec (.tjoin d a) s = .next u ∧ (u.tasks.find? k).map (·.joined) = some t.spawned ∧
        (∀ (i : Nat) (e : Elem) (r : Bool × Vec), es[i]? = some e → rs[i]? = some r →
          (∀ (n : Nat) (x : Elem), i < n → es[n]? = some x → localOf x.pa ≠ localOf e.pa) →
          ∀ n < 64, truthByte u (localOf e.pa + n) = byteOf (if r.1 then 0 else r.2) n) ∧
        (∀ y, (∀ e ∈ es, y < localOf e.pa ∨ localOf e.pa + 64 ≤ y) → truthByte u y = truthByte s y) ∧
        KeepsRegisters s u d (BitVec.ofNat 64 (es.length + (rs.filter (·.1)).length * 2 ^ 16 + t.joined * 2 ^ 32)) ∧ Advances s u 4) ∧
    (∀ (ob : Option VReg) (record : Vec), s.th.cp = 0 → s.th.mx = 0 → Quiet s → t.state = .running →
      record = (match ob with | some r => s.th.rv r | none => 0) →
      (l.tile = false → t.threads = [s.tid] →
        ∃ u, exec (.texit ob) s = .next u ∧ (u.tasks.find? k).map (·.state) = some (.ended false record) ∧
          u.th.task = none ∧ ∀ j, j ≠ k → u.tasks.find? j = s.tasks.find? j) ∧
      ∀ o, l.tile = true → o ≠ s.tid → t.threads = [s.tid, o] ∨ t.threads = [o, s.tid] →
        ((s.thread o).exited = false → ∃ u, exec (.texit ob) s = .next u ∧ u.th.exited = true ∧ u.th.task = some k ∧ SameBytes s u ∧
          u.tasks.find? k = some { t with record := if roleOf s.tid = 0 then record else t.record }) ∧
        ((s.thread o).exited = true → ∃ u, exec (.texit ob) s = .next u ∧ u.th.task = none ∧ (u.thread o).task = none ∧
          (u.tasks.find? k).map (·.state) = some (.ended false (if roleOf s.tid = 0 then record else t.record)))) ∧
    (∃ u, exec (.tpath d x) s = .next u ∧ Advances s u 4 ∧ WritesS s u d (if (s.th.rs x).toNat % 16 = 15 then BitVec.ofNat 64 t.path.length
      else if h : (s.th.rs x).toNat % 16 < t.path.length then BitVec.ofNat 64 t.path[(s.th.rs x).toNat % 16] else -1)) ∧
    (∃ u v, exec (.cores d x) s = .next u ∧ WritesS s u d v ∧ Advances s u 4 ∧
      ((s.slot l.slot).det = true → ((s.th.rs x).toNat = 0 → v = 2304) ∧ ((s.th.rs x).toNat = 1 → v = 384) ∧
        ((s.th.rs x).toNat = 6 → v = BitVec.ofNat 64 t.canon)) ∧ ((s.th.rs x).toNat = 6 → (s.slot l.slot).det = false → v = BitVec.ofNat 64 t.unit) ∧
      ((s.slot l.slot).det = false → ((s.th.rs x).toNat = 0 → v = BitVec.ofNat 64 (6 * ((List.range 384).filter (tilePresent s)).length)) ∧
        ((s.th.rs x).toNat = 1 → v = BitVec.ofNat 64 ((List.range 384).filter (tilePresent s)).length)) ∧
      (∀ n, 2 ≤ (s.th.rs x).toNat → (s.th.rs x).toNat ≤ 5 → l.split[(s.th.rs x).toNat - 2]? = some n →
        v = BitVec.ofNat 64 (if (s.slot l.slot).det = false ∧ n = 0 then (eligibleUnits s l).length else n)) ∧
      ((s.th.rs x).toNat = 7 → v = BitVec.ofNat 64 (if (s.slot l.slot).det then
        ((List.range 64).filter fun c => l.mask.getLsbD c).length * (if l.tile then 6 else 24) else (eligibleUnits s l).length)) ∧
      (7 < (s.th.rs x).toNat → v = -1)) ∧
    ∃ u, exec .tyield s = .next u ∧ u.thread s.tid = s.th.next 4 ∧ OthersKept s u s.tid ∧ SameBytes s u

/-- 13 R282–R284, 02 R43, R44: `TCANCEL` of a running launch of the job, of a child with everything below it, or of a graph's run (0), of one that has
ended (1), of nothing known (2); `GRUN` gives the next handle to a launch it starts, a
graph it runs, or one it refuses; `GCOND` is an outstanding release; `GSTAT` gives count, cause and state, all ones for an unknown handle.
(The model's readings in it: log entries 31, 44 and 99.) -/
def Obligations.GraphInstructions : Prop :=
  ∀ (s : State) (k : Nat) (t : Task) (l : Launch) (d x y : SReg) (a : AReg), RunsTask s k t l →
    (roleOf s.tid ≠ 1 → (s.th.rs y).toNat = 1 → (s.th.rs x).toNat ≠ 0 → s.launches.find? (s.th.rs x).toNat = none →
      ∃ u, exec (.tcancel d x y) s = .next u ∧ WritesS s u d 2 ∧ Advances s u 4) ∧
    (roleOf s.tid ≠ 1 → (s.th.rs y).toNat = 0 → t.spawned ≤ (s.th.rs x).toNat →
      ∃ u, exec (.tcancel d x y) s = .next u ∧ WritesS s u d 2 ∧ Advances s u 4) ∧
    (∀ h m, roleOf s.tid ≠ 1 → (s.th.rs y).toNat = 1 → h = (if (s.th.rs x).toNat = 0 then t.launch else (s.th.rs x).toNat) →
      s.launches.find? h = some m → m.slot = slotOf s s.tid →
      (m.state ≠ .running → ∃ u, exec (.tcancel d x y) s = .next u ∧ WritesS s u d 1 ∧ Advances s u 4) ∧
      (m.state = .running → m.cancel = false → m.handle = h → WorkInOrder s → ∃ u, exec (.tcancel d x y) s = .next u ∧
        KeepsRegisters s u d 0 ∧ Advances s u 4 ∧ TasksCancelled s u (·.launch = h) ∧ LaunchCancelled s u h m true 0x15 ∧
        (∀ n, n ≠ s.tid → OnlyWakes s u n) ∧
        (waitingTasks s (·.launch == h) < m.count → (s.slot m.slot).ending = none → SameBytes s u))) ∧
    (∀ c, roleOf s.tid ≠ 1 → (s.th.rs y).toNat = 0 → (s.th.rs x).toNat < t.spawned → childOf s k t (s.th.rs x).toNat = some c → WorkInOrder s →
      ∀ p : Task → Bool, (∀ z, p z = true ↔ z.launch = c.launch ∧ z.path.take c.path.length = c.path) →
      ((∀ z ∈ s.tasks, p z.2 = true → hasEnded z.2 = true) → ∃ u, exec (.tcancel d x y) s = .next u ∧ WritesS s u d 1 ∧ Advances s u 4) ∧
      ∀ z ∈ s.tasks, p z.2 = true → hasEnded z.2 = false → ∀ m, s.launches.find? c.launch = some m → ∃ u v, exec (.tcancel d x y) s = .next u ∧
        KeepsRegisters s u d 0 ∧ Advances s u 4 ∧ TasksCancelled s u (p · = true) ∧ (∀ n, n ≠ s.tid → OnlyWakes s u n) ∧
        u.launches.find? c.launch = some v ∧ v.count = m.count - waitingTasks s p ∧ v.cancel = m.cancel ∧
        v.cause = if waitingTasks s p = 0 ∨ m.cause ≠ 0 then m.cause else 0x15) ∧
    (∀ i g r, roleOf s.tid ≠ 1 → (s.th.rs y).toNat = 2 → graphRun? s (slotOf s s.tid) (s.th.rs x).toNat = some (i, g, r) → s.graphs.find? i = some g →
      g.run = some r → WorkInOrder s → ∃ u, exec (.tcancel d x y) s = .next u ∧ KeepsRegisters s u d 0 ∧ Advances s u 4 ∧
        RunCancelled u i r ∧ (∀ n, n ≠ s.tid → OnlyWakes s u n) ∧
        TasksCancelled s u (fun z => ∃ m, s.launches.find? z.launch = some m ∧ m.state = .running ∧ ∃ n, m.node = some (i, n)) ∧
        ∀ h m n, s.launches.find? h = some m → m.state = .running → m.cancel = false → m.node = some (i, n) → LaunchCancelled s u h m true 0x15) ∧
    (roleOf s.tid ≠ 1 → (s.th.rs y).toNat = 2 → graphRun? s (slotOf s s.tid) (s.th.rs x).toNat = none →
      (∀ e, s.graphEnds.find? (s.th.rs x).toNat = some e → ∃ u, exec (.tcancel d x y) s = .next u ∧
        WritesS s u d (if e.slot = slotOf s s.tid then 1 else 2) ∧ Advances s u 4) ∧
      (s.graphEnds.find? (s.th.rs x).toNat = none → ∃ u, exec (.tcancel d x y) s = .next u ∧ WritesS s u d 2 ∧ Advances s u 4)) ∧
    (2 < (s.th.rs y).toNat → roleOf s.tid ≠ 1 → ∃ u, exec (.tcancel d x y) s = .next u ∧ TrapsExactly s u 0x01 0 0) ∧
    (∀ e f cmd, roleOf s.tid ≠ 1 → s.th.rs y = 0 → (s.th.ra a).toNat % 64 = 0 → loadAt s (s.th.ra a) 64 64 = .ok e →
      loadAt s (s.th.ra a + 64) 64 64 = .ok f → ReadsBytes s false [e, f] cmd →
      (∀ m canon unit, allZero (sliceBytes cmd 32 32) = true → acceptLaunch s (slotOf s s.tid) cmd = some m → place s m [] = some (canon, unit) →
        ∃ u c, exec (.grun d a y) s = .next u ∧ (u.launches.find? s.nextHandle).map (·.state) = some .running ∧
          u.tasks.find? s.nextTask = some c ∧ c.parent = none ∧ c.path = [] ∧ c.entry = m.entry ∧ c.args = vecOfBytes (cmd.drop 64) ∧
          KeepsRegisters s u d (BitVec.ofNat 64 s.nextHandle) ∧ Advances s u 4 ∧ SameBytes s u) ∧
      (allZero (sliceBytes cmd 32 32) = false ∨ acceptLaunch s (slotOf s s.tid) cmd = none →
        ∃ u, exec (.grun d a y) s = .next u ∧ (u.launches.find? s.nextHandle).map (·.state) = some .refused ∧ u.tasks = s.tasks ∧
          KeepsRegisters s u d (BitVec.ofNat 64 s.nextHandle) ∧ Advances s u 4 ∧ SameBytes s u)) ∧
    (∀ i g, roleOf s.tid ≠ 1 → i < 64 → s.th.rs y = BitVec.ofNat 64 (1 + 256 * i) → Quiet s →
      s.graphs.find? (dieOf (clusterOf s.tid) * 64 + i) = some g → g.slot = slotOf s s.tid → g.run = none →
      ∃ u r, exec (.grun d a y) s = .next u ∧ (u.graphs.find? (dieOf (clusterOf s.tid) * 64 + i)).bind (·.run) = some r ∧
        r.handle = s.nextHandle ∧ r.cancel = false ∧ (∀ n, n ∈ r.due ↔ n < g.nodes.length ∧ ∀ z ∈ g.nodes, n ∉ z.succs) ∧
        KeepsRegisters s u d (BitVec.ofNat 64 s.nextHandle) ∧ Advances s u 4 ∧ SameBytes s u) ∧
    (∀ e, storeAt s (s.th.ra a) 8 8 = .ok e → MayAccess s true → s.th.st < 63 → s.MemOk → ∃ u o, exec (.gcond a x) s = .next u ∧
      u.th.outs = s.th.outs ++ [o] ∧ o.kind = .store (some .module) true ∧ Spans o.elems e.pa 8 ∧ Carries o.elems 8 ((s.th.rs x).setWidth 512) ∧
      u.th.st = s.th.st + 1 ∧ IssuesOnly s u ∧ KeepsBytesBut s u s.cur (localOf e.pa) 8) ∧
    (∀ h m, MayAccess s false → h = (if s.th.rs x = 0 then t.launch else (s.th.rs x).toNat) → s.launches.find? h = some m → m.slot = slotOf s s.tid →
      m.count < 2 ^ 32 → m.cause < 256 → ∃ u w, exec (.gstat d x) s = .next u ∧ KeepsRegisters s u d w ∧ Advances s u 4 ∧ SameBytes s u ∧
        (w >>> 32).toNat = m.count ∧ (w.extractLsb' 8 8).toNat = m.cause ∧
        (w.extractLsb' 0 8).toNat = (match m.state with | .running => 0 | .complete => 1 | .cancelled => 2 | .refused => 3)) ∧
    ((s.th.rs x).toNat ≠ 0 → MayAccess s false → s.launches.find? (s.th.rs x).toNat = none → graphRun? s (slotOf s s.tid) (s.th.rs x).toNat = none →
      s.graphEnds.find? (s.th.rs x).toNat = none → ∃ u, exec (.gstat d x) s = .next u ∧ WritesS s u d (-1) ∧ Advances s u 4)

/-! ### System instructions and the supervisor -/

/-- 08 R186, 19 R347, R348, 13 R286, R287: `ERET` from the user handler (UEPC, act cleared) and from the supervisor's (SEPC, the saved registers back);
outside both it is cause 0x01, and `HALT` is 0x02; in the supervisor `HALT` ends the interrupted context; `IDLE` completes once its wait ends.
(The model's readings in it: log entries 47, 48 and 99.) -/
def Obligations.HandlerReturns : Prop :=
  ∀ s : State,
    (s.th.sup.act = false → s.th.utvec.getLsbD 1 = true → ∃ t, exec .eret s = .next t ∧ OnlyThread s t ∧
      t.th = { s.th with pc := s.th.uepc &&& ~~~3, utvec := s.th.utvec &&& ~~~2 }) ∧
    (s.th.sup.act = false → s.th.utvec.getLsbD 1 = false → ∃ t, exec .eret s = .next t ∧ TrapsExactly s t 0x01 0 0) ∧
    (s.th.sup.act = true → ∃ t, exec .eret s = .next t ∧ t.th.pc = s.th.sup.epc &&& ~~~3 ∧ t.th.sup.act = false ∧ t.th.sup.lat = false ∧
      t.th.rs 30 = s.th.sup.sav0 ∧ t.th.rs 31 = s.th.sup.sav1 ∧ t.th.ra 6 = s.th.sup.sava ∧ (∀ r, r ≠ 30 → r ≠ 31 → t.th.rs r = s.th.rs r) ∧
      (∀ r, r ≠ 6 → t.th.ra r = s.th.ra r) ∧ t.th.v = s.th.v ∧ t.th.m = s.th.m ∧ OthersKept s t s.tid ∧ SameBytes s t) ∧
    (s.th.sup.act = false → ∃ t, exec .halt s = .next t ∧ TrapsExactly s t 0x02 0 0) ∧
    (s.th.sup.act = true → s.th.sup.saved = false → ∃ t, exec .halt s = .next t ∧ (t.thread s.tid).sup.act = false ∧ (t.thread s.tid).sup.lat = false ∧
      (s.th.task = none → SameBytes s t ∧ OthersKept s t s.tid ∧ (t.thread s.tid).s = s.th.s) ∧
      ∀ k x, s.th.task = some k → s.tasks.find? k = some x → x.threads = [s.tid] → (∀ c r, x.state ≠ .ended c r) → (t.thread s.tid).task = none) ∧
    (s.th.hold = some .done → ∃ t, exec .idle s = .next t ∧ OnlyThread s t ∧ Advances s t 4 ∧
      t.th = { s.th with pc := t.th.pc, loop0 := t.th.loop0, loop1 := t.th.loop1, hold := none }) ∧
    (s.th.hold = none → cancelled s s.tid = false → ∃ t, exec .idle s = .next t ∧ t.stalled = true ∧ SameBytes s t ∧
      t.thread s.tid = { s.th with hold := some .idle } ∧ OthersKept s t s.tid)

/-- 08 R167–R171, 13 R288, 19 R347: reads and writes of the registers that read as they stand, a supervisor one only inside a handler (0x02 outside);
a reserved index is cause 0x01. `IFLUSH` empties the tile's instruction cache of every line of the range, none for a length of 0, and (13 R289 allows it; the model's choice, log entry
45) of all of them for one of 65,536 bytes or more; `TLBI` begins an invalidation and ends with it.
(The model's readings in it: log entries 45, 99, 100 and 139 (0x02 in the form of the other class too: the model's choice).) -/
def Obligations.ControlRegisters : Prop :=
  (∀ (s : State) (i : BitVec 12) (r : SReg) (x : Word), heldWord s.th i.toNat = some x → (i.toNat < 0x100 ∨ s.th.sup.act = true) →
    (∃ t, exec (.ctlr (.s r) i) s = .next t ∧ WritesS s.bump t r x ∧ Advances s t 4) ∧
    (i.toNat ≠ 0x010 → ∃ t, exec (.ctlw i (.s r)) s = .next t ∧ heldWord t.th i.toNat = some (s.th.rs r &&& writableBits i.toNat) ∧
      (∀ j, j ≠ i.toNat → heldWord t.th j = heldWord s.th j) ∧ KeepsGeneral s t ∧ Advances s t 4 ∧ OnlyThread s t)) ∧
  (∀ (s : State) (i : BitVec 12) (r : AReg) (x : Addr), heldAddr s s.th i.toNat = some x → (i.toNat < 0x100 ∨ s.th.sup.act = true) →
    (∃ t, exec (.ctlr (.a r) i) s = .next t ∧ WritesA s t r x ∧ Advances s t 4) ∧
    ∃ t, exec (.ctlw i (.a r)) s = .next t ∧ heldAddr t t.th i.toNat = some (s.th.ra r) ∧ KeepsGeneral s t ∧ SameBytes s t ∧
      Advances s t 4 ∧ OthersKept s t s.tid) ∧
  (∀ (s : State) (i : BitVec 12) (d : CReg), 0x100 ≤ i.toNat → s.th.sup.act = false →
    (∃ t, exec (.ctlr d i) s = .next t ∧ TrapsExactly s t 0x02 0 0) ∧ ∃ t, exec (.ctlw i d) s = .next t ∧ TrapsExactly s t 0x02 0 0) ∧
  (∀ (s : State) (i : BitVec 12) (r : SReg), (i.toNat = 2 ∨ i.toNat = 0x0FF ∨ i.toNat = 0x020) → s.th.sup.act = false →
    (∃ t, exec (.ctlr (.s r) i) s = .next t ∧ TrapsExactly s t 0x01 0 0) ∧ ∃ t, exec (.ctlw i (.s r)) s = .next t ∧ TrapsExactly s t 0x01 0 0) ∧
  ∀ (s : State) (a : AReg) (d : SReg),
    ((∀ o ∈ s.th.outs, o.releases = false) → ∃ t, exec (.iflush a d) s = .next t ∧ Advances s t 4 ∧ UnitsKept s t ∧ SameBytes s t ∧
      t.th = { s.th with pc := t.th.pc, loop0 := t.th.loop0, loop1 := t.th.loop1, outs := t.th.outs } ∧ OthersFill s t s.tid ∧
      (65536 ≤ (s.th.rs d).toNat → (t.tile (tileOf s.tid)).icache = []) ∧
      ((s.th.rs d).toNat = 0 → (t.tile (tileOf s.tid)).icache = (s.tile (tileOf s.tid)).icache) ∧
      (∀ (i : Nat) (l : Leaf), (s.th.rs d).toNat < 65536 → 64 * i < (s.th.ra a).toNat % 64 + (s.th.rs d).toNat → 0 < (s.th.rs d).toNat →
        translate s s.tid ((s.th.ra a &&& ~~~63) + BitVec.ofNat 80 (64 * i)) .read = .ok l → ∀ x ∈ (t.tile (tileOf s.tid)).icache, x.1 ≠ l.pa / 64) ∧
      t.tile (tileOf s.tid) = { s.tile (tileOf s.tid) with icache := (t.tile (tileOf s.tid)).icache }) ∧
    (s.th.sup.act = false → ∃ t, exec (.tlbi a d) s = .next t ∧ TrapsExactly s t (if (s.th.rs d).extractLsb' 21 3 = 0 then 0x02 else 0x01) 0 0) ∧
    (s.th.sup.act = true → (s.th.rs d).extractLsb' 21 3 = 0 → s.th.hold ≠ some .done → (∀ i ∈ s.invalidations, i.tid ≠ some s.tid) →
      ∃ t i, exec (.tlbi a d) s = .next t ∧ t.invalidations = s.invalidations ++ [i] ∧ i.tid = some s.tid ∧ i.va = (s.th.ra a).toNat ∧
        i.operand = s.th.rs d ∧ (t.thread s.tid).pc = s.th.pc) ∧
    (s.th.sup.act = true → (s.th.rs d).extractLsb' 21 3 = 0 → s.th.hold = some .done → Quiet s →
      ∃ t, exec (.tlbi a d) s = .next t ∧ t.th.hold = none ∧ t.th.s = s.th.s ∧ t.th.v = s.th.v ∧ SameBytes s t ∧ Advances s t 4)

/-- 19 R346, R347, R349–R351, 10 R224, 05 R103: the supervisor's operations inside a handler: key-table entries written, read and freed by `SKIDX`, each
with its status; a range committed; `SPROT`, once no access of the cluster is in flight, with all remote copies and stash lines dropped (the model's
choice, log entry 30); the interrupted context saved in an image and restored from one.
(The model's readings in it: log entries 30, 46 and 49.) -/
def Obligations.SupervisorOperations : Prop :=
  ∀ (s : State) (c : Nat), s.th.sup.act = true → c = clusterOf s.tid →
    (∀ e, e = entryOf s.th.sup.klo s.th.sup.khi → (s.th.sup.klo >>> 56).toNat = 1 →
      (∀ st, entryRefusal s c s.th.sup.kidx e = st → st ≠ 0 → ∃ t, exec .skopWrite s = .next t ∧ t.th.sup.kst = st ∧ OnlyThread s t ∧
        t.th = { s.th with sup := { s.th.sup with kst := st } }) ∧
      (entryRefusal s c s.th.sup.kidx e = 0 → ∃ t, exec .skopWrite s = .next t ∧ t.th.sup.kst = 0 ∧ KeepsGeneral s t ∧ SameBytes s t ∧
        (t.cluster c).keys.find? s.th.sup.kidx = some
          ⟨(s.th.sup.klo.extractLsb' 0 32).toNat, (s.th.sup.klo.extractLsb' 32 24).toNat, (s.th.sup.khi.extractLsb' 0 8).toNat,
            (s.th.sup.khi.extractLsb' 8 8).toNat, (s.th.sup.khi.extractLsb' 16 8).toNat, (s.th.sup.khi.extractLsb' 32 16).toNat⟩ ∧
        ∀ i, i ≠ s.th.sup.kidx → (t.cluster c).keys.find? i = (s.cluster c).keys.find? i)) ∧
    (∃ t, exec .skopRead s = .next t ∧ t.th.sup.kst = 0 ∧ KeepsGeneral s t ∧ OnlyThread s t ∧
      ((s.cluster c).keys.find? s.th.sup.kidx = none → t.th.sup.klo = 0 ∧ t.th.sup.khi = 0) ∧
      ∀ e, (s.cluster c).keys.find? s.th.sup.kidx = some e → e.base < 2 ^ 32 → e.len < 2 ^ 24 → e.holder < 256 → e.pending < 256 → e.lender < 256 →
        e.job < 2 ^ 16 → entryOf t.th.sup.klo t.th.sup.khi = e ∧ (t.th.sup.klo >>> 56).toNat = 1) ∧
    (∀ e, (s.cluster c).keys.find? s.th.sup.kidx = some e → Assoc.rising (s.cluster c).keys = true →
      (e.lender = 0xFF → ∃ t, exec .skopFree s = .next t ∧ t.th.sup.kst = 0 ∧ (t.cluster c).keys.find? s.th.sup.kidx = none ∧ SameBytes s t ∧
        ∀ i, i ≠ s.th.sup.kidx → (t.cluster c).keys.find? i = (s.cluster c).keys.find? i) ∧
      (e.lender ≠ 0xFF → ∃ t, exec .skopFree s = .next t ∧ t.th.sup.kst = 4 ∧ OnlyThread s t)) ∧
    (s.th.sup.rhi.getLsbD 0 = true → ∃ t, exec .sropCommit s = .next t ∧ t.th.sup.rbusy = true ∧ KeepsGeneral s t ∧ SameBytes s t ∧
      t.ranges.find? ((s.th.sup.ridx.extractLsb' 16 10).toNat * 16 + (s.th.sup.ridx.extractLsb' 0 4).toNat) =
        some ((s.th.sup.rlo.extractLsb' 0 32).toNat, (s.th.sup.rlo.extractLsb' 32 32).toNat, s.th.sup.rhi.getLsbD 1)) ∧
    (∃ t, exec .sropCommitDone s = .next t ∧ (t.thread s.ev.a).sup.rbusy = false ∧ OthersKept s t s.ev.a ∧ SameBytes s t) ∧
    (∀ n, n = (s.ev.v.extractLsb' 0 4).toNat → 1 ≤ n → n ≤ 8 → (s.cluster c).scratch + (s.cluster c).stash + n ≤ 24 → s.images = [] →
      n ≠ (s.cluster c).prot → (clusterBusy s c = true → exec .sprotWrite s = .next s) ∧
      (clusterBusy s c = false → ∃ t, exec .sprotWrite s = .next t ∧ (t.cluster c).prot = n ∧ (t.cluster c).scratch = (s.cluster c).scratch ∧
        (t.cluster c).remote = [] ∧ (t.cluster c).stashLines = [] ∧ t.threads = s.threads)) ∧
    (Quiet s → s.th.sq = [] → s.th.inbox = none → (s.tile (tileOf s.tid)).pair = none → s.th.spill = [] →
      imagePlace s s.tid s.th.sup.ctxa.toNat (imageLength (savedThread s.th) false) = true →
      ∃ t im, exec .sctxSave s = .next t ∧ t.th.sup.saved = true ∧ t.images.find? s.serial = some im ∧ im.addr = s.th.sup.ctxa.toNat ∧
        im.tid = s.tid ∧ im.task = s.th.task ∧ im.th.pc = s.th.sup.epc ∧ im.th.rs 30 = s.th.sup.sav0 ∧ im.th.rs 31 = s.th.sup.sav1 ∧
        im.th.ra 6 = s.th.sup.sava ∧ im.th.v = s.th.v ∧ im.th.win = s.th.win ∧ KeepsGeneral s t) ∧
    ∀ n im k x, Quiet s → s.th.sup.lat = false → imagePlace s s.tid s.th.sup.ctxa.toNat 64 = true → imageAt s s.th.sup.ctxa.toNat = some (n, im) →
      imageFits s s.tid im = true → s.th.task = none → im.tileState = none → im.task = some k → s.tasks.find? k = some x →
      ∃ t, exec .sctxRestore s = .next t ∧ t.th.task = some k ∧ t.th.sup.epc = im.th.pc ∧ t.th.pc = s.th.pc ∧ t.th.sup.sav0 = im.th.rs 30 ∧
        t.th.sup.sav1 = im.th.rs 31 ∧ t.th.sup.sava = im.th.ra 6 ∧ t.th.v = im.th.v ∧ t.th.win = im.th.win ∧ t.th.sup.act = true ∧
        (t.tasks.find? k).map (·.state) = some .running ∧ SameBytes s t

/-! ### Scheduling, queues, graphs -/

/-- 02 R35–R45, 08 R166, R184–R187, 09 R207, 13 R287, 19 R348–R352: a queued task starts on the free thread of its unit, a pair's on both threads of its tile, with PC, `a0` and `v0` as given and all
else zero; a parked one, its children over, resumes with the context it parked, after an acquire of cluster scope; a pre-emption, an expired grace period and an offered image enter the supervisor handler with their reason; a pending cause enters
a handler with bit 15; the quantum's end, the watchdog, the ends of `IDLE` and `REALIGN`; undecodable words are cause 0x01, a fetch
that cannot be translated 0x04.
(The model's readings in it: log entry 99.) -/
def Obligations.SchedulingEvents : Prop :=
  (∀ (s : State) (t : Task) (l : Launch) (n : Nat), s.tasks.find? s.ev.a = some t → t.id = s.ev.a → s.launches.find? t.launch = some l → l.tile = false →
    t.state = .ready → unitThread s false t.unit = some n → waiting s false t.unit ≤ launchPrio s l + 1 →
    (∀ o ∈ unitWork s false t.unit, taskPrio s o = launchPrio s l → isReady o = true → t.id ≤ o.id) →
    ∃ u, exec .taskDispatch s = .next u ∧ (u.thread n).pc = t.entry ∧ (u.thread n).ra 0 = l.header ∧ (u.thread n).rv 0 = t.args ∧
      (∀ r, (u.thread n).rs r = 0) ∧ (∀ r, r ≠ 0 → (u.thread n).ra r = 0) ∧ (∀ r, r ≠ 0 → (u.thread n).rv r = 0) ∧ (u.thread n).prec = 53 ∧
      (u.thread n).task = some s.ev.a ∧ (u.tasks.find? s.ev.a).map (·.threads) = some [n] ∧ OthersFill s u n ∧ SameBytes s u) ∧
  (∀ (s : State) (t : Task) (l : Launch) (n : Nat), s.tasks.find? s.ev.a = some t → t.id = s.ev.a → s.launches.find? t.launch = some l →
    unitThread s l.tile t.unit = some n → waiting s l.tile t.unit ≤ launchPrio s l + 1 →
    (l.tile = true → t.state = .ready →
      (∀ o ∈ unitWork s true t.unit, taskPrio s o = launchPrio s l → isReady o = true → t.id ≤ o.id) →
      ∃ u, exec .taskDispatch s = .next u ∧ (u.tasks.find? s.ev.a).map (fun x => (x.state, x.threads)) = some (.running, [n, n + 4]) ∧
        (u.tile (tileOf n)).pair = some s.ev.a ∧ (u.tile (tileOf n)).sems = Vector.replicate 8 0 ∧ OthersFill (s.setThread (n + 4) (u.thread (n + 4))) u n ∧
        SameBytes s u ∧ ∀ m, m = n ∨ m = n + 4 → (u.thread m).pc = t.entry ∧ (u.thread m).ra 0 = l.header ∧ (u.thread m).rv 0 = t.args ∧
          (∀ r, (u.thread m).rs r = 0) ∧ (∀ r, r ≠ 0 → (u.thread m).ra r = 0) ∧ (∀ r, r ≠ 0 → (u.thread m).rv r = 0) ∧ (u.thread m).prec = 53 ∧
          (u.thread m).task = some s.ev.a) ∧
    (∀ p, t.state = .parked p → dispatchable s t = true → p.other.isSome = l.tile → p.tile.isSome = l.tile →
      ∃ u, exec .taskDispatch s = .next u ∧ u.tasks.find? s.ev.a = some { t with state := .running, threads := if l.tile then [n, n + 4] else [n] } ∧
        u.thread n = { p.th with sup := (s.thread n).sup, halted := (s.thread n).halted, outs := (u.thread n).outs } ∧
        (∀ o, p.other = some o → u.thread (n + 4) = { o with sup := (s.thread (n + 4)).sup, halted := (s.thread (n + 4)).halted
                                                             outs := (u.thread (n + 4)).outs }) ∧
        (∀ x, p.tile = some x → u.tile (tileOf n) = { x with icache := (s.tile (tileOf n)).icache, pair := some s.ev.a, lastJob := some l.slot }) ∧
        (∀ x ∈ (u.core (coreOf n)).lines, x.2.readOnly = true) ∧
        OthersFill (if l.tile then s.setThread (n + 4) (u.thread (n + 4)) else s) u n ∧ SameBytes s u)) ∧
  (∀ (s : State) (k : Nat), k < 4 → runnable (s.thread (s.ev.a * 4 + (k + 1) % 4)) = true → (s.core s.ev.a).running = k →
    ∃ u, exec .quantumExpiry s = .next u ∧ (u.core s.ev.a).running = (k + 1) % 4 ∧ u.threads = s.threads ∧ SameBytes s u) ∧
  (∀ (s : State) (t : Task), taskOf s s.ev.a = some t → t.threads = [s.ev.a] → (s.thread s.ev.a).sup.act = false → (s.thread s.ev.a).halted = false →
    (s.thread s.ev.a).hold = none → (s.thread s.ev.a).task.isSome = true → serving s s.ev.a < asking s s.ev.a →
    ∃ u v, exec .preemption s = .next u ∧ v = supEntered (s.thread s.ev.a) (s.cluster (clusterOf s.ev.a)).svec 1 0 (s.thread s.ev.a).pc 0 ∧
      u.thread s.ev.a = { v with sup := { v.sup with req := asking s s.ev.a } } ∧ OthersKept s u s.ev.a ∧ SameBytes s u) ∧
  (∀ (s : State) (im : Image) (n : Nat), s.images.find? s.ev.b = some im → freeThread s s.ev.a = true → tilePresent s (tileOf s.ev.a) = true → im.cluster = clusterOf s.ev.a → im.demand ≤ wcap s s.ev.a →
    2 ≤ roleOf im.tid → 2 ≤ roleOf s.ev.a → (∀ x ∈ s.threads, x.2.task = none ∨ x.2.task ≠ im.task ∨ x.1 ≠ im.tid) →
    n = (match im.task.bind s.tasks.find? with | some k => taskPrio s k + 1 | none => 0) → waiting s false (coreOf s.ev.a) ≤ n →
    ∃ u, exec .supervisorRestoreEntry s = .next u ∧ (u.thread s.ev.a).sup.act = true ∧ (u.thread s.ev.a).sup.why = 3 ∧
      (u.thread s.ev.a).sup.ctxa = BitVec.ofNat 80 im.addr ∧ (u.thread s.ev.a).sup.req = n ∧ (u.thread s.ev.a).pc = (s.cluster (clusterOf s.ev.a)).svec &&& ~~~3 ∧
      OthersKept s u s.ev.a ∧ SameBytes s u) ∧
  (∀ (s : State) (t : Task) (n : Nat), s.ev.a ∈ s.grace → s.tasks.find? s.ev.a = some t → t.state = .running → t.threads = [n] →
    (s.thread n).sup.act = false → (s.thread n).hold = none → ∃ u, exec .cancelGraceExpiry s = .next u ∧ s.ev.a ∉ u.grace ∧
      u.thread n = supEntered (s.thread n) (s.cluster (clusterOf n)).svec 2 0 (s.thread n).pc 0 ∧ OthersKept s u n ∧ SameBytes s u) ∧
  (∀ (s : State) (l : Launch), s.launches.find? s.ev.a = some l → l.watchdog ≠ 0 → l.state = .running → l.cancel = false → WorkInOrder s →
    ∃ u, exec .watchdogExpiry s = .next u ∧ LaunchCancelled s u s.ev.a l false 0x13 ∧ TasksCancelled s u (·.launch = s.ev.a) ∧
      (∀ n, OnlyWakes s u n) ∧
      (waitingTasks s (·.launch == s.ev.a) < l.count → (s.slot l.slot).ending = none → SameBytes s u)) ∧
  (∀ (s : State) (p : Pending) (t : Thread), t = s.thread s.ev.a → t.sup.act = false → runnable t = true → t.pend = [p] → p.code ≠ 0x0D → p.code ≠ 0x16 →
    p.code < 64 → p.sub < 16 → p.detail < 65536 → t.hold = none → ∃ u cause, exec .asyncTrapEntry s = .next u ∧
      cause = BitVec.ofNat 64 (p.code + p.sub * 2 ^ 8 + 2 ^ 15 + p.detail * 2 ^ 48) ∧
      (UserTakes t p.code → u.thread s.ev.a = userEntered { t with pend := [] } cause t.pc p.fva) ∧
      (¬ UserTakes t p.code → u.thread s.ev.a = supEntered { t with pend := [] } (s.cluster (clusterOf s.ev.a)).svec 0 cause t.pc p.fva) ∧
      OthersKept s u s.ev.a ∧ SameBytes s u) ∧
  (∀ s : State, (s.thread s.ev.a).hold = some .realign → ∃ u, exec .realignLimitExpiry s = .next u ∧ OthersKept s u s.ev.a ∧ SameBytes s u ∧
    u.thread s.ev.a = { s.thread s.ev.a with hold := some .done }) ∧
  (∀ s : State, (s.thread s.ev.a).hold = some .idle → ∃ u, exec .idleTimeout s = .next u ∧ OthersKept s u s.ev.a ∧ SameBytes s u ∧
    u.thread s.ev.a = { s.thread s.ev.a with hold := some .done }) ∧
  ∀ s : State, s.th.sup.act = false → (fetchInstr s = .illegal → ∃ u, exec .illegalInstruction s = .next u ∧ TrapsExactly s u 0x01 0 0) ∧
    ∀ va, fetchInstr s = .fault va → ∃ u, exec .fetchTranslation s = .next u ∧ TrapsExactly s u 0x04 0 va

/-- 18 R331–R333, 02 R29: a resident queue's next entry starts its launch or its graph under the entry's index, or, once everything before it is over, counts a
phase in `JPROG`; a tail write in the window is taken, one beyond it is error 1; cancelling completes the pending entries; an error is
cleared only while disabled; the four moves of a switch.
(The model's readings in it: log entries 58, 59, 60 and 117.) -/
def Obligations.QueueEvents : Prop :=
  ∀ (s : State) (q : Queue) (bs : List Byte), q = s.queue s.ev.a → bs = entryBytes s s.ev.a →
    (queueReady s s.ev.a = true → s.ev.flag = false → s.ev.b ≠ 1 → s.ev.b ≠ 2 → entryForm bs = true → natAt bs 34 1 = 0 →
      (∀ l canon unit, natAt bs 32 1 = 1 → acceptLaunch s q.slot bs = some l → place s l [] = some (canon, unit) →
        ∃ t c, exec .queueLaunchEntry s = .next t ∧ (t.queue s.ev.a).entries = q.entries ++ [⟨q.started, .launch l.handle, false⟩] ∧
          (t.queue s.ev.a).started = (q.started + 1) % 2 ^ 32 ∧ (t.launches.find? l.handle).bind (·.queue) = some (s.ev.a, q.started) ∧
          t.tasks.find? s.nextTask = some c ∧ c.entry = l.entry ∧ c.args = vecOfBytes (bs.drop 64) ∧ t.threads = s.threads ∧ SameBytes s t) ∧
      (∀ k g, natAt bs 32 1 = 2 → k = natAt bs 33 1 / 128 * 64 + natAt bs 33 1 % 64 → s.graphs.find? k = some g → g.slot = q.slot → g.run = none →
        ∃ t r, exec .queueGraphEntry s = .next t ∧ (t.queue s.ev.a).entries = q.entries ++ [⟨q.started, .graph k s.nextHandle, false⟩] ∧
          (t.graphs.find? k).bind (·.run) = some r ∧ r.queue = some (s.ev.a, q.started) ∧ r.handle = s.nextHandle ∧ t.threads = s.threads ∧
          SameBytes s t) ∧
      (natAt bs 32 1 = 3 → (∀ e ∈ q.entries, e.done = true) → phaseOver s q.slot = true → ∃ t, exec .queuePhaseBoundary s = .next t ∧
        (t.slot q.slot).prog = (s.slot q.slot).prog + 1 ∧ (t.queue s.ev.a).started = (q.started + 1) % 2 ^ 32 ∧ t.threads = s.threads)) ∧
    (∀ n, s.ev.a < 64 → barRejected s (0x200010 + 0x1000 * s.ev.a) s.ev.slot = false → n = s.ev.v.toNat % 2 ^ 32 → q.enable = true → q.err = false →
      ((n + 2 ^ 32 - q.prog) % 2 ^ 32 ≤ 2 ^ q.k → q.where_ = .resident → q.savedTail = none → (n + 2 ^ 32 - q.tail) % 2 ^ 32 < 2 ^ 31 →
        ∃ t, exec .qtailWrite s = .next t ∧ t.queue s.ev.a = { q with tail := n } ∧ t.threads = s.threads ∧ SameBytes s t) ∧
      (2 ^ q.k < (n + 2 ^ 32 - q.prog) % 2 ^ 32 → ∃ t, exec .qtailWrite s = .next t ∧ t.queue s.ev.a = { q with err := true, cause := 1 } ∧
        t.threads = s.threads ∧ SameBytes s t)) ∧
    (s.ev.a < 64 → barRejected s (0x200020 + 0x1000 * s.ev.a) s.ev.slot = false →
      (∀ n, q.entries = [] → n = (q.tail + 2 ^ 32 - q.started) % 2 ^ 32 → 0 < n → n ≤ 2 ^ 16 → q.where_ = .resident → q.savedTail = none → q.msix = false →
        (∀ c, (s.cluster c).stashLines = []) → ∃ t, exec .qctlCancel s = .next t ∧ (t.queue s.ev.a).prog = (q.prog + n) % 2 ^ 32 ∧
          (t.queue s.ev.a).started = (q.started + n) % 2 ^ 32 ∧ (t.queue s.ev.a).entries = [] ∧ t.threads = s.threads ∧ SameBytes s t) ∧
      ∃ t, exec .qctlClearError s = .next t ∧ t.queue s.ev.a = (if q.enable then q else { q with err := false, cause := 0 }) ∧ t.threads = s.threads ∧
        SameBytes s t) ∧
    (q.where_ = .resident → givesWay s s.ev.a = true →
      ∃ t, exec .queueSwitchOut s = .next t ∧ t.queue s.ev.a = { q with where_ := .switchingOut, shown := progWord q } ∧ SameBytes s t) ∧
    (q.where_ = .switchingOut → ∃ t, exec .queueSwitchOutDone s = .next t ∧ t.queue s.ev.a = { q with where_ := .saved } ∧ SameBytes s t) ∧
    (q.where_ = .saved → takesPlace s s.ev.a = true →
      ∃ t, exec .queueSwitchIn s = .next t ∧ t.queue s.ev.a = { q with where_ := .switchingIn, shown := progWord q } ∧ SameBytes s t) ∧
    (q.where_ = .switchingIn → (∀ e ∈ q.entries.head?, e.done = false) → ∃ t, exec .queueSwitchInDone s = .next t ∧
      t.queue s.ev.a = { q with where_ := .resident, tail := q.savedTail.getD q.tail, savedTail := none } ∧ SameBytes s t)

/-- 02 R30, R31, 18 R329, R330: a due node without incoming regions: a launch or an engine card starts under the node; a conditional node makes successor
min(w, n − 1) due and a while node its body while the word is not zero; a signal node writes its word or counts; the loader takes a command
while idle, and a well-formed image in an enabled slot becomes the resident graph, status 0.
(The model's readings in it: log entries 7 and 61.) -/
def Obligations.GraphEvents : Prop :=
  (∀ (s : State) (g : Graph) (r : GraphRun) (x : Node) (kind : Nat), dueNode s s.ev.a s.ev.b kind = some (g, r, x) → incoming g s.ev.b = [] →
    (∀ l canon unit, kind = 1 → s.ev.b < r.states.length → allZero (sliceBytes x.command 32 32) = true → acceptLaunch s g.slot x.command = some l →
      place s l [] = some (canon, unit) → ∃ t y, exec .graphLaunchNode s = .next t ∧ (t.launches.find? l.handle).bind (·.node) = some (s.ev.a, s.ev.b) ∧
        (t.graphs.find? s.ev.a).bind (·.run) = some y ∧ y.states[s.ev.b]? = some .started ∧ s.ev.b ∉ y.due ∧ t.threads = s.threads ∧ SameBytes s t) ∧
    (∀ card p, kind = 2 → p = nodeParty s s.ev.a s.ev.b g x → (s.cluster x.selector).jobs.length < 64 → readJob s g.slot x.word 256 = some card →
      cardFault s p false card = none → ∃ t j, exec .graphEngineJobNode s = .next t ∧
        (t.cluster x.selector).jobs = (s.cluster x.selector).jobs ++ [j] ∧ j.card = card ∧ j.graph = some (s.ev.a, s.ev.b) ∧ j.kind = .card ∧
        t.threads = s.threads ∧ SameBytes s t) ∧
    (∀ w z, kind = 3 → s.ev.b < r.states.length → (readJob s g.slot x.word 8).map natOfBytes = some w → x.succs[min w (x.succs.length - 1)]? = some z → r.states[z]? ≠ some .cancelled →
      ∃ t y, exec .graphConditionalNode s = .next t ∧ (t.graphs.find? s.ev.a).bind (·.run) = some y ∧ y.states[s.ev.b]? = some .complete ∧ z ∈ y.due ∧
        (∀ n ∈ y.due, n = z ∨ n ∈ r.due) ∧ t.threads = s.threads ∧ SameBytes s t) ∧
    (∀ w z, kind = 4 → s.ev.b < r.states.length → (readJob s g.slot x.word 8).map natOfBytes = some w → x.succs[if w = 0 then 1 else 0]? = some z → r.states[z]? ≠ some .cancelled →
      ∃ t y, exec .graphWhileNode s = .next t ∧ (t.graphs.find? s.ev.a).bind (·.run) = some y ∧ y.states[s.ev.b]? = some .complete ∧ z ∈ y.due ∧
        (∀ n ∈ y.due, n = z ∨ n ∈ r.due) ∧ t.threads = s.threads ∧ SameBytes s t) ∧
    (∀ q i, kind = 5 → x.selector = 2 → (∃ z ∈ x.succs, r.states[z]? ≠ some .cancelled) → r.queue = some (q, i) → ∃ t, exec .graphSignalNode s = .next t ∧
      (t.queue q).sig = ((s.queue q).sig + 1) % 2 ^ 16 ∧ t.threads = s.threads ∧ SameBytes s t) ∧
    (∀ a, kind = 5 → x.selector ≠ 2 → (∃ z ∈ x.succs, r.states[z]? ≠ some .cancelled) → LineFits s a → signalWord s g.slot x.word = .ok a → a % 8 = 0 → truthBad s a 8 = false → s.MemOk →
      writeDiscarded s a = false → ∃ t, exec .graphSignalNode s = .next t ∧ t.threads = s.threads ∧
        Stores s t a 8 (if x.selector = 0 ∧ x.v.toNat ≤ (truthWord s a).toNat then truthWord s a else x.v))) ∧
  ∀ (s : State) (d : Nat), d < 2 → s.ev.a = d →
    (s.regs.glBusy[d]? = some false → s.ev.v &&& ~~~0x30F3F = 0 →
      (s.ev.v.extractLsb' 16 2 = 1 → ∃ t, exec .glcmdLoad s = .next t ∧ t.regs.glBusy[d]? = some true ∧ t.regs.glCmd[d]? = some s.ev.v.toNat ∧
        t.threads = s.threads ∧ SameBytes s t) ∧
      (s.ev.v.extractLsb' 16 2 = 2 → ∃ t, exec .glcmdUnload s = .next t ∧ t.regs.glBusy[d]? = some true ∧ t.regs.glCmd[d]? = some s.ev.v.toNat ∧
        t.threads = s.threads ∧ SameBytes s t)) ∧
    ∀ cmd k j a g, s.regs.glBusy[d]? = some true → s.regs.glCmd[d]? = some cmd → cmd / 2 ^ 16 % 4 = 1 → k = d * 64 + cmd % 64 → j = cmd / 256 % 16 →
      (s.slot j).en = true → (s.regs.pcfg = true → (s.slot j).part = d) → s.graphs.find? k = none → s.regs.glAddr[d]? = some a →
      parseGraph s d j a = .ok g → ∃ t, exec .graphLoaderCompletion s = .next t ∧ t.graphs.find? k = some g ∧ t.regs.glBusy[d]? = some false ∧
        t.regs.glStatus[d]? = some 0 ∧ t.threads = s.threads ∧ SameBytes s t

/-! ### Engine jobs -/

/-- 06 R130, 07 R146–R148, R150, R153, R156, R160–R163, 03 R68, R70, 05 R102, R114, R115: a job starts when nothing it must follow is left; a part of a
pull or a copy moves its bytes, converted as R70 says; a part of a pull-add adds its elements into the accumulator, each sum rounded once; a
part of a sketch job leaves what its member says, the counters saturated and their rows flagged; a part of a lodged copy moves its line;
a job whose payload is complete writes its completion word, and in that step its keys return and `cp` falls; a member's step and its
failure, its completion; a frame, of both also one 8-byte word alone (06 R131); the end of a lodged copy; a stash line written back.
(The model's readings in it: log entries 90, 94, 112, 115 and 132.) -/
def Obligations.EngineEvents : Prop :=
  (∀ (acc : Nat) (v : Val) (a b : ℚ), ratOf (fp32.decode acc) = some a → ratOf v = some b → Accumulates (a + b) (addFp32 acc v)) ∧
  ∀ s : State,
    (∀ j, jobAt s s.ev.a s.ev.b = some j →
      (mayStart s s.ev.a j = true → (j.kind = .card → cardKind j.card ≠ 4) → ∃ t, exec .engineJobStart s = .next t ∧
        jobAt t s.ev.a s.ev.b = some { j with started := true } ∧ t.threads = s.threads ∧ SameBytes s t) ∧
      (∀ bs, mayStart s s.ev.a j = true → j.kind = .card → cardKind j.card = 4 → j.cluster = s.ev.a →
        Asked s j 0 (cardSrc j.card) (mediaLen j.card) → readFor s j (cardSrc j.card) (mediaLen j.card) = some bs → ∃ t k, exec .engineJobStart s = .next t ∧ t.threads = s.threads ∧
          jobAt t s.ev.a s.ev.b = some k ∧ k.started = true ∧ k.data = bs.map (·.1) ∧ k.status = (if ∃ x ∈ bs, x.2 ≠ 0 then 1 else 0) ∧
          ((s.cluster j.cluster).ranges = [] → SameBytes s t)) ∧
      (∀ q r sl src dst i w n (xs : List Byte) a, s.ev.c = q → s.ev.nats = [i] → j.kind = .card → (cardKind j.card = 1 ∨ cardKind j.card = 3) →
        cardFlag j.card 1 = false → j.cluster = s.ev.a → StashFits s j.cluster → j.started = true → q ∉ j.partsDone → q ∈ bulkParts j →
        (∀ p ∈ j.partsDone ++ j.landed.map (·.1), p / 2 ^ 20 ≤ q / 2 ^ 20) → r = q / 2 ^ 20 → Asked s j q (partSource j q).1 (partSource j q).2 → sl = lineSlice (rowAddr (partRows j) r) (partRows j).n (q % 2 ^ 20) →
        dst = (rowAddr (partRows j) r + sl.1) % 2 ^ 80 →
        src = (rowAddr { partRows j with base := cardSrc j.card, stride := cardSstr j.card } r + sl.1) % 2 ^ 80 →
        n = (dst % 8 + sl.2 + 7) / 8 → i < n → j.landed.find? q = none → w = wordSlice dst sl.2 i →
        ((j.conv = none ∧ readFor s j src sl.2 = some (xs.map fun b => (b, 0))) ∨ ∃ v bs, j.conv = some v ∧ (s.cluster s.ev.a).ranges = [] ∧
          convertRow s j v r = some bs ∧ (bs.drop sl.1).take sl.2 = xs.map fun b => (b, 0)) →
        payloadAt s j ((dst + w.1) % 2 ^ 80) = some a → LineFits s a → writeDiscarded s a = false → s.MemOk →
        ∃ t, exec .enginePayloadPart s = .next t ∧ t.threads = s.threads ∧ (∀ (k : Nat) (b : Byte), k < w.2 → xs[w.1 + k]? = some b → truthByte t (a + k) = b) ∧
          (∀ y, (y < a ∨ a + w.2 ≤ y) → truthByte t y = truthByte s y) ∧
          (jobAt t s.ev.a s.ev.b).map (fun x => (x.partsDone, x.landed.find? q)) =
            some (if n = 1 then (j.partsDone ++ [q], none) else (j.partsDone, some ([i], false)))) ∧
      (∀ v r (xs : List Byte), readFor s j (rowAddr { base := cardSrc j.card, stride := cardSstr j.card, n := 0, rows := 0 } r) (cardRowb j.card) =
          some (xs.map fun b => (b, 0)) → ∃ bs, convertRow s j v r = some bs ∧ ∀ k < convElems (fmtCode v.1) (cardRowb j.card),
            ∀ (bits : Nat) (raw : Val), bits = natOfBytes (bs.map (·.1)) / 2 ^ (codeWidth (fmtCode v.2.1) * k) % 2 ^ codeWidth (fmtCode v.2.1) →
            raw = elemVal false (fmtCode v.1) (natOfBytes xs / 2 ^ (codeWidth (fmtCode v.1) * k) % 2 ^ codeWidth (fmtCode v.1)) →
            (∀ sc x, scaleVal v.1 (scaleWord s v.2.2 v.1 (k / 64) (r % 64)) = some sc → ratOf raw = some x →
              Drains (fmtCode v.2.1) (cardFlag j.card 0) (x * (sc.1 * (2 : ℚ) ^ sc.2)) bits) ∧
            (scaleVal v.1 (scaleWord s v.2.2 v.1 (k / 64) (r % 64)) = none → bits = 0)) ∧
      (∀ q r sl es e0 m n row (k : BitVec 4) (xs : List Byte), PartDue s j q → j.kind = .card → cardKind j.card = 2 → q ∈ bulkParts j →
        cardFlag j.card 1 = false → StashFits s s.ev.a → r = q / 2 ^ 20 → sl = lineSlice (rowAddr (partRows j) r) (partRows j).n (q % 2 ^ 20) →
        es = (if cardSel j.card / 2 ^ 10 % 2 = 1 then 2 else 4) → e0 = (sl.1 + es - 1) / es → m = (sl.1 + sl.2 + es - 1) / es - e0 →
        n = s.ev.a * 6 + cardSel j.card / 2 ^ 11 % 8 → k.toNat = cardSel j.card % 16 → row = cardSel j.card / 16 % 64 + r →
        Asked s j q (partSource j q).1 (partSource j q).2 →
        readFor s j ((rowAddr (partRows j) r + e0 * es) % 2 ^ 80) (m * es) = some (xs.map fun b => (b, 0)) →
        ∃ t, exec .enginePayloadPart s = .next t ∧ PartEnds s t j q ∧ (∀ y, truthByte t y = truthByte s y) ∧
          (∀ i < m, accElem t n k (row * 64 + e0 + i) = BitVec.ofNat 32 (addFp32 (accElem s n k (row * 64 + e0 + i)).toNat
            (fp32.decode (natOfBytes ((xs.drop (i * es)).take es) * if es = 2 then 65536 else 1)))) ∧
          ∀ n' k' y, (n' = n ∧ k' = k → ∀ i < m, y ≠ row * 64 + e0 + i) → accElem t n' k' y = accElem s n' k' y) ∧
      (∀ k op q f, PartDue s j q → j.kind = .sketch k op → q < sketchParts k op → 0 < k.d → k.d ≤ 7 → k.logw ≤ 28 → k.base % 128 = 0 →
        Reaches s j k.base k.bytes f → (s.cluster s.ev.a).ranges = [] → s.MemOk → j.ahead = [] → (∀ f64 ps, op = .update f64 ps → ∀ p < q, p ∈ j.partsDone) →
        (∀ desc, op = .init desc → desc.length = 128) → (∀ n, op = .satClear n → (s.thread j.tid).out? n = none) →
        (∀ src flags, op = .add src flags → q ≠ 0 → Asked s j q ({ k with base := src }.counter (q - 1) 0) (4 * k.width) ∧
          ∃ xs : List Byte, readFor s j ({ k with base := src }.counter (q - 1) 0) (4 * k.width) = some (xs.map fun b => (b, 0))) →
        ∃ t, exec .enginePayloadPart s = .next t ∧ PartEnds s t j q ∧ SketchLeft s t j k f q op) ∧
      (∀ k n f o e d, PartDue s j 0 → j.kind = .sketch k (.satClear n) → k.base % 128 = 0 → 0 < k.d → Reaches s j k.base k.bytes f →
        (s.cluster s.ev.a).ranges = [] → s.MemOk → j.ahead = [] → (s.thread j.tid).out? n = some o → o.serial = n → o.kind = .load (.flags d) .strong true → o.elems = [e] →
        ∃ t, exec .enginePayloadPart s = .next t ∧ FlagsLeft s t f 0 ∧ GivesS s t j.tid o.phys d ((truthByte s (f 3)).setWidth 64) ∧
          (t.thread j.tid).out? n = none ∧ (t.thread j.tid).ld = (s.thread j.tid).ld - 1 ∧ OthersKept s t j.tid) ∧
      (∀ q owner h lg a (xs : List Byte), PartDue s j q → j.kind = .lodgeCopy owner h → q < lodgeLen j.card / 64 →
        (s.cluster owner).lodgings.find? h = some lg → a = localOf lg.copyBase + 64 * q → a % 64 = 0 → LineFits s a → StashFits s s.ev.a →
        writeDiscarded s a = false → s.MemOk → Asked s j q (lg.src + 64 * q) 64 → readFor s j (lg.src + 64 * q) 64 = some (xs.map fun b => (b, 0)) →
        ∃ t, exec .enginePayloadPart s = .next t ∧ PartEnds s t j q ∧ (∀ (k : Nat) (b : Byte), xs[k]? = some b → truthByte t (a + k) = b) ∧
          ∀ y, (y < a ∨ a + 64 ≤ y) → truthByte t y = truthByte s y) ∧
      (∀ a, j.started = true → isBulk j = true → (∀ q ∈ bulkParts j, q ∈ j.partsDone) → cardFlag j.card 3 = false → cardFlag j.card 2 = true →
        j.graph = none → (s.thread j.tid).task = j.task → wordAt s j (cardCpl j.card) = some a → a % 8 = 0 → LineFits s a → writeDiscarded s a = false →
        s.MemOk → ∃ t, exec .engineJobCompletion s = .next t ∧ (∀ k < 8, truthByte t (a + k) = byteOf (cardV j.card) k) ∧ jobAt t s.ev.a s.ev.b = none ∧
          (t.thread j.tid).cp = (s.thread j.tid).cp - 1 ∧ (t.thread j.tid).s = (s.thread j.tid).s ∧ OthersKept s t j.tid ∧
          (s.queues = [] → ∀ y, (y < a ∨ a + 8 ≤ y) → truthByte t y = truthByte s y) ∧
          ∀ i e, i ∈ j.loans → (i, e) ∈ (s.cluster s.ev.a).keys → e.lender ≠ keyNone → e.holder = j.engine →
            (i, { e with holder := e.lender, lender := keyNone }) ∈ (t.cluster s.ev.a).keys) ∧
      (∀ ms rank st, j.kind = .coll ms rank → j.started = true → j.cancelled = false → j.status = 0 → j.steps < totalSteps s j ms.length →
        tokensOk s s.ev.a j ms.length rank = true → st = stepNow s j ms.length rank →
        ((∀ p ∈ st.pulls, ∃ bs f, pullPeer s j ms rank (memberBytes s j) st p = .data bs f) → ∃ t, exec .collectiveStep s = .next t ∧
          jobAt t s.ev.a s.ev.b = some (if s.ev.c = 0 then { j with steps := j.steps + 1, watches := [], partsDone := [] }
            else { j with partsDone := j.partsDone ++ [s.ev.c - 1] }) ∧ OthersKept s t j.tid) ∧
        (∀ p code, st.pulls = [p] → pullPeer s j ms rank (memberBytes s j) st p = .fail code → ∃ t, exec .collectiveStep s = .next t ∧
          jobAt t s.ev.a s.ev.b = some { j with status := code + 256 * p.rank } ∧ OthersKept s t j.tid ∧
          (code ≠ 3 → t.threads = s.threads ∧ SameBytes s t))) ∧
      (∀ ms rank, j.kind = .coll ms rank → j.started = true → (j.cancelled = true ∨ j.status ≠ 0 ∨ totalSteps s j ms.length ≤ j.steps) →
        j.graph = none → (s.thread j.tid).task = j.task → ∃ t, exec .collectiveCompletion s = .next t ∧ jobAt t s.ev.a s.ev.b = none ∧
          (t.thread j.tid).cp = (s.thread j.tid).cp - 1 ∧ (t.thread j.tid).s = (s.thread j.tid).s ∧ OthersKept s t j.tid) ∧
      (j.kind = .card → cardKind j.card = 4 → j.started = true → mediaMore j = true → ∃ t, exec .mediaFrame s = .next t ∧
        jobAt t s.ev.a s.ev.b = some (if s.ev.c = 0 then { j with steps := j.steps + 1, partsDone := [] }
          else { j with partsDone := j.partsDone ++ [s.ev.c - 1] }) ∧ OthersKept s t j.tid) ∧
      ∀ owner h lg, j.kind = .lodgeCopy owner h → (s.cluster owner).lodgings.find? h = some lg → localOf lg.word % 8 = 0 →
        writeDiscarded s (localOf lg.word) = false → s.MemOk → ∃ t, exec .lodgingCopyCompletion s = .next t ∧ jobAt t s.ev.a s.ev.b = none ∧
          (t.cluster owner).lodgings.find? h = some { lg with complete := true } ∧
          ∀ k < 8, truthByte t (localOf lg.word + k) = byteOf lg.value k) ∧
    ∀ l, (s.cluster s.ev.a).stashLines.find? s.ev.b = some l → Assoc.rising (s.cluster s.ev.a).stashLines = true → s.MemOk →
      ∃ t, exec .stashEviction s = .next t ∧ (t.cluster s.ev.a).stashLines.find? s.ev.b = none ∧ t.threads = s.threads ∧
        ((l.owned && l.dirty) = false → SameBytes s t) ∧
        ((l.owned && l.dirty) = true → writeDiscarded s (s.ev.b * 64) = false → (∀ k < 64, t.byte (s.ev.b * 64 + k) = lineByte l.data k) ∧
          ∀ y, (y < s.ev.b * 64 ∨ s.ev.b * 64 + 64 ≤ y) → t.byte y = s.byte y)

/-! ### The host port -/

/-- 18 R323, R325, R326, R334, 20 R366, R368, 05 R98, 21 R373: power-up and the three module resets leave everything as at reset but the memories that keep their bytes; a
verification starts, fails with its code, or lets the module run with device memory zeroed; the module fences itself; a BAR2 read returns the
bytes or all ones, a BAR0 read of 8 bytes a register's value, a write is performed whole or dropped whole and logged; a key handover is done, refused, or waits. The model's choices: a verification's image
lies at the host base (log entry 17), a handover that cannot be done yet is kept (log entry 68), and a BAR0 read is the read event with its flag (log
entry 10).
(The model's readings in it: log entries 1, 10, 17, 63, 64, 65, 67 and 68.) -/
def Obligations.StartupEvents : Prop :=
  ∀ s : State,
    (∃ t, exec .powerUp s = .next t ∧ AfterReset s t ∧ t.poison = [] ∧ t.stale = [] ∧ (s.MemOk → ∀ a, t.byte a = if a < hostBase then 0 else s.byte a)) ∧
    (s.ev.v = 0x5E6B0001 → ∃ t, exec .mreset s = .next t ∧ ModuleReset s t) ∧
    (s.ev.v ≠ 0x5E6B0001 → exec .mreset s = .next s) ∧
    (∃ t, exec .cxlHotReset s = .next t ∧ ModuleReset s t) ∧
    (∃ t, exec .cxlLinkDown s = .next t ∧ ModuleReset s t) ∧
    (s.ev.v = 1 → s.regs.mstate = 1 → s.regs.fwbusy = false →
      exec .fwgo s = .next { s with regs := { s.regs with fwbusy := true, fwAt := s.regs.fwaddr, fwBytes := s.regs.fwlen } }) ∧
    ((s.ev.v ≠ 1 ∨ s.regs.mstate ≠ 1 ∨ s.regs.fwbusy = true) → exec .fwgo s = .next s) ∧
    (∀ code, s.regs.fwbusy = true → code = (if s.ev.flag then 5 else imageCode s s.regs.fwAt.toNat s.regs.fwBytes.toNat) →
      (code ≠ 0 → exec .firmwareVerificationDone s = .next { s with regs := { s.regs with fwbusy := false, fwcode := code } }) ∧
      (code = 0 → s.regs.mstate = 1 → ∃ t ways, exec .firmwareVerificationDone s = .next t ∧ t.regs.fwbusy = false ∧ t.regs.fwcode = 0 ∧
        t.regs.mstate = 2 ∧ t.msix = s.msix ++ [64] ∧ t.threads = s.threads ∧ t.regs.svn = (truthByte s (hostBase + s.regs.fwAt.toNat + 16)).toNat ∧
        ways = (truthByte s (hostBase + s.regs.fwAt.toNat + 17)).toNat ∧
        (∀ c < 64, (t.cluster c).prot = ways ∧ (t.cluster c).scratch = 24 - ways ∧ (t.cluster c).stash = 0) ∧
        (s.MemOk → ∀ a, t.byte a = if a < 0x40000000000 then 0 else s.byte a))) ∧
    (s.regs.mstate ≠ 3 → NoWork s → (∀ j < 16, (s.slot j).ending ≠ some .stop) → ∃ t, exec .firmwareFailure s = .next t ∧ Fenced s t) ∧
    (∀ off n, s.ev.flag = true → s.ev.a = off → s.ev.b = n →
      (barRejected s off s.ev.slot = false → exec .bar2HostRead s = .next { s with
        hostData := if n = 8 then bytesOfNat 8 (barWord s off).toNat else List.replicate n 0, hostPoison := false }) ∧
      (barRejected s off s.ev.slot = true → ∃ t, exec .bar2HostRead s = .next t ∧ t.hostData = List.replicate n 0xFF ∧ HostError s t 0x06 off)) ∧
    (∀ a n, s.ev.flag = false → s.ev.a = a → s.ev.b = n →
      (memRejected s a n s.ev.slot = false → 0 < n → a + n ≤ hostBase → (∀ x, a ≤ x → x < a + n → backed s x = true) →
        ∃ t, exec .bar2HostRead s = .next t ∧ t.hostData = truthRead s a n ∧ t.hostPoison = truthBad s a n ∧ t.threads = s.threads ∧ SameBytes s t) ∧
      (memRejected s a n s.ev.slot = false → hostBase < a + n → ∃ t, exec .bar2HostRead s = .next t ∧ t.hostData = List.replicate n 0xFF ∧
        HostError s t 0x05 a) ∧
      (memRejected s a n s.ev.slot = true → ∃ t, exec .bar2HostRead s = .next t ∧ t.hostData = List.replicate n 0xFF ∧ HostError s t 0x06 a)) ∧
    (∀ a (bs : List Byte), s.ev.a = a → s.ev.bytes = bs → bs ≠ [] →
      (hostWriteFault s a bs.length s.ev.slot = none → a % 64 + bs.length ≤ 64 → writeDiscarded s a = false → s.MemOk →
        ∃ t, exec .bar2HostWrite s = .next t ∧ t.threads = s.threads ∧ (∀ (k : Nat) (b : Byte), bs[k]? = some b → truthByte t (a + k) = b) ∧
          ∀ y, (y < a ∨ a + bs.length ≤ y) → truthByte t y = truthByte s y) ∧
      ∀ c, hostWriteFault s a bs.length s.ev.slot = some c → ∃ t, exec .bar2HostWrite s = .next t ∧ HostError s t c a) ∧
    ∀ c i, s.ev.flag = false → c = (s.ev.v.extractLsb' 0 6).toNat → i = (s.ev.v.extractLsb' 32 12).toNat →
      (∀ e, handover s s.ev.v = .done e → ∃ t, exec .keyhand s = .next t ∧ (t.cluster c).keys.find? i = some e ∧ t.threads = s.threads ∧ SameBytes s t ∧
        ∀ k, k ≠ i → (t.cluster c).keys.find? k = (s.cluster c).keys.find? k) ∧
      (handover s s.ev.v = .refused → ∃ t, exec .keyhand s = .next t ∧ HostError s t 0x07 0x50 ∧ t.clusters = s.clusters) ∧
      ∀ e old, handover s s.ev.v = .after e → (s.cluster c).keys.find? i = some old → engineWrites s c old = true →
        exec .keyhand s = .next { s with regs := { s.regs with keyhands := s.regs.keyhands ++ [s.ev.v] } }

/-- 18 R335: a state that a partition may be kept in: S0, or one whose wake time is within `PWR.ltol`, which is not 0, and whose condition holds; the
event's flag says that the condition of S1 has held for 100 µs. -/
def PowerFits (s : State) (p n : Nat) : Prop :=
  n = 0 ∨ s.regs.ltol[p]! ≠ 0 ∧ Config.wakeTime n ≤ (s.regs.ltol[p]!).toNat ∧
    (n = 1 ∧ partQuiet s p = true ∨ n = 2 ∧ partQuiet s p = true ∧ s.ev.flag = true ∨ n = 3 ∧ partIdle s p = true)

/-- 18 R323, R324, R327, R335–R337, 19 R342, R344, 20 R358, R365, R366, R368, 21 R373, R382: register writes reach their fields, on a rejected stream they are dropped and logged; a job
slot is enabled, ended and cancelled; power states and the clock follow their conditions; token buckets fill to their depth; a host
invalidation is started once and ends; `TSNAP` takes a snapshot. A BAR0 write of another size than 8 bytes is the register write event with its flag (the model's choice: log
entry 10).
(The model's readings in it: log entries 10, 52, 66, 70, 71 and 72.) -/
def Obligations.RegisterEvents : Prop :=
  ∀ s : State,
    (barRejected s s.ev.a s.ev.slot = false → s.ev.flag = true → exec .registerWrite s = .next s) ∧
    (barRejected s s.ev.a s.ev.slot = false → s.ev.flag = false →
      (s.ev.a = 0x20 → exec .registerWrite s = .next { s with regs := { s.regs with fwaddr := s.ev.v &&& 0xFFFFFFFFFFFFF000 } }) ∧
      (s.ev.a = 0x28 → exec .registerWrite s = .next { s with regs := { s.regs with fwlen := s.ev.v } }) ∧
      (s.ev.a = 0x60 → (∀ p < 18, (s.port p).state = .down) → (∀ j < 16, (s.slot j).en = false) →
        exec .registerWrite s = .next { s with regs := { s.regs with modnum := (s.ev.v.extractLsb' 0 10).toNat } }) ∧
      (s.ev.a = 0x120 → exec .registerWrite s = .next { s with regs := { s.regs with plim := s.ev.v } }) ∧
      (s.ev.a = 0x60018 → exec .registerWrite s = .next { s with regs := { s.regs with evtail := s.ev.v.toNat } }) ∧
      (∀ j < 16, (s.slot j).tdi = .unlocked → (s.slot j).en = false →
        (s.ev.a = 0x80010 + 0x100 * j → ∃ t, exec .registerWrite s = .next t ∧ t.threads = s.threads ∧ SameBytes s t ∧
          t.slot j = { s.slot j with asid := (s.ev.v.extractLsb' 0 20).toNat }) ∧
        (s.ev.a = 0x80018 + 0x100 * j → ∃ t, exec .registerWrite s = .next t ∧ t.threads = s.threads ∧ SameBytes s t ∧
          t.slot j = { s.slot j with ptb := (s.ev.v.extractLsb' 14 30).toNat * 2 ^ 14 })) ∧
      ∀ q < 64, s.ev.a = 0x200000 + 0x1000 * q → ∃ t, exec .registerWrite s = .next t ∧ t.threads = s.threads ∧ SameBytes s t ∧
        t.queue q = { s.queue q with base := (s.ev.v.extractLsb' 12 52).toNat * 4096 }) ∧
    (barRejected s s.ev.a s.ev.slot = true → ∃ t, exec .registerWrite s = .next t ∧ HostError s t 0x06 s.ev.a ∧ t.slots = s.slots) ∧
    (∀ j < 16, s.ev.a = j → barRejected s (0x080000 + 0x100 * j) s.ev.slot = false →
      ((s.slot j).tdi = .run → (s.slot j).ending = none → s.regs.mstate = 2 → ∃ t, exec .jobctlEnable s = .next t ∧
        t.slot j = { s.slot j with en := true } ∧ t.threads = s.threads ∧ SameBytes s t) ∧
      ((s.slot j).tdi ≠ .run → exec .jobctlEnable s = .next s) ∧
      (s.ev.flag = false → (s.slot j).en = true → (s.slot j).ending = none → NoWork s → phaseOver s j = true → ∃ t, exec .jobctlEnd s = .next t ∧
        (t.slot j).en = false ∧ (t.slot j).keysLive = false ∧ (∀ u, s.attach.find? u = some j → t.stale.find? u = some []) ∧ t.threads = s.threads) ∧
      (WorkInOrder s → ∃ t, exec .jobctlCancel s = .next t ∧ (∀ n, OnlyWakes s t n) ∧
        TasksCancelled s t (fun z => ∃ m, s.launches.find? z.launch = some m ∧ m.slot = j ∧ m.state = .running) ∧
        (∀ h m, s.launches.find? h = some m → m.slot = j → m.state = .running → m.cancel = false → LaunchCancelled s t h m true 0x15) ∧
        (∀ k g r, s.graphs.find? k = some g → g.slot = j → g.run = some r → RunCancelled t k r) ∧
        ∀ h m, s.launches.find? h = some m → m.slot ≠ j → (∀ k n g, m.node = some (k, n) → s.graphs.find? k = some g → g.slot ≠ j) →
          ∃ x, t.launches.find? h = some { m with spilled := x })) ∧
    (∀ j < 16, s.ev.a = j → barRejected s (0x080000 + 0x100 * j) s.ev.slot = true →
      ∃ t, exec .jobctlCancel s = .next t ∧ HostError s t 0x06 (0x080000 + 0x100 * j)) ∧
    (∀ p < 2, s.ev.a = p → hasPartition s p = true →
      (∃ t, exec .powerStateEntry s = .next t ∧ PowerFits s p t.regs.pstate[p]! ∧ (∀ n, PowerFits s p n → n ≤ t.regs.pstate[p]!) ∧ t.threads = s.threads ∧
        SameBytes s t) ∧
      ((s.regs.ltol[p]! = 0 ∨ partQuiet s p = false) → ∃ t, exec .powerStateEntry s = .next t ∧ t.regs.pstate[p]! = 0) ∧
      ∃ t, exec .powerWake s = .next t ∧ t.regs.pstate[p]! = 0 ∧ t.threads = s.threads ∧ SameBytes s t) ∧
    (∀ limit, limit = min s.regs.plim.toNat 2800 → ∃ t, exec .powerWindow s = .next t ∧ t.threads = s.threads ∧
      t.regs.clock = if s.ev.a > limit then max 900 (s.regs.clock - 100) else if 100 * s.ev.a ≤ 95 * limit then 1800 else s.regs.clock) ∧
    (s.regs.mstate ≠ 3 → NoWork s → (∀ j < 16, (s.slot j).ending ≠ some .stop) → ∃ t, exec .thermalLimit s = .next t ∧ Fenced s t) ∧
    (∀ j c r, s.ev.a = j → j < 16 → s.ev.b = c → c < 64 → r = (if s.ev.flag then (s.slot j).tbhb else (s.slot j).tbcs).get 0 c →
      ∃ t, exec .tokenBucketRefill s = .next t ∧ t.threads = s.threads ∧ SameBytes s t ∧
        (s.ev.flag = true → (t.cluster c).tokHb.get 0 j =
          min (r.extractLsb' 32 32).toNat ((s.cluster c).tokHb.get 0 j + (r.extractLsb' 0 32).toNat * s.ev.c) ∧
          (t.cluster c).rateHb.get 0 j = (r.extractLsb' 0 32).toNat) ∧
        (s.ev.flag = false → (t.cluster c).tokCs.get 0 j =
          min (r.extractLsb' 32 32).toNat ((s.cluster c).tokCs.get 0 j + (r.extractLsb' 0 32).toNat * s.ev.c) ∧
          (t.cluster c).rateCs.get 0 j = (r.extractLsb' 0 32).toNat)) ∧
    (s.regs.htlbBusy = true → exec .htlbcmd s = .next s) ∧
    (s.regs.htlbBusy = false → (∀ x ∈ s.threads, x.2.outs = []) → (∀ x ∈ s.cores, x.2.dirty = []) → ∃ t, exec .htlbcmd s = .next t ∧
      t.regs = { s.regs with htlbBusy := true } ∧ SameBytes s t ∧
      t.invalidations = s.invalidations ++ [⟨s.regs.htlbva.toNat + (s.regs.htlbvh.extractLsb' 0 16).toNat * 2 ^ 64, s.ev.v, none⟩]) ∧
    (∀ i, s.invalidations[s.ev.a]? = some i → inFlight s i.va i.operand = false → ∃ t, exec .tlbInvalidationDone s = .next t ∧
      t.invalidations = dropNth s.invalidations s.ev.a ∧ SameBytes s t ∧
      (∀ n, i.tid = some n → t.thread n = { s.thread n with hold := some .done } ∧ OthersKept s t n) ∧
      (i.tid = none → t.regs = { s.regs with htlbBusy := false, htlbDone := (s.regs.htlbDone + 1) % 2 ^ 32 } ∧ t.threads = s.threads)) ∧
    (s.ev.v = 1 → exec .tsnap s = .next { s with snapshot := s.counters, serial := s.serial + 1, snapAt := s.serial + 1 }) ∧
    (s.ev.v ≠ 1 → exec .tsnap s = .next s)

/-! ### Links and the network -/

/-- 20 R355–R359: ports train, come up, go down, fail and are cleared; a good flit in sequence counts its acknowledgement, credits and packets, any other is
discarded and a retry is owed; a retry request sends every unacknowledged flit again, and the eighth attempt at one fails the port; a
keyhole port answers reads of its own stack's HBM, any other with poison.
(The model's readings in it: log entries 74, 75 and 77.) -/
def Obligations.LinkEvents : Prop :=
  (∀ (s : State) (p : Nat) (x : Port), s.ev.a = p → p < 18 → x = s.port p →
    (∃ t, exec .nlctlTrain s = .next t ∧ t.port p = { x with en := true, state := if x.state = .down then .training else x.state } ∧
      t.threads = s.threads ∧ SameBytes s t ∧ ∀ q < 18, q ≠ p → t.port q = s.port q) ∧
    (∃ t, exec .nlctlDown s = .next t ∧ (t.port p).en = false ∧ (t.port p).state = (if x.state = .failed then .failed else .down) ∧
      (x.state = .up → (t.port p).unacked = []) ∧ t.threads = s.threads ∧ SameBytes s t ∧ ∀ q < 18, q ≠ p → t.port q = s.port q) ∧
    (∃ t, exec .nlctlClearFailed s = .next t ∧ t.port p = { x with state := if x.state = .failed then .down else x.state } ∧
      t.threads = s.threads ∧ SameBytes s t ∧ ∀ q < 18, q ≠ p → t.port q = s.port q) ∧
    (x.state = .training → ∃ t, exec .narlorPortUp s = .next t ∧ t.threads = s.threads ∧ SameBytes s t ∧ (t.port p).state = .up ∧
      (t.port p).en = x.en ∧ (t.port p).sw = s.ev.flag ∧ (t.port p).peer = (if s.ev.flag then 0 else s.ev.b % 1024) ∧ (t.port p).txSeq = 0 ∧
      (t.port p).rxSeq = 0 ∧ (t.port p).reqCredits = 512 ∧ (t.port p).repCredits = 512 ∧ (t.port p).unacked = [] ∧ (t.port p).retry = x.retry ∧
      ∀ q < 18, q ≠ p → t.port q = s.port q) ∧
    (x.state = .up → ∃ t, exec .narlorPortFailure s = .next t ∧ (t.port p).state = .failed ∧ (t.port p).unacked = [] ∧ t.threads = s.threads ∧
      ∀ q < 18, q ≠ p → t.port q = s.port q) ∧
    ∀ f, s.ev.flit = some f → x.state = .up →
      (∀ i kind, (i, kind) ∈ [(Instr.dataFlit, 0), (Instr.idleFlit, 1)] →
        (f.good = true → f.kind = kind → f.seq = x.rxSeq → (∀ k ∈ f.packets, k.typ = 1 ∨ k.typ = 2 ∨ k.typ = 4) → ∃ t, exec i s = .next t ∧
          t.ingress = s.ingress ++ f.packets.map (fun k => { k with via := some p }) ∧ t.threads = s.threads ∧ SameBytes s t ∧ (∀ q < 18, q ≠ p → t.port q = s.port q) ∧
          t.port p = { x with rxSeq := (x.rxSeq + 1) % 65536, wantRetry := false, owesAck := x.owesAck || kind == 0, unacked := stillUnacked x.unacked f.ack,
                              reqCredits := min 512 (x.reqCredits + f.reqCredits), repCredits := min 512 (x.repCredits + f.repCredits) }) ∧
        ((f.good = false ∨ f.kind ≠ kind ∨ f.seq ≠ x.rxSeq) → ∃ t, exec i s = .next t ∧ t.port p = { x with wantRetry := true } ∧
          t.ingress = s.ingress ∧ t.threads = s.threads ∧ SameBytes s t ∧ ∀ q < 18, q ≠ p → t.port q = s.port q)) ∧
      ∀ us, f.good = true → f.kind = 2 → f.seq = x.rxSeq → f.packets = [] → us = stillUnacked x.unacked f.ack →
        ((∀ u ∈ us, u.2.2 < 7) → ∃ t, exec .retryRequest s = .next t ∧ (t.port p).unacked = us.map (fun u => (u.1, u.2.1, u.2.2 + 1)) ∧
          (t.port p).retry = min 0xFFFF (x.retry + us.length) ∧ (t.port p).state = .up ∧ t.threads = s.threads ∧ SameBytes s t) ∧
        ((∃ u ∈ us, 7 ≤ u.2.2) → ∃ t, exec .retryRequest s = .next t ∧ (t.port p).state = .failed ∧ (t.port p).unacked = [] ∧ t.threads = s.threads)) ∧
  ∀ s : State,
    (∀ k gpa l, s.ev.packet = some k → s.ev.a ∈ s.regs.keyhole → gpa = natAt k.body 0 7 → l = localOf gpa / 64 →
      (k.typ = 2 → (∃ c o, spaceOf (localOf gpa) = .hbm c o ∧ c / 8 = s.ev.a) → readable s (k.src / 2 ^ 14) gpa true = true →
        (∀ w, l * 8 ≤ w → w < l * 8 + 8 → memPoisoned s (w * 8) = false) → ∃ t r, exec .keyholeRead s = .next t ∧
          t.keyholeOut = s.keyholeOut ++ [(s.ev.a, r)] ∧ r.typ = 3 ∧ r.src = k.dst ∧ r.dst = k.src ∧ r.tag = k.tag ∧ r.status = 0 ∧
          (∀ i < 64, r.body[i]? = some (s.byte (l * 64 + i))) ∧ t.threads = s.threads ∧ SameBytes s t) ∧
      ((k.typ ≠ 2 ∨ (∀ c o, spaceOf (localOf gpa) = .hbm c o → c / 8 ≠ s.ev.a) ∨ readable s (k.src / 2 ^ 14) gpa true = false) →
        ∃ t, exec .keyholeRead s = .next t ∧ t.keyholeOut = s.keyholeOut ++ [(s.ev.a, poisonReply k.dst k.src k.tag)] ∧ t.threads = s.threads ∧
          SameBytes s t)) ∧
    (s.ev.a < 8 → s.ev.a ∉ s.regs.keyhole → exec .keyholePortUp s = .next { s with regs := { s.regs with keyhole := s.regs.keyhole ++ [s.ev.a] } }) ∧
    ∃ t, exec .keyholePortDown s = .next t ∧ s.ev.a ∉ t.regs.keyhole ∧ (∀ k, k ≠ s.ev.a → (k ∈ t.regs.keyhole ↔ k ∈ s.regs.keyhole)) ∧
      t.threads = s.threads ∧ SameBytes s t

/-- 20 R360–R364: queue pairs and regions are made, put into error, destroyed, registered and deregistered, each with its status; a work entry that may be taken
sends its packets; a deposit's packet in sequence and in a valid region is written and acknowledged, and others are answered or refused;
reads, their data, acknowledgements and naks advance the pair; an eighth timeout and an overrun bell are errors; an abandoned deposit ends.
(The model's readings in it: log entries 78 to 82.) -/
def Obligations.NetworkEvents : Prop :=
  (∀ (s : State) (q : Nat), s.ev.a = q → NetReady s →
    (q < 16384 → tableHeld s (s.net.qpt + 128 * q) 128 = true → truthBad s (s.net.qpt + 128 * q) 128 = false →
      (∀ x, s.qp? q = none → pairOf s (truthRead s (s.net.qpt + 128 * q) 128) = some x → ∃ t, exec .neqpopCreate s = .next t ∧ t.qp? q = some x ∧
        t.net.qpStatus = 0 ∧ t.threads = s.threads) ∧
      (∀ x, s.qp? q = some x → ∃ t, exec .neqpopCreate s = .next t ∧ t.net.qpStatus = 2 ∧ t.net.qps = s.net.qps ∧ SameBytes s t)) ∧
    (∀ x, s.qp? q = some x →
      (x.error = false → ∃ t, exec .neqpopForceError s = .next t ∧ InError t q ∧ t.net.qpStatus = 0 ∧ t.threads = s.threads) ∧
      (x.error = true → ∃ t, exec .neqpopForceError s = .next t ∧ t.net.qpStatus = 2 ∧ t.net.qps = s.net.qps ∧ SameBytes s t) ∧
      (x.error = true → Assoc.rising s.net.qps = true → ∃ t, exec .neqpopDestroy s = .next t ∧ t.qp? q = none ∧ t.net.qpStatus = 0 ∧
        t.threads = s.threads) ∧
      (x.error = false → ∃ t, exec .neqpopDestroy s = .next t ∧ t.net.qpStatus = 2 ∧ t.net.qps = s.net.qps ∧ SameBytes s t)) ∧
    (∀ x, q < 65536 → (s.region q).valid = false → tableHeld s (s.net.rgt + 64 * q) 64 = true → truthBad s (s.net.rgt + 64 * q) 64 = false →
      regionOf s (truthRead s (s.net.rgt + 64 * q) 64) = some x →
      ((x.access < 2 ∨ netMay s x.slot x.base.toNat (x.len * 4096) = true) → ∃ t, exec .nergopRegister s = .next t ∧
        t.region q = { x with gen := (s.region q).gen } ∧ t.net.rgStatus = 0 ∧ t.threads = s.threads) ∧
      (2 ≤ x.access → netMay s x.slot x.base.toNat (x.len * 4096) = false → ∃ t, exec .nergopRegister s = .next t ∧ t.net.rgStatus = 2 ∧
        t.net.regions = s.net.regions ∧ SameBytes s t)) ∧
    (q < 65536 → (s.region q).valid = true → ∃ t, exec .nergopDeregister s = .next t ∧ t.region q = { s.region q with closing := true } ∧
      t.net.rgBusy = true ∧ t.threads = s.threads ∧ SameBytes s t) ∧
    ((s.region q).valid = false → ∃ t, exec .nergopDeregister s = .next t ∧ t.net.rgStatus = 3 ∧ t.net.regions = s.net.regions ∧ SameBytes s t)) ∧
  (∀ s : State, (s.region s.ev.a).closing = true → regionInUse s s.ev.a = false → ∃ t, exec .deregistrationDone s = .next t ∧
    (t.region s.ev.a).valid = false ∧ (t.region s.ev.a).gen = ((s.region s.ev.a).gen + 1) % 65536 ∧ t.net.rgStatus = 0 ∧ t.net.rgBusy = false ∧
    t.threads = s.threads) ∧
  (∀ (s : State) (q : Nat) (x : QPair) (bs : List Byte) (ps : List NetPacket), s.ev.a = q → MayTake s q x bs →
    (∀ d : List Byte, natAt bs 0 1 = 1 → readFor s (netJob s x.slot x.cluster) (natAt bs 8 10) (natAt bs 4 4) = some (d.map fun b => (b, 0)) →
      ps = depositPackets x bs d → ∃ t, exec .workDeposit s = .next t ∧ Puts s t x ps ∧ t.threads = s.threads ∧ SameBytes s t ∧
        t.qp? q = some { x with txPsn := (x.txPsn + psnCount (natAt bs 4 4)) % 2 ^ 24, taken := x.taken + 1, sends := x.sends ++ [transferOf x bs],
                                unacked := x.unacked ++ ps }) ∧
    (natAt bs 0 1 = 2 → localRegion s x.slot (natAt bs 8 10) (natAt bs 4 4) = true →
      ps = [⟨1, 3, x.remoteQp, x.txPsn, natAt bs 24 4, natAt bs 32 8, natAt bs 4 4, 0, 0, [], none⟩] → ∃ t, exec .workRead s = .next t ∧
        Puts s t x ps ∧ t.threads = s.threads ∧ SameBytes s t ∧
        t.qp? q = some { x with txPsn := (x.txPsn + psnCount (natAt bs 4 4)) % 2 ^ 24, taken := x.taken + 1, sends := x.sends ++ [transferOf x bs],
                                unacked := x.unacked ++ ps })) ∧
  (∀ (s : State) (q bell : Nat) (x : QPair), s.ev.a = q → netOn s = true → s.qp? q = some x → x.ready = true → x.error = false → bellOf s x = some bell →
    x.taken < bell → finishedOf s x + 2 ^ x.k < bell → ∀ i, i = Instr.workDeposit ∨ i = Instr.workRead → ∃ t, exec i s = .next t ∧ InError t q ∧ t.threads = s.threads) ∧
  (∀ (s : State) (q : Nat) (x : QPair) (p : NetPacket) (r : Region), Arrives s q x p → r = s.region (p.region % 65536) →
    (∀ i last, (i, last) ∈ [(Instr.depositData, false), (Instr.depositLast, true)] →
      (∀ a b, p.psn = x.rxPsn → s.ev.c = 0 → (x.recv.getD {}).landed = [] → p.advance = none → regionAdmits s x p p.data.length 1 false = true → a = r.base.toNat + p.offset →
        netMay s r.slot a p.data.length = true → netWord s r.slot a = some b → a % 64 + p.data.length ≤ 64 → LineFits s b → writeDiscarded s b = false →
        s.MemOk → ∃ t y, exec i s = .next t ∧ Puts s t x [control x 5 0 p.psn] ∧ t.qp? q = some y ∧ y.rxPsn = (x.rxPsn + 1) % 2 ^ 24 ∧
          y.recv.isNone = last ∧ t.threads = s.threads ∧ (∀ (k : Nat) (c : Byte), p.data[k]? = some c → truthByte t (b + k) = c) ∧
          ∀ z, (z < b ∨ b + p.data.length ≤ z) → truthByte t z = truthByte s z) ∧
      (p.psn = x.rxPsn → (regionAdmits s x p p.data.length 1 true = false ∨ netMay s r.slot (r.base.toNat + p.offset) p.data.length = false) →
        ∃ t, exec i s = .next t ∧ Puts s t x [control x 6 2 p.psn] ∧ t.net.qps = s.net.qps ∧ t.threads = s.threads ∧ SameBytes s t) ∧
      (p.psn ≠ x.rxPsn → ∃ t, exec i s = .next t ∧ t.net.qps = s.net.qps ∧ t.threads = s.threads ∧ SameBytes s t ∧
        Puts s t x [if psnDiff x.rxPsn p.psn < 2 ^ 23 then control x 5 0 (x.rxPsn + 2 ^ 24 - 1) else control x 6 1 x.rxPsn])) ∧
    (∀ d, p.psn = x.rxPsn → 0 < p.len → p.len ≤ 0x200000 → regionAdmits s x p p.len 0 false = true →
      readFor s (netJob s r.slot r.cluster) (r.base.toNat + p.offset) p.len = some d → ∃ t, exec .readRequest s = .next t ∧ Puts s t x (readPackets x p d) ∧
        t.qp? q = some { x with rxPsn := (x.rxPsn + psnCount p.len) % 2 ^ 24 } ∧ t.threads = s.threads ∧ SameBytes s t) ∧
    (∀ k rest, x.sends = k :: rest → s.ev.c = 0 → k.landed = [] → k.read = true → p.psn = x.ackPsn → p.data.length = min 4096 (k.len - k.doneBytes) →
      netMay s x.slot (k.va.toNat + k.doneBytes) p.data.length = true → k.doneBytes + p.data.length < k.len → ∃ t, exec .readData s = .next t ∧
        t.threads = s.threads ∧ t.qp? q = some { x with ackPsn := (x.ackPsn + 1) % 2 ^ 24, resends := 0,
                                                        sends := { k with doneBytes := k.doneBytes + p.data.length } :: rest }) ∧
    ((∀ k ∈ x.sends, k.read = false) → psnDiff p.ackPsn x.ackPsn < psnDiff x.txPsn x.ackPsn → ∃ t y, exec .ack s = .next t ∧ t.qp? q = some y ∧
      y.ackPsn = (p.ackPsn + 1) % 2 ^ 24 ∧ y.unacked = x.unacked.filter (fun u => psnDiff u.psn x.ackPsn > psnDiff p.ackPsn x.ackPsn) ∧
      t.threads = s.threads) ∧
    (p.nak = 1 → p.ackPsn = x.ackPsn → x.unacked ≠ [] → x.resends < 7 → ∃ t, exec .nak s = .next t ∧ Puts s t x x.unacked ∧
      t.qp? q = some { x with resends := x.resends + 1 } ∧ t.threads = s.threads ∧ SameBytes s t) ∧
    ((∃ k ∈ x.sends, psnDiff p.ackPsn k.firstPsn < psnCount k.len) → p.nak = 2 → ∃ t, exec .nak s = .next t ∧ InError t q ∧
      t.threads = s.threads)) ∧
  (∀ (s : State) (q : Nat) (x : QPair), s.ev.a = q → s.qp? q = some x →
    (netOn s = true → x.error = false → x.unacked ≠ [] →
      (x.resends < 7 → ∃ t, exec .retransmitTimeout s = .next t ∧ Puts s t x x.unacked ∧ t.qp? q = some { x with resends := x.resends + 1 } ∧
        t.threads = s.threads ∧ SameBytes s t) ∧
      (7 ≤ x.resends → ∃ t, exec .retransmitTimeout s = .next t ∧ InError t q ∧ t.threads = s.threads)) ∧
    ∀ k, x.recv = some k → (s.region k.region).closing = true → ∃ t, exec .depositAbandonTimeout s = .next t ∧ t.qp? q = some { x with recv := none } ∧
      t.threads = s.threads ∧ SameBytes s t)

/-! ### Trusted interfaces and the fleet -/

/-- 20 R365–R369: a region is attached to an interface whose configuration is not frozen; an interface is locked, started and stopped in a secure session, each from the state that lists it, and reported; keys of its stream are
programmed; the loss of its stream is an error; the responder's messages follow negotiation, and what comes out of order is refused.
(The model's readings in it: log entries 52, 53, 54, 55 and 56.) -/
def Obligations.TrustedEvents : Prop :=
  ∀ s : State,
    (∀ j < 16, s.ev.a = j → s.spdm.open_ = true →
      ((s.slot j).tdi = .unlocked → s.ev.flag = false → ∃ t, exec .lockInterfaceRequest s = .next t ∧ t.slot j = { s.slot j with tdi := .locked } ∧
        t.spdm.resp = .tdi .locked ∧ t.threads = s.threads ∧ SameBytes s t) ∧
      ((s.slot j).tdi ≠ .unlocked → s.ev.flag = false → ∃ t, exec .lockInterfaceRequest s = .next t ∧ t.slots = s.slots ∧ t.spdm.resp = .error 4 ∧ SameBytes s t) ∧
      ((s.slot j).tdi = .locked → ∃ t, exec .startInterfaceRequest s = .next t ∧ t.slot j = { s.slot j with tdi := .run, keysLive := true } ∧
        t.spdm.resp = .tdi .run ∧ (∀ u, s.attach.find? u = some j → t.stale.find? u = some []) ∧ t.threads = s.threads ∧ SameBytes s t) ∧
      ((s.slot j).tdi ≠ .locked → ∃ t, exec .startInterfaceRequest s = .next t ∧ t.slots = s.slots ∧ t.spdm.resp = .error 4 ∧ SameBytes s t) ∧
      ((s.slot j).tdi ≠ .unlocked → (s.slot j).ending = none → NoWork s → phaseOver s j = true → ∃ t, exec .stopInterfaceRequest s = .next t ∧
        (t.slot j).tdi = .unlocked ∧ (t.slot j).en = false ∧ (t.slot j).keysLive = false ∧ t.spdm.resp = .tdi .unlocked ∧ t.threads = s.threads ∧
        ∀ u, s.attach.find? u = some j → t.stale.find? u = some []) ∧
      ((s.slot j).tdi = .unlocked → (s.slot j).ending = none → ∃ t, exec .stopInterfaceRequest s = .next t ∧ t.slots = s.slots ∧
        t.spdm.resp = .error 4 ∧ SameBytes s t) ∧
      (∃ t, exec .getDeviceInterfaceReport s = .next t ∧ t.slots = s.slots ∧ t.threads = s.threads ∧ SameBytes s t ∧
        t.spdm.resp = .report j (if s.regs.pcfg = true then [(s.slot j).part] else [0, 1]) (s.slot j).asid (s.slot j).ptb (interfaceRanges s j) ((s.attach.filter fun a => a.2 == j).map (·.1))) ∧
      ∃ t, exec .ideKm s = .next t ∧ t.slot j = { s.slot j with ide := some s.ev.b } ∧ t.spdm.resp = .ideKm ∧ t.threads = s.threads ∧ SameBytes s t) ∧
    (∀ j u, s.ev.a = j → j < 16 → s.ev.flag = true → s.ev.b = u → backed s (u * 0x200000) = true →
      (∃ c o, spaceOf (u * 0x200000) = .hbm c o ∨ spaceOf (u * 0x200000) = .tier2 c o) →
      ((∀ k, (k = j ∨ s.attach.find? u = some k) → frozen s k = false) →
        exec .lockInterfaceRequest s = .next { s with attach := s.attach.put u j }) ∧
      (s.attach.find? u = none → (s.slot j).tdi = .locked → ∃ t, exec .lockInterfaceRequest s = .next t ∧ t.attach = s.attach ∧
        t.slot j = { s.slot j with tdi := .error } ∧ t.threads = s.threads ∧ SameBytes s t)) ∧
    (s.ev.flag = false → (s.spdm.open_ = false ∨ 16 ≤ s.ev.a) → (s.slot s.ev.a).ending ≠ some .stop →
      ∀ i ∈ [Instr.lockInterfaceRequest, .startInterfaceRequest, .stopInterfaceRequest, .getDeviceInterfaceReport, .ideKm],
        exec i s = .next { s with spdm := { s.spdm with resp := .error 4 } }) ∧
    (∀ j < 16, s.ev.a = j → (s.slot j).ending = none →
      ((s.slot j).tdi = .locked → ∃ t, exec .ideStreamFailure s = .next t ∧ t.slot j = { s.slot j with tdi := .error } ∧ t.threads = s.threads ∧
        SameBytes s t) ∧
      ((s.slot j).tdi = .run → NoWork s → phaseOver s j = true → ∃ t, exec .ideStreamFailure s = .next t ∧ (t.slot j).tdi = .error ∧
        (t.slot j).ending = none ∧ (t.slot j).keysLive = false ∧ t.threads = s.threads ∧ ∀ u, s.attach.find? u = some j → t.stale.find? u = some []) ∧
      (((s.slot j).tdi = .unlocked ∨ (s.slot j).tdi = .error) → exec .ideStreamFailure s = .next s)) ∧
    (exec .getVersion s = .next { s with spdm := { versioned := true, resp := .version 1 3 } }) ∧
    (∀ cs, cs = [SpdmRequest.getVersion, .getCapabilities, .negotiateAlgorithms, .getDigests, .getCertificate, .challenge, .getMeasurements, .keyExchange,
      .finish, .endSession, .vendorDefined] → s.spdm.versioned = true →
      exec .getCapabilities s = .next { s with spdm := { s.spdm with capable := true, resp := .capabilities cs } }) ∧
    (s.spdm.capable = true → exec .negotiateAlgorithms s = .next { s with
      spdm := { s.spdm with negotiated := true, resp := .algorithms .ecdsaP384 .sha512 .secp384r1 .aes256Gcm } }) ∧
    (s.spdm.versioned = false → exec .getCapabilities s = .next { s with spdm := { s.spdm with resp := .error 4 } }) ∧
    (s.spdm.capable = false → exec .negotiateAlgorithms s = .next { s with spdm := { s.spdm with resp := .error 4 } }) ∧
    (s.spdm.negotiated = true →
      exec .getDigests s = .next { s with spdm := { s.spdm with resp := .digests (Config.sha512 Config.certChain) } } ∧
      exec .getCertificate s = .next { s with spdm := { s.spdm with resp := .certificate ((Config.certChain.drop s.ev.a).take s.ev.b) } } ∧
      exec .challenge s = .next { s with spdm := { s.spdm with
        resp := .challenge (Config.ecdsaSign (Config.sha512 (bytesOfNat 32 s.ev.a ++ Config.sha512 Config.certChain))) } } ∧
      (∀ n, s.regs.ran = true → s.ev.a = n → 1 ≤ n → n ≤ 5 → exec .getMeasurements s = .next { s with spdm := { s.spdm with
        resp := .measurements [(n, measurement s n)] (Config.ecdsaSign (Config.sha512 (measurement s n))) } }) ∧
      (s.regs.ran = true → s.ev.a = 0xFF → ∃ t sig, exec .getMeasurements s = .next t ∧ SameBytes s t ∧
        t.spdm.resp = .measurements ([1, 2, 3, 4, 5].map fun n => (n, measurement s n)) sig) ∧
      ∃ t, exec .keyExchange s = .next t ∧ t.spdm.open_ = false ∧ t.spdm.secret = some (Config.ecdhSecret s.serial s.ev.bytes) ∧
        t.spdm.resp = .keyExchange (Config.ecdhShare s.serial s.ev.bytes) ∧ t.threads = s.threads ∧ SameBytes s t) ∧
    (s.spdm.negotiated = false → ∀ i ∈ [Instr.getDigests, .getCertificate, .challenge, .keyExchange],
      exec i s = .next { s with spdm := { s.spdm with resp := .error 4 } }) ∧
    (s.regs.ran = false → exec .getMeasurements s = .next { s with spdm := { s.spdm with resp := .notReady } }) ∧
    (∀ k, s.spdm.secret = some k → Config.finishVerify k s.ev.bytes = true →
      exec .finish s = .next { s with spdm := { s.spdm with open_ := true, resp := .finished } }) ∧
    (∀ k, s.spdm.secret = some k → Config.finishVerify k s.ev.bytes = false → exec .finish s = .next { s with spdm := { s.spdm with resp := .error 4 } }) ∧
    (s.spdm.secret = none → exec .finish s = .next { s with spdm := { s.spdm with resp := .error 4 } }) ∧
    (s.spdm.open_ = true → exec .endSession s = .next { s with spdm := { s.spdm with open_ := false, secret := none, resp := .ended } }) ∧
    (s.spdm.open_ = false → exec .endSession s = .next { s with spdm := { s.spdm with resp := .error 4 } })

/-- 21 R371, R373, R376–R379: a partition's reset leaves its slots disabled, its queues gone and its key tables empty; a module fences itself and fences others;
a remap swaps two regions' channels and changes no value; an error beyond correction poisons a line, a register word or an accumulator, a
corrected one changes nothing.
(The model's readings in it: log entries 52, 83, 84 and 121.) -/
def Obligations.FleetEvents : Prop :=
  ∀ s : State,
    (∀ p, s.ev.flag = false → s.ev.v = BitVec.ofNat 64 (0x5E6B0100 + p) → (p = 0 ∨ p = 1 ∧ s.regs.pcfg = true) → NoWork s → (∀ j < 16, phaseOver s j = true) →
      ∃ t, exec .preset s = .next t ∧ t.threads = s.threads ∧
        (∀ j < 16, (s.slot j).part = p → (t.slot j).en = false ∧ (t.slot j).prio = 0 ∧ (t.slot j).det = false ∧ (t.slot j).ending = none ∧
          (t.slot j).tdi = (s.slot j).tdi ∧ (t.slot j).part = p) ∧
        (∀ j < 16, (s.slot j).part ≠ p → t.slot j = s.slot j) ∧ (∀ q ∈ t.queues, (t.slot q.2.slot).part ≠ p) ∧
        ∀ c, inPartition s p c = true → (t.cluster c).keys = []) ∧
    (s.ev.flag = false → s.ev.v.toNat ≠ 0x5E6B0100 → s.ev.v.toNat ≠ 0x5E6B0101 → exec .preset s = .next s) ∧
    (s.ev.v = 0x5E6B0003 → s.regs.mstate ≠ 3 → NoWork s → (∀ j < 16, (s.slot j).ending ≠ some .stop) → ∃ t, exec .mfence s = .next t ∧ Fenced s t) ∧
    (s.ev.v ≠ 0x5E6B0003 → exec .mfence s = .next s) ∧
    (s.ev.a < 16 → ∃ t, exec .fencemWrite s = .next t ∧ t.regs.fencem.get 0 s.ev.a = s.ev.v ∧ (∀ k, k ≠ s.ev.a → t.regs.fencem.get 0 k = s.regs.fencem.get 0 k) ∧
      t.threads = s.threads ∧ SameBytes s t) ∧
    (∀ c x, s.ev.a = c → c < 64 → x = s.cluster c →
      (x.remapEn = false → ∃ t, exec .remapWindow s = .next t ∧ (t.cluster c).remapTable = x.remapTable ∧ (t.cluster c).remapSwaps = x.remapSwaps ∧
        t.threads = s.threads ∧ SameBytes s t) ∧
      ∀ k least hot cold, k < 4 → x.remapEn = true → 1 ≤ x.remapRuns.get 0 k → 10 ≤ x.remapSince →
        40 * channelServed s c k > x.remapThr * (channelServed s c 0 + channelServed s c 1 + channelServed s c 2 + channelServed s c 3) →
        (∀ i < k, hotChannel s c i = false ∨ x.remapRuns.get 0 i = 0) → least < 4 → (∀ i < 4, channelServed s c least ≤ channelServed s c i) →
        (∀ i < least, channelServed s c least < channelServed s c i) → k ≠ least →
        hot < 4096 → channelOf x hot = k → (∀ r < 4096, channelOf x r = k → regionServed s c r ≤ regionServed s c hot ∧ (r < hot → regionServed s c r < regionServed s c hot)) →
        cold < 4096 → channelOf x cold = least →
        (∀ r < 4096, channelOf x r = least → regionServed s c cold ≤ regionServed s c r ∧ (r < cold → regionServed s c cold < regionServed s c r)) →
        s.regs.even_ = false → ∃ t, exec .remapWindow s = .next t ∧
          channelOf (t.cluster c) hot = least ∧ channelOf (t.cluster c) cold = k ∧
          (∀ r, r ≠ hot → r ≠ cold → channelOf (t.cluster c) r = channelOf x r) ∧ (t.cluster c).remapSwaps = (x.remapSwaps + 1) % 2 ^ 32 ∧
          t.threads = s.threads ∧ SameBytes s t) ∧
    (∀ a c o, s.ev.a * 64 = a → (spaceOf a = .hbm c o ∨ spaceOf a = .tier2 c o ∧ backed s a = true) → s.regs.even_ = false → s.ev.site = none →
      (s.ev.flag = false → ∃ t, exec .patrolScrub s = .next t ∧ t.poison = s.poison ∧ t.clusters = s.clusters ∧ t.threads = s.threads ∧ SameBytes s t) ∧
      (s.ev.flag = true → ∃ t, exec .patrolScrub s = .next t ∧ (∀ i < 8, memPoisoned t (a + 8 * i) = true) ∧
        (∀ w, (w < a ∨ a + 64 ≤ w) → memPoisoned t w = memPoisoned s w) ∧ t.threads = s.threads ∧ SameBytes s t)) ∧
    (∀ x, s.ev.site = some x → s.regs.even_ = false → (∀ n l, x ≠ .code n l) →
      ∃ t, exec .patrolScrub s = .next t ∧ t.poison = s.poison ∧ t.clusters = s.clusters ∧ t.tiles = s.tiles ∧ t.cores = s.cores ∧ t.threads = s.threads ∧
        SameBytes s t) ∧
    (s.regs.even_ = false →
      (∀ n l, s.ev.site = some (.code n l) → ∀ i ∈ [Instr.uncorrectableError, .patrolScrub], ∃ t, exec i s = .next t ∧
        (Assoc.rising (s.tile n).icache = true → (t.tile n).icache.find? l = none) ∧ t.poison = s.poison ∧ t.threads = s.threads ∧ SameBytes s t) ∧
      (∀ a c o, s.ev.site = some (.mem a) → spaceOf a = .hbm c o → backed s a = true → ownedLine s a = none → ∃ t, exec .uncorrectableError s = .next t ∧
        (∀ i < 8, memPoisoned t (a / 64 * 64 + 8 * i) = true) ∧ t.threads = s.threads ∧ SameBytes s t) ∧
      (∀ n b x, (x, b) ∈ [(ErrSite.sreg n (s.ev.v.extractLsb' 0 5), BadReg.s (s.ev.v.extractLsb' 0 5)), (.areg n (s.ev.v.extractLsb' 0 3), .a (s.ev.v.extractLsb' 0 3)),
          (.vreg n (s.ev.v.extractLsb' 0 5) (s.ev.v.extractLsb' 5 3), .v (s.ev.v.extractLsb' 0 5) (s.ev.v.extractLsb' 5 3)), (.mreg n (s.ev.v.extractLsb' 0 3), .m (s.ev.v.extractLsb' 0 3)), (.limb n s.ev.a, .limb s.ev.a)] → s.ev.site = some x →
        ∃ t, exec .uncorrectableError s = .next t ∧ b ∈ (t.thread n).bad ∧ (∀ y ∈ (t.thread n).bad, y = b ∨ y ∈ (s.thread n).bad) ∧
          t.thread n = { s.thread n with bad := (t.thread n).bad } ∧ OthersKept s t n ∧ SameBytes s t) ∧
      (∀ n k, s.ev.site = some (.acc n k) → ∃ t, exec .uncorrectableError s = .next t ∧ ((t.tile n).accum k.toNat).poison = true ∧
        (∀ x, accElem t n k x = accElem s n k x) ∧ t.threads = s.threads ∧ SameBytes s t) ∧
      ∀ n w d, s.ev.site = some (.l1 n w) → (s.core n).dirty.find? w = some d → ∃ t, exec .uncorrectableError s = .next t ∧ w ∈ (t.core n).dirtyBad ∧
        (t.core n).dirty = (s.core n).dirty ∧ t.threads = s.threads ∧ SameBytes s t)

/-! ### Encodings, the step, reset, memory -/

/-- 08 R172–R182: for every well-formed instruction that has an encoding, with every operand at every value its fields admit, decoding the bytes of its words,
whatever follows them, gives it back and its length. -/
def Obligations.DecodeEncode : Prop :=
  ∀ (i : Instr) (rest : List Byte), i.WF → i.encodable = true → decode (encodeBytes i ++ rest) = (.ok i, i.size)

/-- 07 R136, 09 R197, R200, R203, R204, R207, 10 R222, 11 R246: words the manual works out, and what they decode to. -/
def Obligations.DecodeWords : Prop :=
  decodeTableWord 32 0x14311006 = some (.aidx 3 2 4) ∧ decodeTableWord 32 0x2600000A = some (.call 10) ∧
    decodeTableWord 32 0x28000002 = some .ret ∧ decodeTableWord 32 0x28028000 = some (.jr 5) ∧
    decodeTableWord 32 0x20300004 = some (.bltu 3 0 4) ∧ decodeTableWord 32 0x2C000040 = some (.realign 64) ∧
    decodeTableWord 64 0x8000000090700000 = some (.moviLong 7 0x80000000) ∧ decodeTableWord 64 0x0000000190708000 = some (.movhi 7 1) ∧
    decodeTableWord 32 0x5A301400 = some (.msend 3 5) ∧ decodeTableWord 32 0x5A600003 = some (.mrecv 6) ∧
    decodeTableWord 32 0x3C030D40 = some (.barwait 6 3)

/-- 08 R172, 10 R210, 21 R379, R382: when the bytes at the PC decode to a well-formed instruction that waits for no register and reads no struck word, a step
is that instruction's execution; one that completes, and neither waits, traps nor ends its task at a cancellation point, is counted as retired (the
model's reading of R382: log entry 24).
(The model's readings in it: log entries 5, 24 and 101.) -/
def Obligations.StepRuns : Prop :=
  ∀ (s : State) (i : Instr), Issues s → InstrAt s i → waitsFor s i = false → readsBad s.th i = false →
    step s = match exec i s with
      | .next t => .next (if completed s i t then t.count (16 * (s.cur / 36) + 1) 1 else t)
      | r => r

/-- 00 R7, 04 R79, 05 R98, 08 R171, 18 R325, R336, 19 R347, 20 R358, 21 R376: what the manual gives for reset: the module awaits an image, every queue and job slot is disabled,
`PREC`, `EGEOM` and `ECARD` hold their reset values on every thread, none of which runs a handler, SRAM and the accumulators read zero, no host
error is logged; memory is in its canonical form. That the ports are down is the model's reading (log entry 2).
(The model's readings in it: log entries 1 and 2.) -/
def Obligations.ResetValues : Prop :=
  State.reset.regs.mstate = 1 ∧ State.reset.regs.svn = 0 ∧ State.reset.regs.fwbusy = false ∧ State.reset.regs.fwcode = 0 ∧
    State.reset.regs.herrV = false ∧ State.reset.regs.plim = 2800 ∧ State.reset.regs.evhead = 0 ∧
    (∀ j < 16, (State.reset.slot j).en = false ∧ (State.reset.slot j).prog = 0) ∧
    (∀ q, (State.reset.queue q).enable = false ∧ (State.reset.queue q).err = false) ∧
    (∀ n, (State.reset.thread n).prec = 53 ∧ (State.reset.thread n).vctl = 0 ∧ (State.reset.thread n).egeom = 0x0000000100000001 ∧
      (State.reset.thread n).ecard = 0x200 ∧ (State.reset.thread n).esstr = 0 ∧ (State.reset.thread n).edstr = 0 ∧
      (State.reset.thread n).sup.act = false) ∧
    (∀ c, (State.reset.cluster c).remapEn = true ∧ (State.reset.cluster c).remapThr = 15) ∧
    (∀ a, inSram a = true → State.reset.byte a = 0) ∧ (∀ n k x, accElem State.reset n k x = 0) ∧
    (∀ p < 18, (State.reset.port p).state = .down) ∧ State.reset.MemOk

/-- What an unlisted byte reads as is the model's (log entry 1); that its list of bytes stays canonical is what this says: addresses rise and no listed byte
is 0, after every step from every state in which it holds. -/
def Obligations.MemoryCanonicalKept : Prop :=
  ∀ s t : State, s.MemOk → step s = .next t → t.MemOk
end

