-- ==== Sys2Proof/Laws/PerInstr.lean ====
section
/-!
SUPPORT. What the encoder gives for each instruction: at most two words, each of 32 bits (08 R172), and none for an event.
-/
set_option Elab.async false

namespace Sys2Proof.Laws

theorem mcode (o : MOrder) : o.code < 3 := by cases o <;> decide
theorem acode (o : AOrder) : o.code < 4 := by cases o <;> decide
theorem scode (o : Scope) : o.code < 5 := by cases o <;> decide
theorem fcode (o : FenceKind) : o.code < 4 := by cases o <;> decide
theorem lcode (o : LdKind) : o.code < 7 := by cases o <;> decide
theorem stcode (o : StKind) : o.code < 4 := by cases o <;> decide
theorem vcode (o : VKind) : o.code < 4 := by cases o <;> decide
theorem tcode (o : LaneT) : o.code < 7 := by cases o <;> decide
theorem ccode (o : CReg) : o.code < 32 := by
  cases o with
  | s r => exact r.isLt
  | a r => exact Nat.lt_trans r.isLt (by decide)
theorem cflag (o : CReg) : o.flag < 2 := by cases o <;> simp [CReg.flag]
theorem bnat (b : Bool) : b.toNat < 2 := by cases b <;> decide

/-- At most two words of 32 bits. -/
def Encoding.Statement (i : Instr) : Prop := (encode i).length ≤ 2 ∧ ∀ w ∈ encode i, w < 2 ^ 32

namespace Encoding

theorem one {i : Instr} {b : Nat} {l : List (Nat × Nat)} (h : encode i = [pack b l]) (hb : pack b l < 2 ^ 32) : Statement i := by
  refine ⟨by simp [h], ?_⟩
  rw [h]; simpa only [List.mem_singleton, forall_eq] using hb

theorem two {i : Instr} {b : Nat} {l : List (Nat × Nat)} {x : Nat} (h : encode i = [pack b l, x]) (hb : pack b l < 2 ^ 32)
    (hx : x < 2 ^ 32) : Statement i := by
  refine ⟨by simp [h], ?_⟩
  rw [h]; simpa only [List.mem_cons, List.not_mem_nil, or_false, forall_eq_or_imp, forall_eq] using ⟨hb, hx⟩

theorem iflush (a : AReg) (d : SReg) : Statement (.iflush a d) := one rfl (by simp only [pack]; omega)

theorem tlbi (a : AReg) (d : SReg) : Statement (.tlbi a d) := one rfl (by simp only [pack]; omega)

theorem trap (code : BitVec 12) : Statement (.trap code) := one rfl (by simp only [pack]; omega)

theorem ctlr (d : CReg) (idx : BitVec 12) : Statement (.ctlr d idx) := by
  have := ccode d; have := cflag d
  exact one rfl (by simp only [pack]; omega)

theorem ctlw (idx : BitVec 12) (a : CReg) : Statement (.ctlw idx a) := by
  have := ccode a; have := cflag a
  exact one rfl (by simp only [pack]; omega)

theorem add (d : SReg) (a : SReg) (b : SReg) : Statement (.add d a b) := one rfl (by simp only [pack]; omega)

theorem sub (d : SReg) (a : SReg) (b : SReg) : Statement (.sub d a b) := one rfl (by simp only [pack]; omega)

theorem and (d : SReg) (a : SReg) (b : SReg) : Statement (.and d a b) := one rfl (by simp only [pack]; omega)

theorem or (d : SReg) (a : SReg) (b : SReg) : Statement (.or d a b) := one rfl (by simp only [pack]; omega)

theorem xor (d : SReg) (a : SReg) (b : SReg) : Statement (.xor d a b) := one rfl (by simp only [pack]; omega)

theorem andn (d : SReg) (a : SReg) (b : SReg) : Statement (.andn d a b) := one rfl (by simp only [pack]; omega)

theorem shl (d : SReg) (a : SReg) (b : SReg) : Statement (.shl d a b) := one rfl (by simp only [pack]; omega)

theorem shr (d : SReg) (a : SReg) (b : SReg) : Statement (.shr d a b) := one rfl (by simp only [pack]; omega)

theorem sar (d : SReg) (a : SReg) (b : SReg) : Statement (.sar d a b) := one rfl (by simp only [pack]; omega)

theorem mul (d : SReg) (a : SReg) (b : SReg) : Statement (.mul d a b) := one rfl (by simp only [pack]; omega)

theorem mulh (d : SReg) (a : SReg) (b : SReg) : Statement (.mulh d a b) := one rfl (by simp only [pack]; omega)

theorem mulhu (d : SReg) (a : SReg) (b : SReg) : Statement (.mulhu d a b) := one rfl (by simp only [pack]; omega)

theorem div (d : SReg) (a : SReg) (b : SReg) : Statement (.div d a b) := one rfl (by simp only [pack]; omega)

theorem divu (d : SReg) (a : SReg) (b : SReg) : Statement (.divu d a b) := one rfl (by simp only [pack]; omega)

theorem rem (d : SReg) (a : SReg) (b : SReg) : Statement (.rem d a b) := one rfl (by simp only [pack]; omega)

theorem remu (d : SReg) (a : SReg) (b : SReg) : Statement (.remu d a b) := one rfl (by simp only [pack]; omega)

theorem min (d : SReg) (a : SReg) (b : SReg) : Statement (.min d a b) := one rfl (by simp only [pack]; omega)

theorem max (d : SReg) (a : SReg) (b : SReg) : Statement (.max d a b) := one rfl (by simp only [pack]; omega)

theorem minu (d : SReg) (a : SReg) (b : SReg) : Statement (.minu d a b) := one rfl (by simp only [pack]; omega)

theorem maxu (d : SReg) (a : SReg) (b : SReg) : Statement (.maxu d a b) := one rfl (by simp only [pack]; omega)

theorem seq (d : SReg) (a : SReg) (b : SReg) : Statement (.seq d a b) := one rfl (by simp only [pack]; omega)

theorem sne (d : SReg) (a : SReg) (b : SReg) : Statement (.sne d a b) := one rfl (by simp only [pack]; omega)

theorem slt (d : SReg) (a : SReg) (b : SReg) : Statement (.slt d a b) := one rfl (by simp only [pack]; omega)

theorem sltu (d : SReg) (a : SReg) (b : SReg) : Statement (.sltu d a b) := one rfl (by simp only [pack]; omega)

theorem clz (d : SReg) (a : SReg) : Statement (.clz d a) := one rfl (by simp only [pack]; omega)

theorem ctz (d : SReg) (a : SReg) : Statement (.ctz d a) := one rfl (by simp only [pack]; omega)

theorem popc (d : SReg) (a : SReg) : Statement (.popc d a) := one rfl (by simp only [pack]; omega)

theorem brev (d : SReg) (a : SReg) : Statement (.brev d a) := one rfl (by simp only [pack]; omega)

theorem bswap (d : SReg) (a : SReg) : Statement (.bswap d a) := one rfl (by simp only [pack]; omega)

theorem sext (d : SReg) (a : SReg) (b : SReg) : Statement (.sext d a b) := one rfl (by simp only [pack]; omega)

theorem zext (d : SReg) (a : SReg) (b : SReg) : Statement (.zext d a b) := one rfl (by simp only [pack]; omega)

theorem cmov (d : SReg) (a : SReg) (b : SReg) : Statement (.cmov d a b) := one rfl (by simp only [pack]; omega)

theorem addi (d : SReg) (a : SReg) (imm : BitVec 15) : Statement (.addi d a imm) := one rfl (by simp only [pack]; omega)

theorem andi (d : SReg) (a : SReg) (imm : BitVec 15) : Statement (.andi d a imm) := one rfl (by simp only [pack]; omega)

theorem ori (d : SReg) (a : SReg) (imm : BitVec 15) : Statement (.ori d a imm) := one rfl (by simp only [pack]; omega)

theorem xori (d : SReg) (a : SReg) (imm : BitVec 15) : Statement (.xori d a imm) := one rfl (by simp only [pack]; omega)

theorem shli (d : SReg) (a : SReg) (n : BitVec 6) : Statement (.shli d a n) := one rfl (by simp only [pack]; omega)

theorem shri (d : SReg) (a : SReg) (n : BitVec 6) : Statement (.shri d a n) := one rfl (by simp only [pack]; omega)

theorem sari (d : SReg) (a : SReg) (n : BitVec 6) : Statement (.sari d a n) := one rfl (by simp only [pack]; omega)

theorem slti (d : SReg) (a : SReg) (imm : BitVec 14) : Statement (.slti d a imm) := one rfl (by simp only [pack]; omega)

theorem sltiu (d : SReg) (a : SReg) (imm : BitVec 14) : Statement (.sltiu d a imm) := one rfl (by simp only [pack]; omega)

theorem movi (d : SReg) (imm : BitVec 15) : Statement (.movi d imm) := one rfl (by simp only [pack]; omega)

theorem moviLong (d : SReg) (ext : BitVec 32) : Statement (.moviLong d ext) := two rfl (by simp only [pack]; omega) (by omega)

theorem movhi (d : SReg) (ext : BitVec 32) : Statement (.movhi d ext) := two rfl (by simp only [pack]; omega) (by omega)

theorem adrpc (d : AReg) (imm : BitVec 15) : Statement (.adrpc d imm) := one rfl (by simp only [pack]; omega)

theorem adrpcLong (d : AReg) (ext : BitVec 32) : Statement (.adrpcLong d ext) := two rfl (by simp only [pack]; omega) (by omega)

theorem adda (d : AReg) (a : AReg) (b : SReg) : Statement (.adda d a b) := one rfl (by simp only [pack]; omega)

theorem suba (d : AReg) (a : AReg) (b : SReg) : Statement (.suba d a b) := one rfl (by simp only [pack]; omega)

theorem movas (d : AReg) (a : SReg) : Statement (.movas d a) := one rfl (by simp only [pack]; omega)

theorem movsa (d : SReg) (a : AReg) : Statement (.movsa d a) := one rfl (by simp only [pack]; omega)

theorem movah (d : AReg) (a : SReg) : Statement (.movah d a) := one rfl (by simp only [pack]; omega)

theorem movha (d : SReg) (a : AReg) : Statement (.movha d a) := one rfl (by simp only [pack]; omega)

theorem aidx (d : AReg) (a : AReg) (b : SReg) : Statement (.aidx d a b) := one rfl (by simp only [pack]; omega)

theorem slta (d : SReg) (a : AReg) (b : AReg) : Statement (.slta d a b) := one rfl (by simp only [pack]; omega)

theorem addai (d : AReg) (a : AReg) (imm : BitVec 15) : Statement (.addai d a imm) := one rfl (by simp only [pack]; omega)

theorem addaiLong (d : AReg) (a : AReg) (ext : BitVec 32) : Statement (.addaiLong d a ext) := two rfl (by simp only [pack]; omega) (by omega)

theorem beq (a : SReg) (b : SReg) (off : BitVec 15) : Statement (.beq a b off) := one rfl (by simp only [pack]; omega)

theorem bne (a : SReg) (b : SReg) (off : BitVec 15) : Statement (.bne a b off) := one rfl (by simp only [pack]; omega)

theorem blt (a : SReg) (b : SReg) (off : BitVec 15) : Statement (.blt a b off) := one rfl (by simp only [pack]; omega)

theorem bge (a : SReg) (b : SReg) (off : BitVec 15) : Statement (.bge a b off) := one rfl (by simp only [pack]; omega)

theorem bltu (a : SReg) (b : SReg) (off : BitVec 15) : Statement (.bltu a b off) := one rfl (by simp only [pack]; omega)

theorem bgeu (a : SReg) (b : SReg) (off : BitVec 15) : Statement (.bgeu a b off) := one rfl (by simp only [pack]; omega)

theorem jmp (off : BitVec 25) : Statement (.jmp off) := one rfl (by simp only [pack]; omega)

theorem call (off : BitVec 25) : Statement (.call off) := one rfl (by simp only [pack]; omega)

theorem jr (a : AReg) : Statement (.jr a) := one rfl (by simp only [pack]; omega)

theorem callr (a : AReg) : Statement (.callr a) := one rfl (by simp only [pack]; omega)

theorem loop (a : SReg) (len : BitVec 12) : Statement (.loop a len) := one rfl (by simp only [pack]; omega)

theorem loopi (c : BitVec 11) (len : BitVec 12) : Statement (.loopi c len) := one rfl (by simp only [pack]; omega)

theorem realign (limit : BitVec 15) : Statement (.realign limit) := one rfl (by simp only [pack]; omega)

theorem ld (k : LdKind) (o : MOrder) (d : SReg) (a : AReg) (off : BitVec 12) : Statement (.ld k o d a off) := by
  have := lcode k; have := mcode o
  exact one rfl (by simp only [pack]; omega)

theorem st (k : StKind) (o : MOrder) (d : SReg) (a : AReg) (off : BitVec 12) : Statement (.st k o d a off) := by
  have := stcode k; have := mcode o
  exact one rfl (by simp only [pack]; omega)

theorem ldv (k : VKind) (o : MOrder) (d : VReg) (a : AReg) (off : BitVec 12) : Statement (.ldv k o d a off) := by
  have := vcode k; have := mcode o
  exact one rfl (by simp only [pack]; omega)

theorem stv (k : VKind) (o : MOrder) (d : VReg) (a : AReg) (off : BitVec 12) : Statement (.stv k o d a off) := by
  have := vcode k; have := mcode o
  exact one rfl (by simp only [pack]; omega)

theorem pull (k : StKind) (o : MOrder) (d : SReg) (a : AReg) (off : BitVec 12) : Statement (.pull k o d a off) := by
  have := stcode k; have := mcode o
  exact one rfl (by simp only [pack]; omega)

theorem pullv (o : MOrder) (d : VReg) (a : AReg) (off : BitVec 12) : Statement (.pullv o d a off) := by
  have := mcode o
  exact one rfl (by simp only [pack]; omega)

theorem pref (hint : BitVec 5) (a : AReg) (off : BitVec 12) : Statement (.pref hint a off) := one rfl (by simp only [pack]; omega)

theorem amoadd (wide : Bool) (o : AOrder) (d : SReg) (a : AReg) (b : SReg) : Statement (.amoadd wide o d a b) := by
  have := bnat wide; have := acode o
  exact one rfl (by simp only [pack]; omega)

theorem amoand (wide : Bool) (o : AOrder) (d : SReg) (a : AReg) (b : SReg) : Statement (.amoand wide o d a b) := by
  have := bnat wide; have := acode o
  exact one rfl (by simp only [pack]; omega)

theorem amoor (wide : Bool) (o : AOrder) (d : SReg) (a : AReg) (b : SReg) : Statement (.amoor wide o d a b) := by
  have := bnat wide; have := acode o
  exact one rfl (by simp only [pack]; omega)

theorem amoxor (wide : Bool) (o : AOrder) (d : SReg) (a : AReg) (b : SReg) : Statement (.amoxor wide o d a b) := by
  have := bnat wide; have := acode o
  exact one rfl (by simp only [pack]; omega)

theorem amomin (wide : Bool) (o : AOrder) (d : SReg) (a : AReg) (b : SReg) : Statement (.amomin wide o d a b) := by
  have := bnat wide; have := acode o
  exact one rfl (by simp only [pack]; omega)

theorem amomax (wide : Bool) (o : AOrder) (d : SReg) (a : AReg) (b : SReg) : Statement (.amomax wide o d a b) := by
  have := bnat wide; have := acode o
  exact one rfl (by simp only [pack]; omega)

theorem amominu (wide : Bool) (o : AOrder) (d : SReg) (a : AReg) (b : SReg) : Statement (.amominu wide o d a b) := by
  have := bnat wide; have := acode o
  exact one rfl (by simp only [pack]; omega)

theorem amomaxu (wide : Bool) (o : AOrder) (d : SReg) (a : AReg) (b : SReg) : Statement (.amomaxu wide o d a b) := by
  have := bnat wide; have := acode o
  exact one rfl (by simp only [pack]; omega)

theorem amoswap (wide : Bool) (o : AOrder) (d : SReg) (a : AReg) (b : SReg) : Statement (.amoswap wide o d a b) := by
  have := bnat wide; have := acode o
  exact one rfl (by simp only [pack]; omega)

theorem amocas (wide : Bool) (o : AOrder) (d : SReg) (a : AReg) (b : SReg) : Statement (.amocas wide o d a b) := by
  have := bnat wide; have := acode o
  exact one rfl (by simp only [pack]; omega)

theorem fence (k : FenceKind) (sc : Scope) : Statement (.fence k sc) := by
  have := fcode k; have := scode sc
  exact one rfl (by simp only [pack]; omega)

theorem seqadvMax (sc : Scope) (d : SReg) (a : AReg) (b : SReg) : Statement (.seqadvMax sc d a b) := by
  have := scode sc
  exact one rfl (by simp only [pack]; omega)

theorem seqadvAdd (sc : Scope) (d : SReg) (a : AReg) (b : SReg) : Statement (.seqadvAdd sc d a b) := by
  have := scode sc
  exact one rfl (by simp only [pack]; omega)

theorem watch (sc : Scope) (slot : BitVec 3) (a : AReg) (b : SReg) : Statement (.watch sc slot a b) := by
  have := scode sc
  exact one rfl (by simp only [pack]; omega)

theorem waitw (d : SReg) (slot : BitVec 3) : Statement (.waitw d slot) := one rfl (by simp only [pack]; omega)

theorem waita (ge : Bool) (acq : Bool) (d : SReg) (a : AReg) (b : SReg) : Statement (.waita ge acq d a b) := by
  have := bnat ge; have := bnat acq
  exact one rfl (by simp only [pack]; omega)

theorem waitc (ldl : BitVec 5) (stl : BitVec 5) (cpl : BitVec 5) (mxl : BitVec 5) : Statement (.waitc ldl stl cpl mxl) := one rfl (by simp only [pack]; omega)

theorem barinit (d : SReg) (a : AReg) (b : SReg) : Statement (.barinit d a b) := one rfl (by simp only [pack]; omega)

theorem barwait (a : AReg) (b : SReg) : Statement (.barwait a b) := one rfl (by simp only [pack]; omega)

theorem baradd (a : AReg) (b : SReg) : Statement (.baradd a b) := one rfl (by simp only [pack]; omega)

theorem keygive (a : AReg) (b : SReg) : Statement (.keygive a b) := one rfl (by simp only [pack]; omega)

theorem keytake (d : SReg) (a : AReg) : Statement (.keytake d a) := one rfl (by simp only [pack]; omega)

theorem keyqry (d : SReg) (a : AReg) : Statement (.keyqry d a) := one rfl (by simp only [pack]; omega)

theorem stashcfg (d : SReg) (a : AReg) : Statement (.stashcfg d a) := one rfl (by simp only [pack]; omega)

theorem vfadd (t : LaneT) (d : VReg) (a : VReg) (b : VReg) (m : MReg) : Statement (.vfadd t d a b m) := by
  have := tcode t
  exact one rfl (by simp only [pack]; omega)

theorem vfsub (t : LaneT) (d : VReg) (a : VReg) (b : VReg) (m : MReg) : Statement (.vfsub t d a b m) := by
  have := tcode t
  exact one rfl (by simp only [pack]; omega)

theorem vfmul (t : LaneT) (d : VReg) (a : VReg) (b : VReg) (m : MReg) : Statement (.vfmul t d a b m) := by
  have := tcode t
  exact one rfl (by simp only [pack]; omega)

theorem vfma (t : LaneT) (d : VReg) (a : VReg) (b : VReg) (m : MReg) : Statement (.vfma t d a b m) := by
  have := tcode t
  exact one rfl (by simp only [pack]; omega)

theorem vfms (t : LaneT) (d : VReg) (a : VReg) (b : VReg) (m : MReg) : Statement (.vfms t d a b m) := by
  have := tcode t
  exact one rfl (by simp only [pack]; omega)

theorem vfnma (t : LaneT) (d : VReg) (a : VReg) (b : VReg) (m : MReg) : Statement (.vfnma t d a b m) := by
  have := tcode t
  exact one rfl (by simp only [pack]; omega)

theorem vfdiv (t : LaneT) (d : VReg) (a : VReg) (b : VReg) (m : MReg) : Statement (.vfdiv t d a b m) := by
  have := tcode t
  exact one rfl (by simp only [pack]; omega)

theorem vfmin (t : LaneT) (d : VReg) (a : VReg) (b : VReg) (m : MReg) : Statement (.vfmin t d a b m) := by
  have := tcode t
  exact one rfl (by simp only [pack]; omega)

theorem vfmax (t : LaneT) (d : VReg) (a : VReg) (b : VReg) (m : MReg) : Statement (.vfmax t d a b m) := by
  have := tcode t
  exact one rfl (by simp only [pack]; omega)

theorem vfsqrt (t : LaneT) (d : VReg) (a : VReg) (m : MReg) : Statement (.vfsqrt t d a m) := by
  have := tcode t
  exact one rfl (by simp only [pack]; omega)

theorem vfrcp (t : LaneT) (d : VReg) (a : VReg) (m : MReg) : Statement (.vfrcp t d a m) := by
  have := tcode t
  exact one rfl (by simp only [pack]; omega)

theorem vfrsq (t : LaneT) (d : VReg) (a : VReg) (m : MReg) : Statement (.vfrsq t d a m) := by
  have := tcode t
  exact one rfl (by simp only [pack]; omega)

theorem vfabs (t : LaneT) (d : VReg) (a : VReg) (m : MReg) : Statement (.vfabs t d a m) := by
  have := tcode t
  exact one rfl (by simp only [pack]; omega)

theorem vfneg (t : LaneT) (d : VReg) (a : VReg) (m : MReg) : Statement (.vfneg t d a m) := by
  have := tcode t
  exact one rfl (by simp only [pack]; omega)

theorem vfexp2 (t : LaneT) (d : VReg) (a : VReg) (m : MReg) : Statement (.vfexp2 t d a m) := by
  have := tcode t
  exact one rfl (by simp only [pack]; omega)

theorem vflog2 (t : LaneT) (d : VReg) (a : VReg) (m : MReg) : Statement (.vflog2 t d a m) := by
  have := tcode t
  exact one rfl (by simp only [pack]; omega)

theorem vftanh (t : LaneT) (d : VReg) (a : VReg) (m : MReg) : Statement (.vftanh t d a m) := by
  have := tcode t
  exact one rfl (by simp only [pack]; omega)

theorem vfclass (t : LaneT) (d : VReg) (a : VReg) (m : MReg) : Statement (.vfclass t d a m) := by
  have := tcode t
  exact one rfl (by simp only [pack]; omega)

theorem vadd (t : LaneT) (d : VReg) (a : VReg) (b : VReg) (m : MReg) : Statement (.vadd t d a b m) := by
  have := tcode t
  exact one rfl (by simp only [pack]; omega)

theorem vsub (t : LaneT) (d : VReg) (a : VReg) (b : VReg) (m : MReg) : Statement (.vsub t d a b m) := by
  have := tcode t
  exact one rfl (by simp only [pack]; omega)

theorem vmul (t : LaneT) (d : VReg) (a : VReg) (b : VReg) (m : MReg) : Statement (.vmul t d a b m) := by
  have := tcode t
  exact one rfl (by simp only [pack]; omega)

theorem vmulh (t : LaneT) (d : VReg) (a : VReg) (b : VReg) (m : MReg) : Statement (.vmulh t d a b m) := by
  have := tcode t
  exact one rfl (by simp only [pack]; omega)

theorem vmin (t : LaneT) (d : VReg) (a : VReg) (b : VReg) (m : MReg) : Statement (.vmin t d a b m) := by
  have := tcode t
  exact one rfl (by simp only [pack]; omega)

theorem vmax (t : LaneT) (d : VReg) (a : VReg) (b : VReg) (m : MReg) : Statement (.vmax t d a b m) := by
  have := tcode t
  exact one rfl (by simp only [pack]; omega)

theorem vabs (t : LaneT) (d : VReg) (a : VReg) (m : MReg) : Statement (.vabs t d a m) := by
  have := tcode t
  exact one rfl (by simp only [pack]; omega)

theorem vsadd (t : LaneT) (d : VReg) (a : VReg) (b : VReg) (m : MReg) : Statement (.vsadd t d a b m) := by
  have := tcode t
  exact one rfl (by simp only [pack]; omega)

theorem vssub (t : LaneT) (d : VReg) (a : VReg) (b : VReg) (m : MReg) : Statement (.vssub t d a b m) := by
  have := tcode t
  exact one rfl (by simp only [pack]; omega)

theorem vand (t : LaneT) (d : VReg) (a : VReg) (b : VReg) (m : MReg) : Statement (.vand t d a b m) := by
  have := tcode t
  exact one rfl (by simp only [pack]; omega)

theorem vor (t : LaneT) (d : VReg) (a : VReg) (b : VReg) (m : MReg) : Statement (.vor t d a b m) := by
  have := tcode t
  exact one rfl (by simp only [pack]; omega)

theorem vxor (t : LaneT) (d : VReg) (a : VReg) (b : VReg) (m : MReg) : Statement (.vxor t d a b m) := by
  have := tcode t
  exact one rfl (by simp only [pack]; omega)

theorem vnot (t : LaneT) (d : VReg) (a : VReg) (m : MReg) : Statement (.vnot t d a m) := by
  have := tcode t
  exact one rfl (by simp only [pack]; omega)

theorem vshl (t : LaneT) (d : VReg) (a : VReg) (b : VReg) (m : MReg) : Statement (.vshl t d a b m) := by
  have := tcode t
  exact one rfl (by simp only [pack]; omega)

theorem vshr (t : LaneT) (d : VReg) (a : VReg) (b : VReg) (m : MReg) : Statement (.vshr t d a b m) := by
  have := tcode t
  exact one rfl (by simp only [pack]; omega)

theorem vsar (t : LaneT) (d : VReg) (a : VReg) (b : VReg) (m : MReg) : Statement (.vsar t d a b m) := by
  have := tcode t
  exact one rfl (by simp only [pack]; omega)

theorem vfcmpEq (t : LaneT) (d : MReg) (a : VReg) (b : VReg) (m : MReg) : Statement (.vfcmpEq t d a b m) := by
  have := tcode t
  exact one rfl (by simp only [pack]; omega)

theorem vfcmpLt (t : LaneT) (d : MReg) (a : VReg) (b : VReg) (m : MReg) : Statement (.vfcmpLt t d a b m) := by
  have := tcode t
  exact one rfl (by simp only [pack]; omega)

theorem vfcmpLe (t : LaneT) (d : MReg) (a : VReg) (b : VReg) (m : MReg) : Statement (.vfcmpLe t d a b m) := by
  have := tcode t
  exact one rfl (by simp only [pack]; omega)

theorem vfcmpUn (t : LaneT) (d : MReg) (a : VReg) (b : VReg) (m : MReg) : Statement (.vfcmpUn t d a b m) := by
  have := tcode t
  exact one rfl (by simp only [pack]; omega)

theorem vcmpEq (t : LaneT) (d : MReg) (a : VReg) (b : VReg) (m : MReg) : Statement (.vcmpEq t d a b m) := by
  have := tcode t
  exact one rfl (by simp only [pack]; omega)

theorem vcmpLt (t : LaneT) (d : MReg) (a : VReg) (b : VReg) (m : MReg) : Statement (.vcmpLt t d a b m) := by
  have := tcode t
  exact one rfl (by simp only [pack]; omega)

theorem vcmpLe (t : LaneT) (d : MReg) (a : VReg) (b : VReg) (m : MReg) : Statement (.vcmpLe t d a b m) := by
  have := tcode t
  exact one rfl (by simp only [pack]; omega)

theorem vcmpLtu (t : LaneT) (d : MReg) (a : VReg) (b : VReg) (m : MReg) : Statement (.vcmpLtu t d a b m) := by
  have := tcode t
  exact one rfl (by simp only [pack]; omega)

theorem vcmpLeu (t : LaneT) (d : MReg) (a : VReg) (b : VReg) (m : MReg) : Statement (.vcmpLeu t d a b m) := by
  have := tcode t
  exact one rfl (by simp only [pack]; omega)

theorem vsel (t : LaneT) (d : VReg) (a : VReg) (b : VReg) (m : MReg) : Statement (.vsel t d a b m) := by
  have := tcode t
  exact one rfl (by simp only [pack]; omega)

theorem mand (d : MReg) (a : MReg) (b : MReg) : Statement (.mand d a b) := one rfl (by simp only [pack]; omega)

theorem mor (d : MReg) (a : MReg) (b : MReg) : Statement (.mor d a b) := one rfl (by simp only [pack]; omega)

theorem mnot (d : MReg) (a : MReg) : Statement (.mnot d a) := one rfl (by simp only [pack]; omega)

theorem mpopc (d : SReg) (a : MReg) : Statement (.mpopc d a) := one rfl (by simp only [pack]; omega)

theorem vbcast (t : LaneT) (d : VReg) (a : SReg) (m : MReg) : Statement (.vbcast t d a m) := by
  have := tcode t
  exact one rfl (by simp only [pack]; omega)

theorem vmovs (t : LaneT) (d : SReg) (a : VReg) (b : SReg) : Statement (.vmovs t d a b) := by
  have := tcode t
  exact one rfl (by simp only [pack]; omega)

theorem vins (t : LaneT) (d : VReg) (a : SReg) (b : SReg) : Statement (.vins t d a b) := by
  have := tcode t
  exact one rfl (by simp only [pack]; omega)

theorem vperm (t : LaneT) (d : VReg) (a : VReg) (b : VReg) (m : MReg) : Statement (.vperm t d a b m) := by
  have := tcode t
  exact one rfl (by simp only [pack]; omega)

theorem vslide (t : LaneT) (d : VReg) (a : VReg) (b : SReg) (m : MReg) : Statement (.vslide t d a b m) := by
  have := tcode t
  exact one rfl (by simp only [pack]; omega)

theorem viota (t : LaneT) (d : VReg) (m : MReg) : Statement (.viota t d m) := by
  have := tcode t
  exact one rfl (by simp only [pack]; omega)

theorem vredadd (t : LaneT) (d : SReg) (a : VReg) (m : MReg) : Statement (.vredadd t d a m) := by
  have := tcode t
  exact one rfl (by simp only [pack]; omega)

theorem vredmax (t : LaneT) (d : SReg) (a : VReg) (m : MReg) : Statement (.vredmax t d a m) := by
  have := tcode t
  exact one rfl (by simp only [pack]; omega)

theorem vredmin (t : LaneT) (d : SReg) (a : VReg) (m : MReg) : Statement (.vredmin t d a m) := by
  have := tcode t
  exact one rfl (by simp only [pack]; omega)

theorem vredmaxi (t : LaneT) (d : SReg) (a : VReg) (m : MReg) : Statement (.vredmaxi t d a m) := by
  have := tcode t
  exact one rfl (by simp only [pack]; omega)

theorem vredmini (t : LaneT) (d : SReg) (a : VReg) (m : MReg) : Statement (.vredmini t d a m) := by
  have := tcode t
  exact one rfl (by simp only [pack]; omega)

theorem vcvt (t : LaneT) (src : LaneT) (d : VReg) (a : VReg) (m : MReg) : Statement (.vcvt t src d a m) := by
  have := tcode t; have := tcode src
  exact one rfl (by simp only [pack]; omega)

theorem vpack (t : LaneT) (src : LaneT) (d : VReg) (a : VReg) (m : MReg) : Statement (.vpack t src d a m) := by
  have := tcode t; have := tcode src
  exact one rfl (by simp only [pack]; omega)

theorem vunpack (t : LaneT) (src : LaneT) (d : VReg) (a : VReg) (m : MReg) : Statement (.vunpack t src d a m) := by
  have := tcode t; have := tcode src
  exact one rfl (by simp only [pack]; omega)

theorem vgather (t : LaneT) (d : VReg) (a : AReg) (b : VReg) (m : MReg) : Statement (.vgather t d a b m) := by
  have := tcode t
  exact one rfl (by simp only [pack]; omega)

theorem vscatter (t : LaneT) (d : VReg) (a : AReg) (b : VReg) (m : MReg) : Statement (.vscatter t d a b m) := by
  have := tcode t
  exact one rfl (by simp only [pack]; omega)

theorem mma (acc : BitVec 4) (ba : BitVec 4) (bb : BitVec 4) (sk : SReg) (so : SReg) : Statement (.mma acc ba bb sk so) := one rfl (by simp only [pack]; omega)

theorem mzero (acc : BitVec 4) : Statement (.mzero acc) := one rfl (by simp only [pack]; omega)

theorem mdrain (d : SReg) (acc : BitVec 4) (bank : BitVec 4) (so : SReg) : Statement (.mdrain d acc bank so) := one rfl (by simp only [pack]; omega)

theorem mload (acc : BitVec 4) (bank : BitVec 4) (so : SReg) : Statement (.mload acc bank so) := one rfl (by simp only [pack]; omega)

theorem semsig (n : BitVec 3) : Statement (.semsig n) := one rfl (by simp only [pack]; omega)

theorem semwait (n : BitVec 3) : Statement (.semwait n) := one rfl (by simp only [pack]; omega)

theorem mcfg (a : SReg) : Statement (.mcfg a) := one rfl (by simp only [pack]; omega)

theorem bfmt (bank : BitVec 4) (a : SReg) : Statement (.bfmt bank a) := one rfl (by simp only [pack]; omega)

theorem bpull (sv : SReg) (asrc : AReg) (adst : AReg) (asig : AReg) (acpl : AReg) : Statement (.bpull sv asrc adst asig acpl) := one rfl (by simp only [pack]; omega)

theorem bpulla (sv : SReg) (sx : SReg) (asrc : AReg) (asig : AReg) (acpl : AReg) : Statement (.bpulla sv sx asrc asig acpl) := one rfl (by simp only [pack]; omega)

theorem bcopy (sv : SReg) (asrc : AReg) (adst : AReg) (asig : AReg) (acpl : AReg) : Statement (.bcopy sv asrc adst asig acpl) := one rfl (by simp only [pack]; omega)

theorem ecmd (a : AReg) : Statement (.ecmd a) := one rfl (by simp only [pack]; omega)

theorem mdec (sp : SReg) (sl : SReg) (asrc : AReg) (adst : AReg) (asig : AReg) (acpl : AReg) : Statement (.mdec sp sl asrc adst asig acpl) := one rfl (by simp only [pack]; omega)

theorem lodge (sn : SReg) (sx : SReg) (asrc : AReg) (adst : AReg) (asig : AReg) (acpl : AReg) : Statement (.lodge sn sx asrc adst asig acpl) := one rfl (by simp only [pack]; omega)

theorem msend (d : SReg) (b : VReg) : Statement (.msend d b) := one rfl (by simp only [pack]; omega)

theorem msendPost (d : SReg) (b : VReg) : Statement (.msendPost d b) := one rfl (by simp only [pack]; omega)

theorem msendRetry (d : SReg) : Statement (.msendRetry d) := one rfl (by simp only [pack]; omega)

theorem mrecv (d : VReg) : Statement (.mrecv d) := one rfl (by simp only [pack]; omega)

theorem mrecvRep (d : VReg) : Statement (.mrecvRep d) := one rfl (by simp only [pack]; omega)

theorem mpeek (d : VReg) : Statement (.mpeek d) := one rfl (by simp only [pack]; omega)

theorem mpeekRep (d : VReg) : Statement (.mpeekRep d) := one rfl (by simp only [pack]; omega)

theorem mreply (b : VReg) : Statement (.mreply b) := one rfl (by simp only [pack]; omega)

theorem mbind (d : SReg) (a : SReg) : Statement (.mbind d a) := one rfl (by simp only [pack]; omega)

theorem coll (a : AReg) : Statement (.coll a) := one rfl (by simp only [pack]; omega)

theorem skinit (a : AReg) (sg : SReg) (ss : SReg) : Statement (.skinit a sg ss) := one rfl (by simp only [pack]; omega)

theorem skinitTab (a : AReg) (b : AReg) (sg : SReg) : Statement (.skinitTab a b sg) := one rfl (by simp only [pack]; omega)

theorem skupd (f64 : Bool) (a : AReg) (sk : SReg) (sv : SReg) : Statement (.skupd f64 a sk sv) := by
  have := bnat f64
  exact one rfl (by simp only [pack]; omega)

theorem skupdV (f64 : Bool) (a : AReg) (vk : VReg) (vv : VReg) : Statement (.skupdV f64 a vk vv) := by
  have := bnat f64
  exact one rfl (by simp only [pack]; omega)

theorem skqry (d : SReg) (a : AReg) (sk : SReg) : Statement (.skqry d a sk) := one rfl (by simp only [pack]; omega)

theorem skadd (a : AReg) (b : AReg) : Statement (.skadd a b) := one rfl (by simp only [pack]; omega)

theorem skscl (a : AReg) (sf : SReg) : Statement (.skscl a sf) := one rfl (by simp only [pack]; omega)

theorem skclr (a : AReg) : Statement (.skclr a) := one rfl (by simp only [pack]; omega)

theorem sksat (d : SReg) (a : AReg) : Statement (.sksat d a) := one rfl (by simp only [pack]; omega)

theorem sksatClr (d : SReg) (a : AReg) : Statement (.sksatClr d a) := one rfl (by simp only [pack]; omega)

theorem xadd (d : WReg) (a : WReg) (b : WReg) : Statement (.xadd d a b) := one rfl (by simp only [pack]; omega)

theorem xsub (d : WReg) (a : WReg) (b : WReg) : Statement (.xsub d a b) := one rfl (by simp only [pack]; omega)

theorem xmul (d : WReg) (a : WReg) (b : WReg) : Statement (.xmul d a b) := one rfl (by simp only [pack]; omega)

theorem xfma (d : WReg) (a : WReg) (b : WReg) : Statement (.xfma d a b) := one rfl (by simp only [pack]; omega)

theorem xdiv (d : WReg) (a : WReg) (b : WReg) : Statement (.xdiv d a b) := one rfl (by simp only [pack]; omega)

theorem xsqrt (d : WReg) (a : WReg) : Statement (.xsqrt d a) := one rfl (by simp only [pack]; omega)

theorem xrnd (d : WReg) (a : WReg) : Statement (.xrnd d a) := one rfl (by simp only [pack]; omega)

theorem xneg (d : WReg) (a : WReg) : Statement (.xneg d a) := one rfl (by simp only [pack]; omega)

theorem xabs (d : WReg) (a : WReg) : Statement (.xabs d a) := one rfl (by simp only [pack]; omega)

theorem xmov (d : WReg) (a : WReg) : Statement (.xmov d a) := one rfl (by simp only [pack]; omega)

theorem xscale (d : WReg) (a : WReg) (b : SReg) : Statement (.xscale d a b) := one rfl (by simp only [pack]; omega)

theorem xexp (d : WReg) (a : WReg) : Statement (.xexp d a) := one rfl (by simp only [pack]; omega)

theorem xcmp (d : SReg) (a : WReg) (b : WReg) : Statement (.xcmp d a b) := one rfl (by simp only [pack]; omega)

theorem xlen (d : SReg) (a : WReg) : Statement (.xlen d a) := one rfl (by simp only [pack]; omega)

theorem xcvtWindowFromInt64 (d : WReg) (a : SReg) : Statement (.xcvtWindowFromInt64 d a) := one rfl (by simp only [pack]; omega)

theorem xcvtWindowFromFp64 (d : WReg) (a : SReg) : Statement (.xcvtWindowFromFp64 d a) := one rfl (by simp only [pack]; omega)

theorem xcvtWindowFromUint64 (d : WReg) (a : SReg) : Statement (.xcvtWindowFromUint64 d a) := one rfl (by simp only [pack]; omega)

theorem xcvtScalarToInt64 (d : SReg) (a : WReg) : Statement (.xcvtScalarToInt64 d a) := one rfl (by simp only [pack]; omega)

theorem xcvtScalarToFp64 (d : SReg) (a : WReg) : Statement (.xcvtScalarToFp64 d a) := one rfl (by simp only [pack]; omega)

theorem xcvtScalarToUint64 (d : SReg) (a : WReg) : Statement (.xcvtScalarToUint64 d a) := one rfl (by simp only [pack]; omega)

theorem xld (o : MOrder) (d : WReg) (a : AReg) (off : BitVec 12) : Statement (.xld o d a off) := by
  have := mcode o
  exact one rfl (by simp only [pack]; omega)

theorem xst (o : MOrder) (d : WReg) (a : AReg) (off : BitVec 12) : Statement (.xst o d a off) := by
  have := mcode o
  exact one rfl (by simp only [pack]; omega)

theorem xalloc (d : WReg) (base : BitVec 8) (n : BitVec 5) : Statement (.xalloc d base n) := one rfl (by simp only [pack]; omega)

theorem xfree (d : WReg) : Statement (.xfree d) := one rfl (by simp only [pack]; omega)

theorem xsetp (a : SReg) : Statement (.xsetp a) := one rfl (by simp only [pack]; omega)

theorem xgetp (d : SReg) : Statement (.xgetp d) := one rfl (by simp only [pack]; omega)

theorem tspawn (d : SReg) (a : AReg) (b : VReg) : Statement (.tspawn d a b) := one rfl (by simp only [pack]; omega)

theorem tjoin (d : SReg) (a : AReg) : Statement (.tjoin d a) := one rfl (by simp only [pack]; omega)

theorem texit (b : Option VReg) : Statement (.texit b) := by
  cases b with
  | none => exact ⟨by decide, by decide⟩
  | some b => exact one rfl (by simp only [pack]; omega)

theorem tpath (d : SReg) (a : SReg) : Statement (.tpath d a) := one rfl (by simp only [pack]; omega)

theorem cores (d : SReg) (a : SReg) : Statement (.cores d a) := one rfl (by simp only [pack]; omega)

theorem tcancel (d : SReg) (a : SReg) (b : SReg) : Statement (.tcancel d a b) := one rfl (by simp only [pack]; omega)

theorem grun (d : SReg) (a : AReg) (b : SReg) : Statement (.grun d a b) := one rfl (by simp only [pack]; omega)

theorem gcond (a : AReg) (b : SReg) : Statement (.gcond a b) := one rfl (by simp only [pack]; omega)

theorem gstat (d : SReg) (a : SReg) : Statement (.gstat d a) := one rfl (by simp only [pack]; omega)

theorem nop : Statement .nop := ⟨by decide, by decide⟩

theorem idle : Statement .idle := ⟨by decide, by decide⟩

theorem bkpt : Statement .bkpt := ⟨by decide, by decide⟩

theorem eret : Statement .eret := ⟨by decide, by decide⟩

theorem halt : Statement .halt := ⟨by decide, by decide⟩

theorem ret : Statement .ret := ⟨by decide, by decide⟩

theorem tyield : Statement .tyield := ⟨by decide, by decide⟩

theorem ujidxDiscard : Statement .ujidxDiscard := ⟨by decide, by decide⟩

theorem realignLimitExpiry : Statement .realignLimitExpiry := ⟨by decide, by decide⟩

theorem idleTimeout : Statement .idleTimeout := ⟨by decide, by decide⟩

theorem matrixCompletion : Statement .matrixCompletion := ⟨by decide, by decide⟩

theorem taskDispatch : Statement .taskDispatch := ⟨by decide, by decide⟩

theorem preemption : Statement .preemption := ⟨by decide, by decide⟩

theorem supervisorRestoreEntry : Statement .supervisorRestoreEntry := ⟨by decide, by decide⟩

theorem quantumExpiry : Statement .quantumExpiry := ⟨by decide, by decide⟩

theorem cancelGraceExpiry : Statement .cancelGraceExpiry := ⟨by decide, by decide⟩

theorem watchdogExpiry : Statement .watchdogExpiry := ⟨by decide, by decide⟩

theorem asyncTrapEntry : Statement .asyncTrapEntry := ⟨by decide, by decide⟩

theorem queueLaunchEntry : Statement .queueLaunchEntry := ⟨by decide, by decide⟩

theorem queueGraphEntry : Statement .queueGraphEntry := ⟨by decide, by decide⟩

theorem queuePhaseBoundary : Statement .queuePhaseBoundary := ⟨by decide, by decide⟩

theorem graphLaunchNode : Statement .graphLaunchNode := ⟨by decide, by decide⟩

theorem graphEngineJobNode : Statement .graphEngineJobNode := ⟨by decide, by decide⟩

theorem graphConditionalNode : Statement .graphConditionalNode := ⟨by decide, by decide⟩

theorem graphWhileNode : Statement .graphWhileNode := ⟨by decide, by decide⟩

theorem graphSignalNode : Statement .graphSignalNode := ⟨by decide, by decide⟩

theorem lineRead : Statement .lineRead := ⟨by decide, by decide⟩

theorem lineReply : Statement .lineReply := ⟨by decide, by decide⟩

theorem loadCompletion : Statement .loadCompletion := ⟨by decide, by decide⟩

theorem keyholeRead : Statement .keyholeRead := ⟨by decide, by decide⟩

theorem watchRequest : Statement .watchRequest := ⟨by decide, by decide⟩

theorem watchAnswer : Statement .watchAnswer := ⟨by decide, by decide⟩

theorem storePerformed : Statement .storePerformed := ⟨by decide, by decide⟩

theorem atomicPerformed : Statement .atomicPerformed := ⟨by decide, by decide⟩

theorem l1WriteThrough : Statement .l1WriteThrough := ⟨by decide, by decide⟩

theorem stashEviction : Statement .stashEviction := ⟨by decide, by decide⟩

theorem messageRequest : Statement .messageRequest := ⟨by decide, by decide⟩

theorem messageReply : Statement .messageReply := ⟨by decide, by decide⟩

theorem postedAcceptance : Statement .postedAcceptance := ⟨by decide, by decide⟩

theorem postedRefusal : Statement .postedRefusal := ⟨by decide, by decide⟩

theorem sendQueueAcceptance : Statement .sendQueueAcceptance := ⟨by decide, by decide⟩

theorem engineJobStart : Statement .engineJobStart := ⟨by decide, by decide⟩

theorem enginePayloadPart : Statement .enginePayloadPart := ⟨by decide, by decide⟩

theorem engineJobCompletion : Statement .engineJobCompletion := ⟨by decide, by decide⟩

theorem collectiveStep : Statement .collectiveStep := ⟨by decide, by decide⟩

theorem collectiveCompletion : Statement .collectiveCompletion := ⟨by decide, by decide⟩

theorem mediaFrame : Statement .mediaFrame := ⟨by decide, by decide⟩

theorem lodgingCopyCompletion : Statement .lodgingCopyCompletion := ⟨by decide, by decide⟩

theorem powerUp : Statement .powerUp := ⟨by decide, by decide⟩

theorem mreset : Statement .mreset := ⟨by decide, by decide⟩

theorem cxlHotReset : Statement .cxlHotReset := ⟨by decide, by decide⟩

theorem cxlLinkDown : Statement .cxlLinkDown := ⟨by decide, by decide⟩

theorem fwgo : Statement .fwgo := ⟨by decide, by decide⟩

theorem firmwareVerificationDone : Statement .firmwareVerificationDone := ⟨by decide, by decide⟩

theorem bar2HostRead : Statement .bar2HostRead := ⟨by decide, by decide⟩

theorem bar2HostWrite : Statement .bar2HostWrite := ⟨by decide, by decide⟩

theorem keyhand : Statement .keyhand := ⟨by decide, by decide⟩

theorem jobctlEnable : Statement .jobctlEnable := ⟨by decide, by decide⟩

theorem jobctlEnd : Statement .jobctlEnd := ⟨by decide, by decide⟩

theorem jobctlCancel : Statement .jobctlCancel := ⟨by decide, by decide⟩

theorem glcmdLoad : Statement .glcmdLoad := ⟨by decide, by decide⟩

theorem glcmdUnload : Statement .glcmdUnload := ⟨by decide, by decide⟩

theorem graphLoaderCompletion : Statement .graphLoaderCompletion := ⟨by decide, by decide⟩

theorem qtailWrite : Statement .qtailWrite := ⟨by decide, by decide⟩

theorem qctlCancel : Statement .qctlCancel := ⟨by decide, by decide⟩

theorem qctlClearError : Statement .qctlClearError := ⟨by decide, by decide⟩

theorem queueSwitchOut : Statement .queueSwitchOut := ⟨by decide, by decide⟩

theorem queueSwitchOutDone : Statement .queueSwitchOutDone := ⟨by decide, by decide⟩

theorem queueSwitchIn : Statement .queueSwitchIn := ⟨by decide, by decide⟩

theorem queueSwitchInDone : Statement .queueSwitchInDone := ⟨by decide, by decide⟩

theorem powerStateEntry : Statement .powerStateEntry := ⟨by decide, by decide⟩

theorem powerWake : Statement .powerWake := ⟨by decide, by decide⟩

theorem powerWindow : Statement .powerWindow := ⟨by decide, by decide⟩

theorem thermalLimit : Statement .thermalLimit := ⟨by decide, by decide⟩

theorem tokenBucketRefill : Statement .tokenBucketRefill := ⟨by decide, by decide⟩

theorem htlbcmd : Statement .htlbcmd := ⟨by decide, by decide⟩

theorem tlbInvalidationDone : Statement .tlbInvalidationDone := ⟨by decide, by decide⟩

theorem sropCommit : Statement .sropCommit := ⟨by decide, by decide⟩

theorem sropCommitDone : Statement .sropCommitDone := ⟨by decide, by decide⟩

theorem skopWrite : Statement .skopWrite := ⟨by decide, by decide⟩

theorem skopRead : Statement .skopRead := ⟨by decide, by decide⟩

theorem skopFree : Statement .skopFree := ⟨by decide, by decide⟩

theorem sctxSave : Statement .sctxSave := ⟨by decide, by decide⟩

theorem sctxRestore : Statement .sctxRestore := ⟨by decide, by decide⟩

theorem sprotWrite : Statement .sprotWrite := ⟨by decide, by decide⟩

theorem nlctlTrain : Statement .nlctlTrain := ⟨by decide, by decide⟩

theorem nlctlDown : Statement .nlctlDown := ⟨by decide, by decide⟩

theorem nlctlClearFailed : Statement .nlctlClearFailed := ⟨by decide, by decide⟩

theorem narlorPortUp : Statement .narlorPortUp := ⟨by decide, by decide⟩

theorem dataFlit : Statement .dataFlit := ⟨by decide, by decide⟩

theorem idleFlit : Statement .idleFlit := ⟨by decide, by decide⟩

theorem retryRequest : Statement .retryRequest := ⟨by decide, by decide⟩

theorem narlorPortFailure : Statement .narlorPortFailure := ⟨by decide, by decide⟩

theorem neqpopCreate : Statement .neqpopCreate := ⟨by decide, by decide⟩

theorem neqpopForceError : Statement .neqpopForceError := ⟨by decide, by decide⟩

theorem neqpopDestroy : Statement .neqpopDestroy := ⟨by decide, by decide⟩

theorem nergopRegister : Statement .nergopRegister := ⟨by decide, by decide⟩

theorem nergopDeregister : Statement .nergopDeregister := ⟨by decide, by decide⟩

theorem deregistrationDone : Statement .deregistrationDone := ⟨by decide, by decide⟩

theorem workDeposit : Statement .workDeposit := ⟨by decide, by decide⟩

theorem workRead : Statement .workRead := ⟨by decide, by decide⟩

theorem depositData : Statement .depositData := ⟨by decide, by decide⟩

theorem depositLast : Statement .depositLast := ⟨by decide, by decide⟩

theorem readRequest : Statement .readRequest := ⟨by decide, by decide⟩

theorem readData : Statement .readData := ⟨by decide, by decide⟩

theorem ack : Statement .ack := ⟨by decide, by decide⟩

theorem nak : Statement .nak := ⟨by decide, by decide⟩

theorem retransmitTimeout : Statement .retransmitTimeout := ⟨by decide, by decide⟩

theorem depositAbandonTimeout : Statement .depositAbandonTimeout := ⟨by decide, by decide⟩

theorem lockInterfaceRequest : Statement .lockInterfaceRequest := ⟨by decide, by decide⟩

theorem startInterfaceRequest : Statement .startInterfaceRequest := ⟨by decide, by decide⟩

theorem stopInterfaceRequest : Statement .stopInterfaceRequest := ⟨by decide, by decide⟩

theorem getDeviceInterfaceReport : Statement .getDeviceInterfaceReport := ⟨by decide, by decide⟩

theorem ideStreamFailure : Statement .ideStreamFailure := ⟨by decide, by decide⟩

theorem ideKm : Statement .ideKm := ⟨by decide, by decide⟩

theorem getVersion : Statement .getVersion := ⟨by decide, by decide⟩

theorem getCapabilities : Statement .getCapabilities := ⟨by decide, by decide⟩

theorem negotiateAlgorithms : Statement .negotiateAlgorithms := ⟨by decide, by decide⟩

theorem getDigests : Statement .getDigests := ⟨by decide, by decide⟩

theorem getCertificate : Statement .getCertificate := ⟨by decide, by decide⟩

theorem challenge : Statement .challenge := ⟨by decide, by decide⟩

theorem getMeasurements : Statement .getMeasurements := ⟨by decide, by decide⟩

theorem keyExchange : Statement .keyExchange := ⟨by decide, by decide⟩

theorem finish : Statement .finish := ⟨by decide, by decide⟩

theorem endSession : Statement .endSession := ⟨by decide, by decide⟩

theorem preset : Statement .preset := ⟨by decide, by decide⟩

theorem mfence : Statement .mfence := ⟨by decide, by decide⟩

theorem fencemWrite : Statement .fencemWrite := ⟨by decide, by decide⟩

theorem remapWindow : Statement .remapWindow := ⟨by decide, by decide⟩

theorem patrolScrub : Statement .patrolScrub := ⟨by decide, by decide⟩

theorem uncorrectableError : Statement .uncorrectableError := ⟨by decide, by decide⟩

theorem tsnap : Statement .tsnap := ⟨by decide, by decide⟩

theorem registerWrite : Statement .registerWrite := ⟨by decide, by decide⟩

theorem illegalInstruction : Statement .illegalInstruction := ⟨by decide, by decide⟩

theorem fetchTranslation : Statement .fetchTranslation := ⟨by decide, by decide⟩

theorem firmwareFailure : Statement .firmwareFailure := ⟨by decide, by decide⟩

theorem keyholePortUp : Statement .keyholePortUp := ⟨by decide, by decide⟩

theorem keyholePortDown : Statement .keyholePortDown := ⟨by decide, by decide⟩

end Encoding

end Sys2Proof.Laws
end

