-- ==== Sys2Proof/Laws/Table.lean ====
section
/-!
SUPPORT. Laws of the sparse tables and of memory's canonical form: reading after writing, and that every operation on memory
keeps the form.
-/
namespace Sys2Proof.Machine

variable {α : Type}

/-! ### Reading after writing -/

theorem Assoc.find?_put_self (t : Assoc α) (n : Nat) (x : α) : (Assoc.put t n x).find? n = some x := by
  induction t with
  | nil => simp [Assoc.put, Assoc.find?]
  | cons p r ih =>
    obtain ⟨k, y⟩ := p
    simp only [Assoc.put]
    split_ifs with h1 h2
    · simp_all [Assoc.find?]
    · simp [Assoc.find?]
    · simp_all [Assoc.find?]

theorem Assoc.find?_put_other (t : Assoc α) (n m : Nat) (x : α) (h : m ≠ n) : (Assoc.put t n x).find? m = t.find? m := by
  induction t with
  | nil =>
    simp only [Assoc.put, Assoc.find?]
    split_ifs with h1 <;> simp_all
  | cons p r ih =>
    obtain ⟨k, y⟩ := p
    simp only [Assoc.put, beq_iff_eq]
    split_ifs with h1 h2
    · subst h1
      simp only [Assoc.find?, beq_iff_eq]
      split_ifs <;> simp_all
    · simp only [Assoc.find?, beq_iff_eq]
      split_ifs <;> first | rfl | omega
    · simp only [Assoc.find?, beq_iff_eq, ih]

@[simp] theorem Assoc.get_put_self (t : Assoc α) (d : α) (n : Nat) (x : α) : Assoc.get (Assoc.put t n x) d n = x := by
  simp [Assoc.get, Assoc.find?_put_self]

@[simp] theorem Assoc.get_put_other (t : Assoc α) (d : α) (n m : Nat) (x : α) (h : m ≠ n) :
    Assoc.get (Assoc.put t n x) d m = Assoc.get t d m := by
  simp [Assoc.get, Assoc.find?_put_other t n m x h]

/-! ### Keys in order -/

/-- Every key of a table is above a bound. -/
def Assoc.above (n : Nat) (t : Assoc α) : Prop := ∀ p ∈ t, n < p.1

theorem Assoc.rising_cons (k : Nat) (x : α) (t : Assoc α) : Assoc.rising ((k, x) :: t) = true ↔ Assoc.above k t ∧ Assoc.rising t = true := by
  induction t generalizing k x with
  | nil => simp [Assoc.rising, Assoc.above]
  | cons p r ih =>
    obtain ⟨l, y⟩ := p
    have e : Assoc.rising ((k, x) :: (l, y) :: r) = (decide (k < l) && Assoc.rising ((l, y) :: r)) := rfl
    rw [e, Bool.and_eq_true, decide_eq_true_eq]
    constructor
    · rintro ⟨hkl, hr⟩
      refine ⟨?_, hr⟩
      intro q hq
      rcases List.mem_cons.mp hq with rfl | hq
      · exact hkl
      · have hl := ((ih l y).mp hr).1 q hq
        omega
    · rintro ⟨ha, hr⟩
      exact ⟨ha (l, y) (by simp), hr⟩

theorem Assoc.find?_above (t : Assoc α) (n : Nat) (h : Assoc.above n t) : t.find? n = none := by
  cases t with
  | nil => rfl
  | cons p r =>
    obtain ⟨k, y⟩ := p
    have := h (k, y) (by simp)
    simp only [Assoc.find?, beq_iff_eq]
    split_ifs <;> simp_all

theorem Assoc.find?_drop_self (t : Assoc α) (n : Nat) (h : Assoc.rising t = true) : (Assoc.drop t n).find? n = none := by
  induction t with
  | nil => rfl
  | cons p r ih =>
    obtain ⟨k, y⟩ := p
    obtain ⟨ha, hr⟩ := (Assoc.rising_cons k y r).mp h
    simp only [Assoc.drop, beq_iff_eq]
    split_ifs with h1 h2
    · subst h1; exact Assoc.find?_above r k ha
    · simp only [Assoc.find?, beq_iff_eq]; split_ifs; simp_all
    · simp only [Assoc.find?, beq_iff_eq]; split_ifs; exact ih hr

theorem Assoc.find?_drop_other (t : Assoc α) (n m : Nat) (h : m ≠ n) (hr : Assoc.rising t = true) :
    (Assoc.drop t n).find? m = t.find? m := by
  induction t with
  | nil => rfl
  | cons p r ih =>
    obtain ⟨k, y⟩ := p
    obtain ⟨ha, hs⟩ := (Assoc.rising_cons k y r).mp hr
    simp only [Assoc.drop, beq_iff_eq]
    split_ifs with h1 h2
    · subst h1
      simp only [Assoc.find?, beq_iff_eq]
      split_ifs with h3 h4
      · exact absurd h3.symm h
      · exact Assoc.find?_above r m (fun q hq => lt_trans h4 (ha q hq))
      · rfl
    · rfl
    · simp only [Assoc.find?, beq_iff_eq, ih hs]

theorem Assoc.above_put {n k : Nat} {x : α} {t : Assoc α} (ha : Assoc.above n t) (hk : n < k) : Assoc.above n (Assoc.put t k x) := by
  induction t with
  | nil => intro q hq; simp_all [Assoc.put]
  | cons p r ih =>
    obtain ⟨l, y⟩ := p
    have hl := ha (l, y) (by simp)
    have hr : Assoc.above n r := fun q hq => ha q (by simp [hq])
    simp only [Assoc.put]
    split_ifs <;> intro q hq <;> simp only [List.mem_cons] at hq
    · rcases hq with rfl | hq
      · exact hl
      · exact hr q hq
    · rcases hq with rfl | rfl | hq
      · exact hk
      · exact hl
      · exact hr q hq
    · rcases hq with rfl | hq
      · exact hl
      · exact ih hr q hq

theorem Assoc.rising_put {t : Assoc α} (k : Nat) (x : α) (h : Assoc.rising t = true) : Assoc.rising (Assoc.put t k x) = true := by
  induction t with
  | nil => rfl
  | cons p r ih =>
    obtain ⟨l, y⟩ := p
    obtain ⟨ha, hr⟩ := (Assoc.rising_cons l y r).mp h
    simp only [Assoc.put, beq_iff_eq]
    split_ifs with h1 h2
    · subst h1; exact (Assoc.rising_cons _ _ _).mpr ⟨ha, hr⟩
    · refine (Assoc.rising_cons _ _ _).mpr ⟨?_, h⟩
      intro q hq
      rcases List.mem_cons.mp hq with rfl | hq
      · exact h2
      · exact lt_trans h2 (ha q hq)
    · exact (Assoc.rising_cons _ _ _).mpr ⟨Assoc.above_put ha (by omega), ih hr⟩

theorem Assoc.above_sublist {n : Nat} {t u : Assoc α} (h : ∀ p ∈ u, p ∈ t) (ha : Assoc.above n t) : Assoc.above n u :=
  fun q hq => ha q (h q hq)

theorem Assoc.mem_drop {t : Assoc α} {k : Nat} {p : Nat × α} (h : p ∈ Assoc.drop t k) : p ∈ t := by
  induction t with
  | nil => exact h
  | cons q r ih =>
    obtain ⟨l, y⟩ := q
    simp only [Assoc.drop] at h
    split_ifs at h
    · exact List.mem_cons_of_mem _ h
    · exact h
    · rcases List.mem_cons.mp h with rfl | h
      · simp
      · exact List.mem_cons_of_mem _ (ih h)

theorem Assoc.rising_drop {t : Assoc α} (k : Nat) (h : Assoc.rising t = true) : Assoc.rising (Assoc.drop t k) = true := by
  induction t with
  | nil => exact h
  | cons p r ih =>
    obtain ⟨l, y⟩ := p
    obtain ⟨ha, hr⟩ := (Assoc.rising_cons l y r).mp h
    simp only [Assoc.drop]
    split_ifs
    · exact hr
    · exact h
    · exact (Assoc.rising_cons _ _ _).mpr ⟨Assoc.above_sublist (fun _ hq => Assoc.mem_drop hq) ha, ih hr⟩

theorem Assoc.rising_filter {t : Assoc α} (p : Nat × α → Bool) (h : Assoc.rising t = true) : Assoc.rising (t.filter p) = true := by
  induction t with
  | nil => exact h
  | cons q r ih =>
    obtain ⟨l, y⟩ := q
    obtain ⟨ha, hr⟩ := (Assoc.rising_cons l y r).mp h
    simp only [List.filter_cons]
    split_ifs
    · exact (Assoc.rising_cons _ _ _).mpr ⟨Assoc.above_sublist (fun _ hq => (List.mem_filter.mp hq).1) ha, ih hr⟩
    · exact ih hr

theorem Assoc.mem_put {t : Assoc α} {k : Nat} {x : α} {p : Nat × α} (h : p ∈ Assoc.put t k x) : p = (k, x) ∨ p ∈ t := by
  induction t with
  | nil => simp_all [Assoc.put]
  | cons q r ih =>
    obtain ⟨l, y⟩ := q
    simp only [Assoc.put] at h
    split_ifs at h with h1
    · rcases List.mem_cons.mp h with h | h
      · left; simp_all
      · right; simp [h]
    · rcases List.mem_cons.mp h with h | h
      · left; exact h
      · right; exact h
    · rcases List.mem_cons.mp h with h | h
      · right; simp [h]
      · rcases ih h with h | h
        · left; exact h
        · right; simp [h]

/-! ### Memory -/

/-- The canonical form as a proposition: addresses rise, no listed byte is 0. -/
theorem Memory.wf_iff (m : List Host.Cell) : Memory.wf m = true ↔ Assoc.rising m = true ∧ ∀ c ∈ m, c.2 ≠ 0 := by
  simp [Memory.wf, List.all_eq_true]

theorem Memory.wf_nil : Memory.wf [] = true := rfl

/-- Memory right after reset is in canonical form. -/
theorem Memory.wf_reset : Memory.wf State.reset.mem = true := rfl

theorem Memory.wf_memPut {m : List Host.Cell} (a : Nat) (b : Byte) (h : Memory.wf m = true) : Memory.wf (memPut m a b) = true := by
  rw [Memory.wf_iff] at h ⊢
  simp only [memPut, Assoc.putC]
  split_ifs with hb
  · exact ⟨Assoc.rising_drop a h.1, fun c hc => h.2 c (Assoc.mem_drop hc)⟩
  · refine ⟨Assoc.rising_put a b h.1, fun c hc => ?_⟩
    rcases Assoc.mem_put hc with rfl | hc
    · exact hb
    · exact h.2 c hc

theorem Memory.wf_memPuts {m : List Host.Cell} (a : Nat) (bs : List Byte) (h : Memory.wf m = true) : Memory.wf (memPuts m a bs) = true := by
  induction bs generalizing m a with
  | nil => exact h
  | cons b r ih => exact ih (a + 1) (Memory.wf_memPut a b h)

theorem Memory.wf_filter {m : List Host.Cell} (p : Host.Cell → Bool) (h : Memory.wf m = true) : Memory.wf (m.filter p) = true := by
  rw [Memory.wf_iff] at h ⊢
  exact ⟨Assoc.rising_filter p h.1, fun c hc => h.2 c (List.mem_filter.mp hc).1⟩

/-- A byte reads as written (05 R118). -/
theorem Memory.get_memPut_self {m : List Host.Cell} (a : Nat) (b : Byte) (h : Memory.wf m = true) : Assoc.get (memPut m a b) 0 a = b := by
  have hr := ((Memory.wf_iff m).mp h).1
  simp only [memPut, Assoc.putC]
  split_ifs with hb
  · simp [Assoc.get, Assoc.find?_drop_self m a hr, hb]
  · simp

theorem Memory.get_memPut_other {m : List Host.Cell} (a c : Nat) (b : Byte) (hc : c ≠ a) (h : Memory.wf m = true) :
    Assoc.get (memPut m a b) 0 c = Assoc.get m 0 c := by
  have hr := ((Memory.wf_iff m).mp h).1
  simp only [memPut, Assoc.putC]
  split_ifs with hb
  · simp [Assoc.get, Assoc.find?_drop_other m a c hc hr]
  · simp [hc]

theorem Memory.get_memPuts_outside {m : List Host.Cell} (a c : Nat) (bs : List Byte) (hc : c < a ∨ a + bs.length ≤ c) (h : Memory.wf m = true) :
    Assoc.get (memPuts m a bs) 0 c = Assoc.get m 0 c := by
  induction bs generalizing m a with
  | nil => rfl
  | cons b r ih =>
    simp only [List.length_cons] at hc
    rw [memPuts, ih (a + 1) (by omega) (Memory.wf_memPut a b h)]
    exact Memory.get_memPut_other a c b (by omega) h

end Sys2Proof.Machine
end

