-- ==== Sys2Proof/Laws/State.lean ====
section
/-!
SUPPORT. The fields of the state after each named update: one lemma a field, so that no proof unfolds a record update.
-/
namespace Sys2Proof.Machine

variable (s : State)

/-! ### `State.setThread` changes `threads` alone -/

@[simp] theorem State.setThread_cores (k : Nat) (x : Thread) : (s.setThread k x).cores = s.cores := rfl
@[simp] theorem State.setThread_tiles (k : Nat) (x : Thread) : (s.setThread k x).tiles = s.tiles := rfl
@[simp] theorem State.setThread_clusters (k : Nat) (x : Thread) : (s.setThread k x).clusters = s.clusters := rfl
@[simp] theorem State.setThread_mem (k : Nat) (x : Thread) : (s.setThread k x).mem = s.mem := rfl
@[simp] theorem State.setThread_poison (k : Nat) (x : Thread) : (s.setThread k x).poison = s.poison := rfl
@[simp] theorem State.setThread_slots (k : Nat) (x : Thread) : (s.setThread k x).slots = s.slots := rfl
@[simp] theorem State.setThread_launches (k : Nat) (x : Thread) : (s.setThread k x).launches = s.launches := rfl
@[simp] theorem State.setThread_tasks (k : Nat) (x : Thread) : (s.setThread k x).tasks = s.tasks := rfl
@[simp] theorem State.setThread_graphs (k : Nat) (x : Thread) : (s.setThread k x).graphs = s.graphs := rfl
@[simp] theorem State.setThread_graphEnds (k : Nat) (x : Thread) : (s.setThread k x).graphEnds = s.graphEnds := rfl
@[simp] theorem State.setThread_queues (k : Nat) (x : Thread) : (s.setThread k x).queues = s.queues := rfl
@[simp] theorem State.setThread_images (k : Nat) (x : Thread) : (s.setThread k x).images = s.images := rfl
@[simp] theorem State.setThread_nextHandle (k : Nat) (x : Thread) : (s.setThread k x).nextHandle = s.nextHandle := rfl
@[simp] theorem State.setThread_nextTask (k : Nat) (x : Thread) : (s.setThread k x).nextTask = s.nextTask := rfl
@[simp] theorem State.setThread_watchReqs (k : Nat) (x : Thread) : (s.setThread k x).watchReqs = s.watchReqs := rfl
@[simp] theorem State.setThread_watchAnss (k : Nat) (x : Thread) : (s.setThread k x).watchAnss = s.watchAnss := rfl
@[simp] theorem State.setThread_requests (k : Nat) (x : Thread) : (s.setThread k x).requests = s.requests := rfl
@[simp] theorem State.setThread_replies (k : Nat) (x : Thread) : (s.setThread k x).replies = s.replies := rfl
@[simp] theorem State.setThread_accepts (k : Nat) (x : Thread) : (s.setThread k x).accepts = s.accepts := rfl
@[simp] theorem State.setThread_refusals (k : Nat) (x : Thread) : (s.setThread k x).refusals = s.refusals := rfl
@[simp] theorem State.setThread_ingress (k : Nat) (x : Thread) : (s.setThread k x).ingress = s.ingress := rfl
@[simp] theorem State.setThread_egress (k : Nat) (x : Thread) : (s.setThread k x).egress = s.egress := rfl
@[simp] theorem State.setThread_keyholeAsks (k : Nat) (x : Thread) : (s.setThread k x).keyholeAsks = s.keyholeAsks := rfl
@[simp] theorem State.setThread_keyholeOut (k : Nat) (x : Thread) : (s.setThread k x).keyholeOut = s.keyholeOut := rfl
@[simp] theorem State.setThread_keyholeIn (k : Nat) (x : Thread) : (s.setThread k x).keyholeIn = s.keyholeIn := rfl
@[simp] theorem State.setThread_keyholeSend (k : Nat) (x : Thread) : (s.setThread k x).keyholeSend = s.keyholeSend := rfl
@[simp] theorem State.setThread_ports (k : Nat) (x : Thread) : (s.setThread k x).ports = s.ports := rfl
@[simp] theorem State.setThread_keyPorts (k : Nat) (x : Thread) : (s.setThread k x).keyPorts = s.keyPorts := rfl
@[simp] theorem State.setThread_net (k : Nat) (x : Thread) : (s.setThread k x).net = s.net := rfl
@[simp] theorem State.setThread_regs (k : Nat) (x : Thread) : (s.setThread k x).regs = s.regs := rfl
@[simp] theorem State.setThread_fuse (k : Nat) (x : Thread) : (s.setThread k x).fuse = s.fuse := rfl
@[simp] theorem State.setThread_spdm (k : Nat) (x : Thread) : (s.setThread k x).spdm = s.spdm := rfl
@[simp] theorem State.setThread_attach (k : Nat) (x : Thread) : (s.setThread k x).attach = s.attach := rfl
@[simp] theorem State.setThread_stale (k : Nat) (x : Thread) : (s.setThread k x).stale = s.stale := rfl
@[simp] theorem State.setThread_ranges (k : Nat) (x : Thread) : (s.setThread k x).ranges = s.ranges := rfl
@[simp] theorem State.setThread_invalidations (k : Nat) (x : Thread) : (s.setThread k x).invalidations = s.invalidations := rfl
@[simp] theorem State.setThread_tlb (k : Nat) (x : Thread) : (s.setThread k x).tlb = s.tlb := rfl
@[simp] theorem State.setThread_msix (k : Nat) (x : Thread) : (s.setThread k x).msix = s.msix := rfl
@[simp] theorem State.setThread_counters (k : Nat) (x : Thread) : (s.setThread k x).counters = s.counters := rfl
@[simp] theorem State.setThread_snapshot (k : Nat) (x : Thread) : (s.setThread k x).snapshot = s.snapshot := rfl
@[simp] theorem State.setThread_snapAt (k : Nat) (x : Thread) : (s.setThread k x).snapAt = s.snapAt := rfl
@[simp] theorem State.setThread_served (k : Nat) (x : Thread) : (s.setThread k x).served = s.served := rfl
@[simp] theorem State.setThread_grace (k : Nat) (x : Thread) : (s.setThread k x).grace = s.grace := rfl
@[simp] theorem State.setThread_hostData (k : Nat) (x : Thread) : (s.setThread k x).hostData = s.hostData := rfl
@[simp] theorem State.setThread_hostPoison (k : Nat) (x : Thread) : (s.setThread k x).hostPoison = s.hostPoison := rfl
@[simp] theorem State.setThread_ev (k : Nat) (x : Thread) : (s.setThread k x).ev = s.ev := rfl
@[simp] theorem State.setThread_inputs (k : Nat) (x : Thread) : (s.setThread k x).inputs = s.inputs := rfl
@[simp] theorem State.setThread_cur (k : Nat) (x : Thread) : (s.setThread k x).cur = s.cur := rfl
@[simp] theorem State.setThread_serial (k : Nat) (x : Thread) : (s.setThread k x).serial = s.serial := rfl
@[simp] theorem State.setThread_stalled (k : Nat) (x : Thread) : (s.setThread k x).stalled = s.stalled := rfl

/-! ### `State.updThread` changes `threads` alone -/

@[simp] theorem State.updThread_cores (k : Nat) (f : Thread → Thread) : (s.updThread k f).cores = s.cores := rfl
@[simp] theorem State.updThread_tiles (k : Nat) (f : Thread → Thread) : (s.updThread k f).tiles = s.tiles := rfl
@[simp] theorem State.updThread_clusters (k : Nat) (f : Thread → Thread) : (s.updThread k f).clusters = s.clusters := rfl
@[simp] theorem State.updThread_mem (k : Nat) (f : Thread → Thread) : (s.updThread k f).mem = s.mem := rfl
@[simp] theorem State.updThread_poison (k : Nat) (f : Thread → Thread) : (s.updThread k f).poison = s.poison := rfl
@[simp] theorem State.updThread_slots (k : Nat) (f : Thread → Thread) : (s.updThread k f).slots = s.slots := rfl
@[simp] theorem State.updThread_launches (k : Nat) (f : Thread → Thread) : (s.updThread k f).launches = s.launches := rfl
@[simp] theorem State.updThread_tasks (k : Nat) (f : Thread → Thread) : (s.updThread k f).tasks = s.tasks := rfl
@[simp] theorem State.updThread_graphs (k : Nat) (f : Thread → Thread) : (s.updThread k f).graphs = s.graphs := rfl
@[simp] theorem State.updThread_graphEnds (k : Nat) (f : Thread → Thread) : (s.updThread k f).graphEnds = s.graphEnds := rfl
@[simp] theorem State.updThread_queues (k : Nat) (f : Thread → Thread) : (s.updThread k f).queues = s.queues := rfl
@[simp] theorem State.updThread_images (k : Nat) (f : Thread → Thread) : (s.updThread k f).images = s.images := rfl
@[simp] theorem State.updThread_nextHandle (k : Nat) (f : Thread → Thread) : (s.updThread k f).nextHandle = s.nextHandle := rfl
@[simp] theorem State.updThread_nextTask (k : Nat) (f : Thread → Thread) : (s.updThread k f).nextTask = s.nextTask := rfl
@[simp] theorem State.updThread_watchReqs (k : Nat) (f : Thread → Thread) : (s.updThread k f).watchReqs = s.watchReqs := rfl
@[simp] theorem State.updThread_watchAnss (k : Nat) (f : Thread → Thread) : (s.updThread k f).watchAnss = s.watchAnss := rfl
@[simp] theorem State.updThread_requests (k : Nat) (f : Thread → Thread) : (s.updThread k f).requests = s.requests := rfl
@[simp] theorem State.updThread_replies (k : Nat) (f : Thread → Thread) : (s.updThread k f).replies = s.replies := rfl
@[simp] theorem State.updThread_accepts (k : Nat) (f : Thread → Thread) : (s.updThread k f).accepts = s.accepts := rfl
@[simp] theorem State.updThread_refusals (k : Nat) (f : Thread → Thread) : (s.updThread k f).refusals = s.refusals := rfl
@[simp] theorem State.updThread_ingress (k : Nat) (f : Thread → Thread) : (s.updThread k f).ingress = s.ingress := rfl
@[simp] theorem State.updThread_egress (k : Nat) (f : Thread → Thread) : (s.updThread k f).egress = s.egress := rfl
@[simp] theorem State.updThread_keyholeAsks (k : Nat) (f : Thread → Thread) : (s.updThread k f).keyholeAsks = s.keyholeAsks := rfl
@[simp] theorem State.updThread_keyholeOut (k : Nat) (f : Thread → Thread) : (s.updThread k f).keyholeOut = s.keyholeOut := rfl
@[simp] theorem State.updThread_keyholeIn (k : Nat) (f : Thread → Thread) : (s.updThread k f).keyholeIn = s.keyholeIn := rfl
@[simp] theorem State.updThread_keyholeSend (k : Nat) (f : Thread → Thread) : (s.updThread k f).keyholeSend = s.keyholeSend := rfl
@[simp] theorem State.updThread_ports (k : Nat) (f : Thread → Thread) : (s.updThread k f).ports = s.ports := rfl
@[simp] theorem State.updThread_keyPorts (k : Nat) (f : Thread → Thread) : (s.updThread k f).keyPorts = s.keyPorts := rfl
@[simp] theorem State.updThread_net (k : Nat) (f : Thread → Thread) : (s.updThread k f).net = s.net := rfl
@[simp] theorem State.updThread_regs (k : Nat) (f : Thread → Thread) : (s.updThread k f).regs = s.regs := rfl
@[simp] theorem State.updThread_fuse (k : Nat) (f : Thread → Thread) : (s.updThread k f).fuse = s.fuse := rfl
@[simp] theorem State.updThread_spdm (k : Nat) (f : Thread → Thread) : (s.updThread k f).spdm = s.spdm := rfl
@[simp] theorem State.updThread_attach (k : Nat) (f : Thread → Thread) : (s.updThread k f).attach = s.attach := rfl
@[simp] theorem State.updThread_stale (k : Nat) (f : Thread → Thread) : (s.updThread k f).stale = s.stale := rfl
@[simp] theorem State.updThread_ranges (k : Nat) (f : Thread → Thread) : (s.updThread k f).ranges = s.ranges := rfl
@[simp] theorem State.updThread_invalidations (k : Nat) (f : Thread → Thread) : (s.updThread k f).invalidations = s.invalidations := rfl
@[simp] theorem State.updThread_tlb (k : Nat) (f : Thread → Thread) : (s.updThread k f).tlb = s.tlb := rfl
@[simp] theorem State.updThread_msix (k : Nat) (f : Thread → Thread) : (s.updThread k f).msix = s.msix := rfl
@[simp] theorem State.updThread_counters (k : Nat) (f : Thread → Thread) : (s.updThread k f).counters = s.counters := rfl
@[simp] theorem State.updThread_snapshot (k : Nat) (f : Thread → Thread) : (s.updThread k f).snapshot = s.snapshot := rfl
@[simp] theorem State.updThread_snapAt (k : Nat) (f : Thread → Thread) : (s.updThread k f).snapAt = s.snapAt := rfl
@[simp] theorem State.updThread_served (k : Nat) (f : Thread → Thread) : (s.updThread k f).served = s.served := rfl
@[simp] theorem State.updThread_grace (k : Nat) (f : Thread → Thread) : (s.updThread k f).grace = s.grace := rfl
@[simp] theorem State.updThread_hostData (k : Nat) (f : Thread → Thread) : (s.updThread k f).hostData = s.hostData := rfl
@[simp] theorem State.updThread_hostPoison (k : Nat) (f : Thread → Thread) : (s.updThread k f).hostPoison = s.hostPoison := rfl
@[simp] theorem State.updThread_ev (k : Nat) (f : Thread → Thread) : (s.updThread k f).ev = s.ev := rfl
@[simp] theorem State.updThread_inputs (k : Nat) (f : Thread → Thread) : (s.updThread k f).inputs = s.inputs := rfl
@[simp] theorem State.updThread_cur (k : Nat) (f : Thread → Thread) : (s.updThread k f).cur = s.cur := rfl
@[simp] theorem State.updThread_serial (k : Nat) (f : Thread → Thread) : (s.updThread k f).serial = s.serial := rfl
@[simp] theorem State.updThread_stalled (k : Nat) (f : Thread → Thread) : (s.updThread k f).stalled = s.stalled := rfl

/-! ### `State.upd` changes `threads` alone -/

@[simp] theorem State.upd_cores (f : Thread → Thread) : (s.upd f).cores = s.cores := rfl
@[simp] theorem State.upd_tiles (f : Thread → Thread) : (s.upd f).tiles = s.tiles := rfl
@[simp] theorem State.upd_clusters (f : Thread → Thread) : (s.upd f).clusters = s.clusters := rfl
@[simp] theorem State.upd_mem (f : Thread → Thread) : (s.upd f).mem = s.mem := rfl
@[simp] theorem State.upd_poison (f : Thread → Thread) : (s.upd f).poison = s.poison := rfl
@[simp] theorem State.upd_slots (f : Thread → Thread) : (s.upd f).slots = s.slots := rfl
@[simp] theorem State.upd_launches (f : Thread → Thread) : (s.upd f).launches = s.launches := rfl
@[simp] theorem State.upd_tasks (f : Thread → Thread) : (s.upd f).tasks = s.tasks := rfl
@[simp] theorem State.upd_graphs (f : Thread → Thread) : (s.upd f).graphs = s.graphs := rfl
@[simp] theorem State.upd_graphEnds (f : Thread → Thread) : (s.upd f).graphEnds = s.graphEnds := rfl
@[simp] theorem State.upd_queues (f : Thread → Thread) : (s.upd f).queues = s.queues := rfl
@[simp] theorem State.upd_images (f : Thread → Thread) : (s.upd f).images = s.images := rfl
@[simp] theorem State.upd_nextHandle (f : Thread → Thread) : (s.upd f).nextHandle = s.nextHandle := rfl
@[simp] theorem State.upd_nextTask (f : Thread → Thread) : (s.upd f).nextTask = s.nextTask := rfl
@[simp] theorem State.upd_watchReqs (f : Thread → Thread) : (s.upd f).watchReqs = s.watchReqs := rfl
@[simp] theorem State.upd_watchAnss (f : Thread → Thread) : (s.upd f).watchAnss = s.watchAnss := rfl
@[simp] theorem State.upd_requests (f : Thread → Thread) : (s.upd f).requests = s.requests := rfl
@[simp] theorem State.upd_replies (f : Thread → Thread) : (s.upd f).replies = s.replies := rfl
@[simp] theorem State.upd_accepts (f : Thread → Thread) : (s.upd f).accepts = s.accepts := rfl
@[simp] theorem State.upd_refusals (f : Thread → Thread) : (s.upd f).refusals = s.refusals := rfl
@[simp] theorem State.upd_ingress (f : Thread → Thread) : (s.upd f).ingress = s.ingress := rfl
@[simp] theorem State.upd_egress (f : Thread → Thread) : (s.upd f).egress = s.egress := rfl
@[simp] theorem State.upd_keyholeAsks (f : Thread → Thread) : (s.upd f).keyholeAsks = s.keyholeAsks := rfl
@[simp] theorem State.upd_keyholeOut (f : Thread → Thread) : (s.upd f).keyholeOut = s.keyholeOut := rfl
@[simp] theorem State.upd_keyholeIn (f : Thread → Thread) : (s.upd f).keyholeIn = s.keyholeIn := rfl
@[simp] theorem State.upd_keyholeSend (f : Thread → Thread) : (s.upd f).keyholeSend = s.keyholeSend := rfl
@[simp] theorem State.upd_ports (f : Thread → Thread) : (s.upd f).ports = s.ports := rfl
@[simp] theorem State.upd_keyPorts (f : Thread → Thread) : (s.upd f).keyPorts = s.keyPorts := rfl
@[simp] theorem State.upd_net (f : Thread → Thread) : (s.upd f).net = s.net := rfl
@[simp] theorem State.upd_regs (f : Thread → Thread) : (s.upd f).regs = s.regs := rfl
@[simp] theorem State.upd_fuse (f : Thread → Thread) : (s.upd f).fuse = s.fuse := rfl
@[simp] theorem State.upd_spdm (f : Thread → Thread) : (s.upd f).spdm = s.spdm := rfl
@[simp] theorem State.upd_attach (f : Thread → Thread) : (s.upd f).attach = s.attach := rfl
@[simp] theorem State.upd_stale (f : Thread → Thread) : (s.upd f).stale = s.stale := rfl
@[simp] theorem State.upd_ranges (f : Thread → Thread) : (s.upd f).ranges = s.ranges := rfl
@[simp] theorem State.upd_invalidations (f : Thread → Thread) : (s.upd f).invalidations = s.invalidations := rfl
@[simp] theorem State.upd_tlb (f : Thread → Thread) : (s.upd f).tlb = s.tlb := rfl
@[simp] theorem State.upd_msix (f : Thread → Thread) : (s.upd f).msix = s.msix := rfl
@[simp] theorem State.upd_counters (f : Thread → Thread) : (s.upd f).counters = s.counters := rfl
@[simp] theorem State.upd_snapshot (f : Thread → Thread) : (s.upd f).snapshot = s.snapshot := rfl
@[simp] theorem State.upd_snapAt (f : Thread → Thread) : (s.upd f).snapAt = s.snapAt := rfl
@[simp] theorem State.upd_served (f : Thread → Thread) : (s.upd f).served = s.served := rfl
@[simp] theorem State.upd_grace (f : Thread → Thread) : (s.upd f).grace = s.grace := rfl
@[simp] theorem State.upd_hostData (f : Thread → Thread) : (s.upd f).hostData = s.hostData := rfl
@[simp] theorem State.upd_hostPoison (f : Thread → Thread) : (s.upd f).hostPoison = s.hostPoison := rfl
@[simp] theorem State.upd_ev (f : Thread → Thread) : (s.upd f).ev = s.ev := rfl
@[simp] theorem State.upd_inputs (f : Thread → Thread) : (s.upd f).inputs = s.inputs := rfl
@[simp] theorem State.upd_cur (f : Thread → Thread) : (s.upd f).cur = s.cur := rfl
@[simp] theorem State.upd_serial (f : Thread → Thread) : (s.upd f).serial = s.serial := rfl
@[simp] theorem State.upd_stalled (f : Thread → Thread) : (s.upd f).stalled = s.stalled := rfl

/-! ### `State.done` changes `threads` alone -/

@[simp] theorem State.done_cores (n : Nat) (f : Thread → Thread) : (s.done n f).cores = s.cores := rfl
@[simp] theorem State.done_tiles (n : Nat) (f : Thread → Thread) : (s.done n f).tiles = s.tiles := rfl
@[simp] theorem State.done_clusters (n : Nat) (f : Thread → Thread) : (s.done n f).clusters = s.clusters := rfl
@[simp] theorem State.done_mem (n : Nat) (f : Thread → Thread) : (s.done n f).mem = s.mem := rfl
@[simp] theorem State.done_poison (n : Nat) (f : Thread → Thread) : (s.done n f).poison = s.poison := rfl
@[simp] theorem State.done_slots (n : Nat) (f : Thread → Thread) : (s.done n f).slots = s.slots := rfl
@[simp] theorem State.done_launches (n : Nat) (f : Thread → Thread) : (s.done n f).launches = s.launches := rfl
@[simp] theorem State.done_tasks (n : Nat) (f : Thread → Thread) : (s.done n f).tasks = s.tasks := rfl
@[simp] theorem State.done_graphs (n : Nat) (f : Thread → Thread) : (s.done n f).graphs = s.graphs := rfl
@[simp] theorem State.done_graphEnds (n : Nat) (f : Thread → Thread) : (s.done n f).graphEnds = s.graphEnds := rfl
@[simp] theorem State.done_queues (n : Nat) (f : Thread → Thread) : (s.done n f).queues = s.queues := rfl
@[simp] theorem State.done_images (n : Nat) (f : Thread → Thread) : (s.done n f).images = s.images := rfl
@[simp] theorem State.done_nextHandle (n : Nat) (f : Thread → Thread) : (s.done n f).nextHandle = s.nextHandle := rfl
@[simp] theorem State.done_nextTask (n : Nat) (f : Thread → Thread) : (s.done n f).nextTask = s.nextTask := rfl
@[simp] theorem State.done_watchReqs (n : Nat) (f : Thread → Thread) : (s.done n f).watchReqs = s.watchReqs := rfl
@[simp] theorem State.done_watchAnss (n : Nat) (f : Thread → Thread) : (s.done n f).watchAnss = s.watchAnss := rfl
@[simp] theorem State.done_requests (n : Nat) (f : Thread → Thread) : (s.done n f).requests = s.requests := rfl
@[simp] theorem State.done_replies (n : Nat) (f : Thread → Thread) : (s.done n f).replies = s.replies := rfl
@[simp] theorem State.done_accepts (n : Nat) (f : Thread → Thread) : (s.done n f).accepts = s.accepts := rfl
@[simp] theorem State.done_refusals (n : Nat) (f : Thread → Thread) : (s.done n f).refusals = s.refusals := rfl
@[simp] theorem State.done_ingress (n : Nat) (f : Thread → Thread) : (s.done n f).ingress = s.ingress := rfl
@[simp] theorem State.done_egress (n : Nat) (f : Thread → Thread) : (s.done n f).egress = s.egress := rfl
@[simp] theorem State.done_keyholeAsks (n : Nat) (f : Thread → Thread) : (s.done n f).keyholeAsks = s.keyholeAsks := rfl
@[simp] theorem State.done_keyholeOut (n : Nat) (f : Thread → Thread) : (s.done n f).keyholeOut = s.keyholeOut := rfl
@[simp] theorem State.done_keyholeIn (n : Nat) (f : Thread → Thread) : (s.done n f).keyholeIn = s.keyholeIn := rfl
@[simp] theorem State.done_keyholeSend (n : Nat) (f : Thread → Thread) : (s.done n f).keyholeSend = s.keyholeSend := rfl
@[simp] theorem State.done_ports (n : Nat) (f : Thread → Thread) : (s.done n f).ports = s.ports := rfl
@[simp] theorem State.done_keyPorts (n : Nat) (f : Thread → Thread) : (s.done n f).keyPorts = s.keyPorts := rfl
@[simp] theorem State.done_net (n : Nat) (f : Thread → Thread) : (s.done n f).net = s.net := rfl
@[simp] theorem State.done_regs (n : Nat) (f : Thread → Thread) : (s.done n f).regs = s.regs := rfl
@[simp] theorem State.done_fuse (n : Nat) (f : Thread → Thread) : (s.done n f).fuse = s.fuse := rfl
@[simp] theorem State.done_spdm (n : Nat) (f : Thread → Thread) : (s.done n f).spdm = s.spdm := rfl
@[simp] theorem State.done_attach (n : Nat) (f : Thread → Thread) : (s.done n f).attach = s.attach := rfl
@[simp] theorem State.done_stale (n : Nat) (f : Thread → Thread) : (s.done n f).stale = s.stale := rfl
@[simp] theorem State.done_ranges (n : Nat) (f : Thread → Thread) : (s.done n f).ranges = s.ranges := rfl
@[simp] theorem State.done_invalidations (n : Nat) (f : Thread → Thread) : (s.done n f).invalidations = s.invalidations := rfl
@[simp] theorem State.done_tlb (n : Nat) (f : Thread → Thread) : (s.done n f).tlb = s.tlb := rfl
@[simp] theorem State.done_msix (n : Nat) (f : Thread → Thread) : (s.done n f).msix = s.msix := rfl
@[simp] theorem State.done_counters (n : Nat) (f : Thread → Thread) : (s.done n f).counters = s.counters := rfl
@[simp] theorem State.done_snapshot (n : Nat) (f : Thread → Thread) : (s.done n f).snapshot = s.snapshot := rfl
@[simp] theorem State.done_snapAt (n : Nat) (f : Thread → Thread) : (s.done n f).snapAt = s.snapAt := rfl
@[simp] theorem State.done_served (n : Nat) (f : Thread → Thread) : (s.done n f).served = s.served := rfl
@[simp] theorem State.done_grace (n : Nat) (f : Thread → Thread) : (s.done n f).grace = s.grace := rfl
@[simp] theorem State.done_hostData (n : Nat) (f : Thread → Thread) : (s.done n f).hostData = s.hostData := rfl
@[simp] theorem State.done_hostPoison (n : Nat) (f : Thread → Thread) : (s.done n f).hostPoison = s.hostPoison := rfl
@[simp] theorem State.done_ev (n : Nat) (f : Thread → Thread) : (s.done n f).ev = s.ev := rfl
@[simp] theorem State.done_inputs (n : Nat) (f : Thread → Thread) : (s.done n f).inputs = s.inputs := rfl
@[simp] theorem State.done_cur (n : Nat) (f : Thread → Thread) : (s.done n f).cur = s.cur := rfl
@[simp] theorem State.done_serial (n : Nat) (f : Thread → Thread) : (s.done n f).serial = s.serial := rfl
@[simp] theorem State.done_stalled (n : Nat) (f : Thread → Thread) : (s.done n f).stalled = s.stalled := rfl

/-! ### `State.setCore` changes `cores` alone -/

@[simp] theorem State.setCore_threads (k : Nat) (x : Core) : (s.setCore k x).threads = s.threads := rfl
@[simp] theorem State.setCore_tiles (k : Nat) (x : Core) : (s.setCore k x).tiles = s.tiles := rfl
@[simp] theorem State.setCore_clusters (k : Nat) (x : Core) : (s.setCore k x).clusters = s.clusters := rfl
@[simp] theorem State.setCore_mem (k : Nat) (x : Core) : (s.setCore k x).mem = s.mem := rfl
@[simp] theorem State.setCore_poison (k : Nat) (x : Core) : (s.setCore k x).poison = s.poison := rfl
@[simp] theorem State.setCore_slots (k : Nat) (x : Core) : (s.setCore k x).slots = s.slots := rfl
@[simp] theorem State.setCore_launches (k : Nat) (x : Core) : (s.setCore k x).launches = s.launches := rfl
@[simp] theorem State.setCore_tasks (k : Nat) (x : Core) : (s.setCore k x).tasks = s.tasks := rfl
@[simp] theorem State.setCore_graphs (k : Nat) (x : Core) : (s.setCore k x).graphs = s.graphs := rfl
@[simp] theorem State.setCore_graphEnds (k : Nat) (x : Core) : (s.setCore k x).graphEnds = s.graphEnds := rfl
@[simp] theorem State.setCore_queues (k : Nat) (x : Core) : (s.setCore k x).queues = s.queues := rfl
@[simp] theorem State.setCore_images (k : Nat) (x : Core) : (s.setCore k x).images = s.images := rfl
@[simp] theorem State.setCore_nextHandle (k : Nat) (x : Core) : (s.setCore k x).nextHandle = s.nextHandle := rfl
@[simp] theorem State.setCore_nextTask (k : Nat) (x : Core) : (s.setCore k x).nextTask = s.nextTask := rfl
@[simp] theorem State.setCore_watchReqs (k : Nat) (x : Core) : (s.setCore k x).watchReqs = s.watchReqs := rfl
@[simp] theorem State.setCore_watchAnss (k : Nat) (x : Core) : (s.setCore k x).watchAnss = s.watchAnss := rfl
@[simp] theorem State.setCore_requests (k : Nat) (x : Core) : (s.setCore k x).requests = s.requests := rfl
@[simp] theorem State.setCore_replies (k : Nat) (x : Core) : (s.setCore k x).replies = s.replies := rfl
@[simp] theorem State.setCore_accepts (k : Nat) (x : Core) : (s.setCore k x).accepts = s.accepts := rfl
@[simp] theorem State.setCore_refusals (k : Nat) (x : Core) : (s.setCore k x).refusals = s.refusals := rfl
@[simp] theorem State.setCore_ingress (k : Nat) (x : Core) : (s.setCore k x).ingress = s.ingress := rfl
@[simp] theorem State.setCore_egress (k : Nat) (x : Core) : (s.setCore k x).egress = s.egress := rfl
@[simp] theorem State.setCore_keyholeAsks (k : Nat) (x : Core) : (s.setCore k x).keyholeAsks = s.keyholeAsks := rfl
@[simp] theorem State.setCore_keyholeOut (k : Nat) (x : Core) : (s.setCore k x).keyholeOut = s.keyholeOut := rfl
@[simp] theorem State.setCore_keyholeIn (k : Nat) (x : Core) : (s.setCore k x).keyholeIn = s.keyholeIn := rfl
@[simp] theorem State.setCore_keyholeSend (k : Nat) (x : Core) : (s.setCore k x).keyholeSend = s.keyholeSend := rfl
@[simp] theorem State.setCore_ports (k : Nat) (x : Core) : (s.setCore k x).ports = s.ports := rfl
@[simp] theorem State.setCore_keyPorts (k : Nat) (x : Core) : (s.setCore k x).keyPorts = s.keyPorts := rfl
@[simp] theorem State.setCore_net (k : Nat) (x : Core) : (s.setCore k x).net = s.net := rfl
@[simp] theorem State.setCore_regs (k : Nat) (x : Core) : (s.setCore k x).regs = s.regs := rfl
@[simp] theorem State.setCore_fuse (k : Nat) (x : Core) : (s.setCore k x).fuse = s.fuse := rfl
@[simp] theorem State.setCore_spdm (k : Nat) (x : Core) : (s.setCore k x).spdm = s.spdm := rfl
@[simp] theorem State.setCore_attach (k : Nat) (x : Core) : (s.setCore k x).attach = s.attach := rfl
@[simp] theorem State.setCore_stale (k : Nat) (x : Core) : (s.setCore k x).stale = s.stale := rfl
@[simp] theorem State.setCore_ranges (k : Nat) (x : Core) : (s.setCore k x).ranges = s.ranges := rfl
@[simp] theorem State.setCore_invalidations (k : Nat) (x : Core) : (s.setCore k x).invalidations = s.invalidations := rfl
@[simp] theorem State.setCore_tlb (k : Nat) (x : Core) : (s.setCore k x).tlb = s.tlb := rfl
@[simp] theorem State.setCore_msix (k : Nat) (x : Core) : (s.setCore k x).msix = s.msix := rfl
@[simp] theorem State.setCore_counters (k : Nat) (x : Core) : (s.setCore k x).counters = s.counters := rfl
@[simp] theorem State.setCore_snapshot (k : Nat) (x : Core) : (s.setCore k x).snapshot = s.snapshot := rfl
@[simp] theorem State.setCore_snapAt (k : Nat) (x : Core) : (s.setCore k x).snapAt = s.snapAt := rfl
@[simp] theorem State.setCore_served (k : Nat) (x : Core) : (s.setCore k x).served = s.served := rfl
@[simp] theorem State.setCore_grace (k : Nat) (x : Core) : (s.setCore k x).grace = s.grace := rfl
@[simp] theorem State.setCore_hostData (k : Nat) (x : Core) : (s.setCore k x).hostData = s.hostData := rfl
@[simp] theorem State.setCore_hostPoison (k : Nat) (x : Core) : (s.setCore k x).hostPoison = s.hostPoison := rfl
@[simp] theorem State.setCore_ev (k : Nat) (x : Core) : (s.setCore k x).ev = s.ev := rfl
@[simp] theorem State.setCore_inputs (k : Nat) (x : Core) : (s.setCore k x).inputs = s.inputs := rfl
@[simp] theorem State.setCore_cur (k : Nat) (x : Core) : (s.setCore k x).cur = s.cur := rfl
@[simp] theorem State.setCore_serial (k : Nat) (x : Core) : (s.setCore k x).serial = s.serial := rfl
@[simp] theorem State.setCore_stalled (k : Nat) (x : Core) : (s.setCore k x).stalled = s.stalled := rfl

/-! ### `State.updCore` changes `cores` alone -/

@[simp] theorem State.updCore_threads (k : Nat) (f : Core → Core) : (s.updCore k f).threads = s.threads := rfl
@[simp] theorem State.updCore_tiles (k : Nat) (f : Core → Core) : (s.updCore k f).tiles = s.tiles := rfl
@[simp] theorem State.updCore_clusters (k : Nat) (f : Core → Core) : (s.updCore k f).clusters = s.clusters := rfl
@[simp] theorem State.updCore_mem (k : Nat) (f : Core → Core) : (s.updCore k f).mem = s.mem := rfl
@[simp] theorem State.updCore_poison (k : Nat) (f : Core → Core) : (s.updCore k f).poison = s.poison := rfl
@[simp] theorem State.updCore_slots (k : Nat) (f : Core → Core) : (s.updCore k f).slots = s.slots := rfl
@[simp] theorem State.updCore_launches (k : Nat) (f : Core → Core) : (s.updCore k f).launches = s.launches := rfl
@[simp] theorem State.updCore_tasks (k : Nat) (f : Core → Core) : (s.updCore k f).tasks = s.tasks := rfl
@[simp] theorem State.updCore_graphs (k : Nat) (f : Core → Core) : (s.updCore k f).graphs = s.graphs := rfl
@[simp] theorem State.updCore_graphEnds (k : Nat) (f : Core → Core) : (s.updCore k f).graphEnds = s.graphEnds := rfl
@[simp] theorem State.updCore_queues (k : Nat) (f : Core → Core) : (s.updCore k f).queues = s.queues := rfl
@[simp] theorem State.updCore_images (k : Nat) (f : Core → Core) : (s.updCore k f).images = s.images := rfl
@[simp] theorem State.updCore_nextHandle (k : Nat) (f : Core → Core) : (s.updCore k f).nextHandle = s.nextHandle := rfl
@[simp] theorem State.updCore_nextTask (k : Nat) (f : Core → Core) : (s.updCore k f).nextTask = s.nextTask := rfl
@[simp] theorem State.updCore_watchReqs (k : Nat) (f : Core → Core) : (s.updCore k f).watchReqs = s.watchReqs := rfl
@[simp] theorem State.updCore_watchAnss (k : Nat) (f : Core → Core) : (s.updCore k f).watchAnss = s.watchAnss := rfl
@[simp] theorem State.updCore_requests (k : Nat) (f : Core → Core) : (s.updCore k f).requests = s.requests := rfl
@[simp] theorem State.updCore_replies (k : Nat) (f : Core → Core) : (s.updCore k f).replies = s.replies := rfl
@[simp] theorem State.updCore_accepts (k : Nat) (f : Core → Core) : (s.updCore k f).accepts = s.accepts := rfl
@[simp] theorem State.updCore_refusals (k : Nat) (f : Core → Core) : (s.updCore k f).refusals = s.refusals := rfl
@[simp] theorem State.updCore_ingress (k : Nat) (f : Core → Core) : (s.updCore k f).ingress = s.ingress := rfl
@[simp] theorem State.updCore_egress (k : Nat) (f : Core → Core) : (s.updCore k f).egress = s.egress := rfl
@[simp] theorem State.updCore_keyholeAsks (k : Nat) (f : Core → Core) : (s.updCore k f).keyholeAsks = s.keyholeAsks := rfl
@[simp] theorem State.updCore_keyholeOut (k : Nat) (f : Core → Core) : (s.updCore k f).keyholeOut = s.keyholeOut := rfl
@[simp] theorem State.updCore_keyholeIn (k : Nat) (f : Core → Core) : (s.updCore k f).keyholeIn = s.keyholeIn := rfl
@[simp] theorem State.updCore_keyholeSend (k : Nat) (f : Core → Core) : (s.updCore k f).keyholeSend = s.keyholeSend := rfl
@[simp] theorem State.updCore_ports (k : Nat) (f : Core → Core) : (s.updCore k f).ports = s.ports := rfl
@[simp] theorem State.updCore_keyPorts (k : Nat) (f : Core → Core) : (s.updCore k f).keyPorts = s.keyPorts := rfl
@[simp] theorem State.updCore_net (k : Nat) (f : Core → Core) : (s.updCore k f).net = s.net := rfl
@[simp] theorem State.updCore_regs (k : Nat) (f : Core → Core) : (s.updCore k f).regs = s.regs := rfl
@[simp] theorem State.updCore_fuse (k : Nat) (f : Core → Core) : (s.updCore k f).fuse = s.fuse := rfl
@[simp] theorem State.updCore_spdm (k : Nat) (f : Core → Core) : (s.updCore k f).spdm = s.spdm := rfl
@[simp] theorem State.updCore_attach (k : Nat) (f : Core → Core) : (s.updCore k f).attach = s.attach := rfl
@[simp] theorem State.updCore_stale (k : Nat) (f : Core → Core) : (s.updCore k f).stale = s.stale := rfl
@[simp] theorem State.updCore_ranges (k : Nat) (f : Core → Core) : (s.updCore k f).ranges = s.ranges := rfl
@[simp] theorem State.updCore_invalidations (k : Nat) (f : Core → Core) : (s.updCore k f).invalidations = s.invalidations := rfl
@[simp] theorem State.updCore_tlb (k : Nat) (f : Core → Core) : (s.updCore k f).tlb = s.tlb := rfl
@[simp] theorem State.updCore_msix (k : Nat) (f : Core → Core) : (s.updCore k f).msix = s.msix := rfl
@[simp] theorem State.updCore_counters (k : Nat) (f : Core → Core) : (s.updCore k f).counters = s.counters := rfl
@[simp] theorem State.updCore_snapshot (k : Nat) (f : Core → Core) : (s.updCore k f).snapshot = s.snapshot := rfl
@[simp] theorem State.updCore_snapAt (k : Nat) (f : Core → Core) : (s.updCore k f).snapAt = s.snapAt := rfl
@[simp] theorem State.updCore_served (k : Nat) (f : Core → Core) : (s.updCore k f).served = s.served := rfl
@[simp] theorem State.updCore_grace (k : Nat) (f : Core → Core) : (s.updCore k f).grace = s.grace := rfl
@[simp] theorem State.updCore_hostData (k : Nat) (f : Core → Core) : (s.updCore k f).hostData = s.hostData := rfl
@[simp] theorem State.updCore_hostPoison (k : Nat) (f : Core → Core) : (s.updCore k f).hostPoison = s.hostPoison := rfl
@[simp] theorem State.updCore_ev (k : Nat) (f : Core → Core) : (s.updCore k f).ev = s.ev := rfl
@[simp] theorem State.updCore_inputs (k : Nat) (f : Core → Core) : (s.updCore k f).inputs = s.inputs := rfl
@[simp] theorem State.updCore_cur (k : Nat) (f : Core → Core) : (s.updCore k f).cur = s.cur := rfl
@[simp] theorem State.updCore_serial (k : Nat) (f : Core → Core) : (s.updCore k f).serial = s.serial := rfl
@[simp] theorem State.updCore_stalled (k : Nat) (f : Core → Core) : (s.updCore k f).stalled = s.stalled := rfl

/-! ### `State.setTile` changes `tiles` alone -/

@[simp] theorem State.setTile_threads (k : Nat) (x : Tile) : (s.setTile k x).threads = s.threads := rfl
@[simp] theorem State.setTile_cores (k : Nat) (x : Tile) : (s.setTile k x).cores = s.cores := rfl
@[simp] theorem State.setTile_clusters (k : Nat) (x : Tile) : (s.setTile k x).clusters = s.clusters := rfl
@[simp] theorem State.setTile_mem (k : Nat) (x : Tile) : (s.setTile k x).mem = s.mem := rfl
@[simp] theorem State.setTile_poison (k : Nat) (x : Tile) : (s.setTile k x).poison = s.poison := rfl
@[simp] theorem State.setTile_slots (k : Nat) (x : Tile) : (s.setTile k x).slots = s.slots := rfl
@[simp] theorem State.setTile_launches (k : Nat) (x : Tile) : (s.setTile k x).launches = s.launches := rfl
@[simp] theorem State.setTile_tasks (k : Nat) (x : Tile) : (s.setTile k x).tasks = s.tasks := rfl
@[simp] theorem State.setTile_graphs (k : Nat) (x : Tile) : (s.setTile k x).graphs = s.graphs := rfl
@[simp] theorem State.setTile_graphEnds (k : Nat) (x : Tile) : (s.setTile k x).graphEnds = s.graphEnds := rfl
@[simp] theorem State.setTile_queues (k : Nat) (x : Tile) : (s.setTile k x).queues = s.queues := rfl
@[simp] theorem State.setTile_images (k : Nat) (x : Tile) : (s.setTile k x).images = s.images := rfl
@[simp] theorem State.setTile_nextHandle (k : Nat) (x : Tile) : (s.setTile k x).nextHandle = s.nextHandle := rfl
@[simp] theorem State.setTile_nextTask (k : Nat) (x : Tile) : (s.setTile k x).nextTask = s.nextTask := rfl
@[simp] theorem State.setTile_watchReqs (k : Nat) (x : Tile) : (s.setTile k x).watchReqs = s.watchReqs := rfl
@[simp] theorem State.setTile_watchAnss (k : Nat) (x : Tile) : (s.setTile k x).watchAnss = s.watchAnss := rfl
@[simp] theorem State.setTile_requests (k : Nat) (x : Tile) : (s.setTile k x).requests = s.requests := rfl
@[simp] theorem State.setTile_replies (k : Nat) (x : Tile) : (s.setTile k x).replies = s.replies := rfl
@[simp] theorem State.setTile_accepts (k : Nat) (x : Tile) : (s.setTile k x).accepts = s.accepts := rfl
@[simp] theorem State.setTile_refusals (k : Nat) (x : Tile) : (s.setTile k x).refusals = s.refusals := rfl
@[simp] theorem State.setTile_ingress (k : Nat) (x : Tile) : (s.setTile k x).ingress = s.ingress := rfl
@[simp] theorem State.setTile_egress (k : Nat) (x : Tile) : (s.setTile k x).egress = s.egress := rfl
@[simp] theorem State.setTile_keyholeAsks (k : Nat) (x : Tile) : (s.setTile k x).keyholeAsks = s.keyholeAsks := rfl
@[simp] theorem State.setTile_keyholeOut (k : Nat) (x : Tile) : (s.setTile k x).keyholeOut = s.keyholeOut := rfl
@[simp] theorem State.setTile_keyholeIn (k : Nat) (x : Tile) : (s.setTile k x).keyholeIn = s.keyholeIn := rfl
@[simp] theorem State.setTile_keyholeSend (k : Nat) (x : Tile) : (s.setTile k x).keyholeSend = s.keyholeSend := rfl
@[simp] theorem State.setTile_ports (k : Nat) (x : Tile) : (s.setTile k x).ports = s.ports := rfl
@[simp] theorem State.setTile_keyPorts (k : Nat) (x : Tile) : (s.setTile k x).keyPorts = s.keyPorts := rfl
@[simp] theorem State.setTile_net (k : Nat) (x : Tile) : (s.setTile k x).net = s.net := rfl
@[simp] theorem State.setTile_regs (k : Nat) (x : Tile) : (s.setTile k x).regs = s.regs := rfl
@[simp] theorem State.setTile_fuse (k : Nat) (x : Tile) : (s.setTile k x).fuse = s.fuse := rfl
@[simp] theorem State.setTile_spdm (k : Nat) (x : Tile) : (s.setTile k x).spdm = s.spdm := rfl
@[simp] theorem State.setTile_attach (k : Nat) (x : Tile) : (s.setTile k x).attach = s.attach := rfl
@[simp] theorem State.setTile_stale (k : Nat) (x : Tile) : (s.setTile k x).stale = s.stale := rfl
@[simp] theorem State.setTile_ranges (k : Nat) (x : Tile) : (s.setTile k x).ranges = s.ranges := rfl
@[simp] theorem State.setTile_invalidations (k : Nat) (x : Tile) : (s.setTile k x).invalidations = s.invalidations := rfl
@[simp] theorem State.setTile_tlb (k : Nat) (x : Tile) : (s.setTile k x).tlb = s.tlb := rfl
@[simp] theorem State.setTile_msix (k : Nat) (x : Tile) : (s.setTile k x).msix = s.msix := rfl
@[simp] theorem State.setTile_counters (k : Nat) (x : Tile) : (s.setTile k x).counters = s.counters := rfl
@[simp] theorem State.setTile_snapshot (k : Nat) (x : Tile) : (s.setTile k x).snapshot = s.snapshot := rfl
@[simp] theorem State.setTile_snapAt (k : Nat) (x : Tile) : (s.setTile k x).snapAt = s.snapAt := rfl
@[simp] theorem State.setTile_served (k : Nat) (x : Tile) : (s.setTile k x).served = s.served := rfl
@[simp] theorem State.setTile_grace (k : Nat) (x : Tile) : (s.setTile k x).grace = s.grace := rfl
@[simp] theorem State.setTile_hostData (k : Nat) (x : Tile) : (s.setTile k x).hostData = s.hostData := rfl
@[simp] theorem State.setTile_hostPoison (k : Nat) (x : Tile) : (s.setTile k x).hostPoison = s.hostPoison := rfl
@[simp] theorem State.setTile_ev (k : Nat) (x : Tile) : (s.setTile k x).ev = s.ev := rfl
@[simp] theorem State.setTile_inputs (k : Nat) (x : Tile) : (s.setTile k x).inputs = s.inputs := rfl
@[simp] theorem State.setTile_cur (k : Nat) (x : Tile) : (s.setTile k x).cur = s.cur := rfl
@[simp] theorem State.setTile_serial (k : Nat) (x : Tile) : (s.setTile k x).serial = s.serial := rfl
@[simp] theorem State.setTile_stalled (k : Nat) (x : Tile) : (s.setTile k x).stalled = s.stalled := rfl

/-! ### `State.updTile` changes `tiles` alone -/

@[simp] theorem State.updTile_threads (k : Nat) (f : Tile → Tile) : (s.updTile k f).threads = s.threads := rfl
@[simp] theorem State.updTile_cores (k : Nat) (f : Tile → Tile) : (s.updTile k f).cores = s.cores := rfl
@[simp] theorem State.updTile_clusters (k : Nat) (f : Tile → Tile) : (s.updTile k f).clusters = s.clusters := rfl
@[simp] theorem State.updTile_mem (k : Nat) (f : Tile → Tile) : (s.updTile k f).mem = s.mem := rfl
@[simp] theorem State.updTile_poison (k : Nat) (f : Tile → Tile) : (s.updTile k f).poison = s.poison := rfl
@[simp] theorem State.updTile_slots (k : Nat) (f : Tile → Tile) : (s.updTile k f).slots = s.slots := rfl
@[simp] theorem State.updTile_launches (k : Nat) (f : Tile → Tile) : (s.updTile k f).launches = s.launches := rfl
@[simp] theorem State.updTile_tasks (k : Nat) (f : Tile → Tile) : (s.updTile k f).tasks = s.tasks := rfl
@[simp] theorem State.updTile_graphs (k : Nat) (f : Tile → Tile) : (s.updTile k f).graphs = s.graphs := rfl
@[simp] theorem State.updTile_graphEnds (k : Nat) (f : Tile → Tile) : (s.updTile k f).graphEnds = s.graphEnds := rfl
@[simp] theorem State.updTile_queues (k : Nat) (f : Tile → Tile) : (s.updTile k f).queues = s.queues := rfl
@[simp] theorem State.updTile_images (k : Nat) (f : Tile → Tile) : (s.updTile k f).images = s.images := rfl
@[simp] theorem State.updTile_nextHandle (k : Nat) (f : Tile → Tile) : (s.updTile k f).nextHandle = s.nextHandle := rfl
@[simp] theorem State.updTile_nextTask (k : Nat) (f : Tile → Tile) : (s.updTile k f).nextTask = s.nextTask := rfl
@[simp] theorem State.updTile_watchReqs (k : Nat) (f : Tile → Tile) : (s.updTile k f).watchReqs = s.watchReqs := rfl
@[simp] theorem State.updTile_watchAnss (k : Nat) (f : Tile → Tile) : (s.updTile k f).watchAnss = s.watchAnss := rfl
@[simp] theorem State.updTile_requests (k : Nat) (f : Tile → Tile) : (s.updTile k f).requests = s.requests := rfl
@[simp] theorem State.updTile_replies (k : Nat) (f : Tile → Tile) : (s.updTile k f).replies = s.replies := rfl
@[simp] theorem State.updTile_accepts (k : Nat) (f : Tile → Tile) : (s.updTile k f).accepts = s.accepts := rfl
@[simp] theorem State.updTile_refusals (k : Nat) (f : Tile → Tile) : (s.updTile k f).refusals = s.refusals := rfl
@[simp] theorem State.updTile_ingress (k : Nat) (f : Tile → Tile) : (s.updTile k f).ingress = s.ingress := rfl
@[simp] theorem State.updTile_egress (k : Nat) (f : Tile → Tile) : (s.updTile k f).egress = s.egress := rfl
@[simp] theorem State.updTile_keyholeAsks (k : Nat) (f : Tile → Tile) : (s.updTile k f).keyholeAsks = s.keyholeAsks := rfl
@[simp] theorem State.updTile_keyholeOut (k : Nat) (f : Tile → Tile) : (s.updTile k f).keyholeOut = s.keyholeOut := rfl
@[simp] theorem State.updTile_keyholeIn (k : Nat) (f : Tile → Tile) : (s.updTile k f).keyholeIn = s.keyholeIn := rfl
@[simp] theorem State.updTile_keyholeSend (k : Nat) (f : Tile → Tile) : (s.updTile k f).keyholeSend = s.keyholeSend := rfl
@[simp] theorem State.updTile_ports (k : Nat) (f : Tile → Tile) : (s.updTile k f).ports = s.ports := rfl
@[simp] theorem State.updTile_keyPorts (k : Nat) (f : Tile → Tile) : (s.updTile k f).keyPorts = s.keyPorts := rfl
@[simp] theorem State.updTile_net (k : Nat) (f : Tile → Tile) : (s.updTile k f).net = s.net := rfl
@[simp] theorem State.updTile_regs (k : Nat) (f : Tile → Tile) : (s.updTile k f).regs = s.regs := rfl
@[simp] theorem State.updTile_fuse (k : Nat) (f : Tile → Tile) : (s.updTile k f).fuse = s.fuse := rfl
@[simp] theorem State.updTile_spdm (k : Nat) (f : Tile → Tile) : (s.updTile k f).spdm = s.spdm := rfl
@[simp] theorem State.updTile_attach (k : Nat) (f : Tile → Tile) : (s.updTile k f).attach = s.attach := rfl
@[simp] theorem State.updTile_stale (k : Nat) (f : Tile → Tile) : (s.updTile k f).stale = s.stale := rfl
@[simp] theorem State.updTile_ranges (k : Nat) (f : Tile → Tile) : (s.updTile k f).ranges = s.ranges := rfl
@[simp] theorem State.updTile_invalidations (k : Nat) (f : Tile → Tile) : (s.updTile k f).invalidations = s.invalidations := rfl
@[simp] theorem State.updTile_tlb (k : Nat) (f : Tile → Tile) : (s.updTile k f).tlb = s.tlb := rfl
@[simp] theorem State.updTile_msix (k : Nat) (f : Tile → Tile) : (s.updTile k f).msix = s.msix := rfl
@[simp] theorem State.updTile_counters (k : Nat) (f : Tile → Tile) : (s.updTile k f).counters = s.counters := rfl
@[simp] theorem State.updTile_snapshot (k : Nat) (f : Tile → Tile) : (s.updTile k f).snapshot = s.snapshot := rfl
@[simp] theorem State.updTile_snapAt (k : Nat) (f : Tile → Tile) : (s.updTile k f).snapAt = s.snapAt := rfl
@[simp] theorem State.updTile_served (k : Nat) (f : Tile → Tile) : (s.updTile k f).served = s.served := rfl
@[simp] theorem State.updTile_grace (k : Nat) (f : Tile → Tile) : (s.updTile k f).grace = s.grace := rfl
@[simp] theorem State.updTile_hostData (k : Nat) (f : Tile → Tile) : (s.updTile k f).hostData = s.hostData := rfl
@[simp] theorem State.updTile_hostPoison (k : Nat) (f : Tile → Tile) : (s.updTile k f).hostPoison = s.hostPoison := rfl
@[simp] theorem State.updTile_ev (k : Nat) (f : Tile → Tile) : (s.updTile k f).ev = s.ev := rfl
@[simp] theorem State.updTile_inputs (k : Nat) (f : Tile → Tile) : (s.updTile k f).inputs = s.inputs := rfl
@[simp] theorem State.updTile_cur (k : Nat) (f : Tile → Tile) : (s.updTile k f).cur = s.cur := rfl
@[simp] theorem State.updTile_serial (k : Nat) (f : Tile → Tile) : (s.updTile k f).serial = s.serial := rfl
@[simp] theorem State.updTile_stalled (k : Nat) (f : Tile → Tile) : (s.updTile k f).stalled = s.stalled := rfl

/-! ### `State.setCluster` changes `clusters` alone -/

@[simp] theorem State.setCluster_threads (k : Nat) (x : Cluster) : (s.setCluster k x).threads = s.threads := rfl
@[simp] theorem State.setCluster_cores (k : Nat) (x : Cluster) : (s.setCluster k x).cores = s.cores := rfl
@[simp] theorem State.setCluster_tiles (k : Nat) (x : Cluster) : (s.setCluster k x).tiles = s.tiles := rfl
@[simp] theorem State.setCluster_mem (k : Nat) (x : Cluster) : (s.setCluster k x).mem = s.mem := rfl
@[simp] theorem State.setCluster_poison (k : Nat) (x : Cluster) : (s.setCluster k x).poison = s.poison := rfl
@[simp] theorem State.setCluster_slots (k : Nat) (x : Cluster) : (s.setCluster k x).slots = s.slots := rfl
@[simp] theorem State.setCluster_launches (k : Nat) (x : Cluster) : (s.setCluster k x).launches = s.launches := rfl
@[simp] theorem State.setCluster_tasks (k : Nat) (x : Cluster) : (s.setCluster k x).tasks = s.tasks := rfl
@[simp] theorem State.setCluster_graphs (k : Nat) (x : Cluster) : (s.setCluster k x).graphs = s.graphs := rfl
@[simp] theorem State.setCluster_graphEnds (k : Nat) (x : Cluster) : (s.setCluster k x).graphEnds = s.graphEnds := rfl
@[simp] theorem State.setCluster_queues (k : Nat) (x : Cluster) : (s.setCluster k x).queues = s.queues := rfl
@[simp] theorem State.setCluster_images (k : Nat) (x : Cluster) : (s.setCluster k x).images = s.images := rfl
@[simp] theorem State.setCluster_nextHandle (k : Nat) (x : Cluster) : (s.setCluster k x).nextHandle = s.nextHandle := rfl
@[simp] theorem State.setCluster_nextTask (k : Nat) (x : Cluster) : (s.setCluster k x).nextTask = s.nextTask := rfl
@[simp] theorem State.setCluster_watchReqs (k : Nat) (x : Cluster) : (s.setCluster k x).watchReqs = s.watchReqs := rfl
@[simp] theorem State.setCluster_watchAnss (k : Nat) (x : Cluster) : (s.setCluster k x).watchAnss = s.watchAnss := rfl
@[simp] theorem State.setCluster_requests (k : Nat) (x : Cluster) : (s.setCluster k x).requests = s.requests := rfl
@[simp] theorem State.setCluster_replies (k : Nat) (x : Cluster) : (s.setCluster k x).replies = s.replies := rfl
@[simp] theorem State.setCluster_accepts (k : Nat) (x : Cluster) : (s.setCluster k x).accepts = s.accepts := rfl
@[simp] theorem State.setCluster_refusals (k : Nat) (x : Cluster) : (s.setCluster k x).refusals = s.refusals := rfl
@[simp] theorem State.setCluster_ingress (k : Nat) (x : Cluster) : (s.setCluster k x).ingress = s.ingress := rfl
@[simp] theorem State.setCluster_egress (k : Nat) (x : Cluster) : (s.setCluster k x).egress = s.egress := rfl
@[simp] theorem State.setCluster_keyholeAsks (k : Nat) (x : Cluster) : (s.setCluster k x).keyholeAsks = s.keyholeAsks := rfl
@[simp] theorem State.setCluster_keyholeOut (k : Nat) (x : Cluster) : (s.setCluster k x).keyholeOut = s.keyholeOut := rfl
@[simp] theorem State.setCluster_keyholeIn (k : Nat) (x : Cluster) : (s.setCluster k x).keyholeIn = s.keyholeIn := rfl
@[simp] theorem State.setCluster_keyholeSend (k : Nat) (x : Cluster) : (s.setCluster k x).keyholeSend = s.keyholeSend := rfl
@[simp] theorem State.setCluster_ports (k : Nat) (x : Cluster) : (s.setCluster k x).ports = s.ports := rfl
@[simp] theorem State.setCluster_keyPorts (k : Nat) (x : Cluster) : (s.setCluster k x).keyPorts = s.keyPorts := rfl
@[simp] theorem State.setCluster_net (k : Nat) (x : Cluster) : (s.setCluster k x).net = s.net := rfl
@[simp] theorem State.setCluster_regs (k : Nat) (x : Cluster) : (s.setCluster k x).regs = s.regs := rfl
@[simp] theorem State.setCluster_fuse (k : Nat) (x : Cluster) : (s.setCluster k x).fuse = s.fuse := rfl
@[simp] theorem State.setCluster_spdm (k : Nat) (x : Cluster) : (s.setCluster k x).spdm = s.spdm := rfl
@[simp] theorem State.setCluster_attach (k : Nat) (x : Cluster) : (s.setCluster k x).attach = s.attach := rfl
@[simp] theorem State.setCluster_stale (k : Nat) (x : Cluster) : (s.setCluster k x).stale = s.stale := rfl
@[simp] theorem State.setCluster_ranges (k : Nat) (x : Cluster) : (s.setCluster k x).ranges = s.ranges := rfl
@[simp] theorem State.setCluster_invalidations (k : Nat) (x : Cluster) : (s.setCluster k x).invalidations = s.invalidations := rfl
@[simp] theorem State.setCluster_tlb (k : Nat) (x : Cluster) : (s.setCluster k x).tlb = s.tlb := rfl
@[simp] theorem State.setCluster_msix (k : Nat) (x : Cluster) : (s.setCluster k x).msix = s.msix := rfl
@[simp] theorem State.setCluster_counters (k : Nat) (x : Cluster) : (s.setCluster k x).counters = s.counters := rfl
@[simp] theorem State.setCluster_snapshot (k : Nat) (x : Cluster) : (s.setCluster k x).snapshot = s.snapshot := rfl
@[simp] theorem State.setCluster_snapAt (k : Nat) (x : Cluster) : (s.setCluster k x).snapAt = s.snapAt := rfl
@[simp] theorem State.setCluster_served (k : Nat) (x : Cluster) : (s.setCluster k x).served = s.served := rfl
@[simp] theorem State.setCluster_grace (k : Nat) (x : Cluster) : (s.setCluster k x).grace = s.grace := rfl
@[simp] theorem State.setCluster_hostData (k : Nat) (x : Cluster) : (s.setCluster k x).hostData = s.hostData := rfl
@[simp] theorem State.setCluster_hostPoison (k : Nat) (x : Cluster) : (s.setCluster k x).hostPoison = s.hostPoison := rfl
@[simp] theorem State.setCluster_ev (k : Nat) (x : Cluster) : (s.setCluster k x).ev = s.ev := rfl
@[simp] theorem State.setCluster_inputs (k : Nat) (x : Cluster) : (s.setCluster k x).inputs = s.inputs := rfl
@[simp] theorem State.setCluster_cur (k : Nat) (x : Cluster) : (s.setCluster k x).cur = s.cur := rfl
@[simp] theorem State.setCluster_serial (k : Nat) (x : Cluster) : (s.setCluster k x).serial = s.serial := rfl
@[simp] theorem State.setCluster_stalled (k : Nat) (x : Cluster) : (s.setCluster k x).stalled = s.stalled := rfl

/-! ### `State.updCluster` changes `clusters` alone -/

@[simp] theorem State.updCluster_threads (k : Nat) (f : Cluster → Cluster) : (s.updCluster k f).threads = s.threads := rfl
@[simp] theorem State.updCluster_cores (k : Nat) (f : Cluster → Cluster) : (s.updCluster k f).cores = s.cores := rfl
@[simp] theorem State.updCluster_tiles (k : Nat) (f : Cluster → Cluster) : (s.updCluster k f).tiles = s.tiles := rfl
@[simp] theorem State.updCluster_mem (k : Nat) (f : Cluster → Cluster) : (s.updCluster k f).mem = s.mem := rfl
@[simp] theorem State.updCluster_poison (k : Nat) (f : Cluster → Cluster) : (s.updCluster k f).poison = s.poison := rfl
@[simp] theorem State.updCluster_slots (k : Nat) (f : Cluster → Cluster) : (s.updCluster k f).slots = s.slots := rfl
@[simp] theorem State.updCluster_launches (k : Nat) (f : Cluster → Cluster) : (s.updCluster k f).launches = s.launches := rfl
@[simp] theorem State.updCluster_tasks (k : Nat) (f : Cluster → Cluster) : (s.updCluster k f).tasks = s.tasks := rfl
@[simp] theorem State.updCluster_graphs (k : Nat) (f : Cluster → Cluster) : (s.updCluster k f).graphs = s.graphs := rfl
@[simp] theorem State.updCluster_graphEnds (k : Nat) (f : Cluster → Cluster) : (s.updCluster k f).graphEnds = s.graphEnds := rfl
@[simp] theorem State.updCluster_queues (k : Nat) (f : Cluster → Cluster) : (s.updCluster k f).queues = s.queues := rfl
@[simp] theorem State.updCluster_images (k : Nat) (f : Cluster → Cluster) : (s.updCluster k f).images = s.images := rfl
@[simp] theorem State.updCluster_nextHandle (k : Nat) (f : Cluster → Cluster) : (s.updCluster k f).nextHandle = s.nextHandle := rfl
@[simp] theorem State.updCluster_nextTask (k : Nat) (f : Cluster → Cluster) : (s.updCluster k f).nextTask = s.nextTask := rfl
@[simp] theorem State.updCluster_watchReqs (k : Nat) (f : Cluster → Cluster) : (s.updCluster k f).watchReqs = s.watchReqs := rfl
@[simp] theorem State.updCluster_watchAnss (k : Nat) (f : Cluster → Cluster) : (s.updCluster k f).watchAnss = s.watchAnss := rfl
@[simp] theorem State.updCluster_requests (k : Nat) (f : Cluster → Cluster) : (s.updCluster k f).requests = s.requests := rfl
@[simp] theorem State.updCluster_replies (k : Nat) (f : Cluster → Cluster) : (s.updCluster k f).replies = s.replies := rfl
@[simp] theorem State.updCluster_accepts (k : Nat) (f : Cluster → Cluster) : (s.updCluster k f).accepts = s.accepts := rfl
@[simp] theorem State.updCluster_refusals (k : Nat) (f : Cluster → Cluster) : (s.updCluster k f).refusals = s.refusals := rfl
@[simp] theorem State.updCluster_ingress (k : Nat) (f : Cluster → Cluster) : (s.updCluster k f).ingress = s.ingress := rfl
@[simp] theorem State.updCluster_egress (k : Nat) (f : Cluster → Cluster) : (s.updCluster k f).egress = s.egress := rfl
@[simp] theorem State.updCluster_keyholeAsks (k : Nat) (f : Cluster → Cluster) : (s.updCluster k f).keyholeAsks = s.keyholeAsks := rfl
@[simp] theorem State.updCluster_keyholeOut (k : Nat) (f : Cluster → Cluster) : (s.updCluster k f).keyholeOut = s.keyholeOut := rfl
@[simp] theorem State.updCluster_keyholeIn (k : Nat) (f : Cluster → Cluster) : (s.updCluster k f).keyholeIn = s.keyholeIn := rfl
@[simp] theorem State.updCluster_keyholeSend (k : Nat) (f : Cluster → Cluster) : (s.updCluster k f).keyholeSend = s.keyholeSend := rfl
@[simp] theorem State.updCluster_ports (k : Nat) (f : Cluster → Cluster) : (s.updCluster k f).ports = s.ports := rfl
@[simp] theorem State.updCluster_keyPorts (k : Nat) (f : Cluster → Cluster) : (s.updCluster k f).keyPorts = s.keyPorts := rfl
@[simp] theorem State.updCluster_net (k : Nat) (f : Cluster → Cluster) : (s.updCluster k f).net = s.net := rfl
@[simp] theorem State.updCluster_regs (k : Nat) (f : Cluster → Cluster) : (s.updCluster k f).regs = s.regs := rfl
@[simp] theorem State.updCluster_fuse (k : Nat) (f : Cluster → Cluster) : (s.updCluster k f).fuse = s.fuse := rfl
@[simp] theorem State.updCluster_spdm (k : Nat) (f : Cluster → Cluster) : (s.updCluster k f).spdm = s.spdm := rfl
@[simp] theorem State.updCluster_attach (k : Nat) (f : Cluster → Cluster) : (s.updCluster k f).attach = s.attach := rfl
@[simp] theorem State.updCluster_stale (k : Nat) (f : Cluster → Cluster) : (s.updCluster k f).stale = s.stale := rfl
@[simp] theorem State.updCluster_ranges (k : Nat) (f : Cluster → Cluster) : (s.updCluster k f).ranges = s.ranges := rfl
@[simp] theorem State.updCluster_invalidations (k : Nat) (f : Cluster → Cluster) : (s.updCluster k f).invalidations = s.invalidations := rfl
@[simp] theorem State.updCluster_tlb (k : Nat) (f : Cluster → Cluster) : (s.updCluster k f).tlb = s.tlb := rfl
@[simp] theorem State.updCluster_msix (k : Nat) (f : Cluster → Cluster) : (s.updCluster k f).msix = s.msix := rfl
@[simp] theorem State.updCluster_counters (k : Nat) (f : Cluster → Cluster) : (s.updCluster k f).counters = s.counters := rfl
@[simp] theorem State.updCluster_snapshot (k : Nat) (f : Cluster → Cluster) : (s.updCluster k f).snapshot = s.snapshot := rfl
@[simp] theorem State.updCluster_snapAt (k : Nat) (f : Cluster → Cluster) : (s.updCluster k f).snapAt = s.snapAt := rfl
@[simp] theorem State.updCluster_served (k : Nat) (f : Cluster → Cluster) : (s.updCluster k f).served = s.served := rfl
@[simp] theorem State.updCluster_grace (k : Nat) (f : Cluster → Cluster) : (s.updCluster k f).grace = s.grace := rfl
@[simp] theorem State.updCluster_hostData (k : Nat) (f : Cluster → Cluster) : (s.updCluster k f).hostData = s.hostData := rfl
@[simp] theorem State.updCluster_hostPoison (k : Nat) (f : Cluster → Cluster) : (s.updCluster k f).hostPoison = s.hostPoison := rfl
@[simp] theorem State.updCluster_ev (k : Nat) (f : Cluster → Cluster) : (s.updCluster k f).ev = s.ev := rfl
@[simp] theorem State.updCluster_inputs (k : Nat) (f : Cluster → Cluster) : (s.updCluster k f).inputs = s.inputs := rfl
@[simp] theorem State.updCluster_cur (k : Nat) (f : Cluster → Cluster) : (s.updCluster k f).cur = s.cur := rfl
@[simp] theorem State.updCluster_serial (k : Nat) (f : Cluster → Cluster) : (s.updCluster k f).serial = s.serial := rfl
@[simp] theorem State.updCluster_stalled (k : Nat) (f : Cluster → Cluster) : (s.updCluster k f).stalled = s.stalled := rfl

/-! ### `State.setSlot` changes `slots` alone -/

@[simp] theorem State.setSlot_threads (k : Nat) (x : Slot) : (s.setSlot k x).threads = s.threads := rfl
@[simp] theorem State.setSlot_cores (k : Nat) (x : Slot) : (s.setSlot k x).cores = s.cores := rfl
@[simp] theorem State.setSlot_tiles (k : Nat) (x : Slot) : (s.setSlot k x).tiles = s.tiles := rfl
@[simp] theorem State.setSlot_clusters (k : Nat) (x : Slot) : (s.setSlot k x).clusters = s.clusters := rfl
@[simp] theorem State.setSlot_mem (k : Nat) (x : Slot) : (s.setSlot k x).mem = s.mem := rfl
@[simp] theorem State.setSlot_poison (k : Nat) (x : Slot) : (s.setSlot k x).poison = s.poison := rfl
@[simp] theorem State.setSlot_launches (k : Nat) (x : Slot) : (s.setSlot k x).launches = s.launches := rfl
@[simp] theorem State.setSlot_tasks (k : Nat) (x : Slot) : (s.setSlot k x).tasks = s.tasks := rfl
@[simp] theorem State.setSlot_graphs (k : Nat) (x : Slot) : (s.setSlot k x).graphs = s.graphs := rfl
@[simp] theorem State.setSlot_graphEnds (k : Nat) (x : Slot) : (s.setSlot k x).graphEnds = s.graphEnds := rfl
@[simp] theorem State.setSlot_queues (k : Nat) (x : Slot) : (s.setSlot k x).queues = s.queues := rfl
@[simp] theorem State.setSlot_images (k : Nat) (x : Slot) : (s.setSlot k x).images = s.images := rfl
@[simp] theorem State.setSlot_nextHandle (k : Nat) (x : Slot) : (s.setSlot k x).nextHandle = s.nextHandle := rfl
@[simp] theorem State.setSlot_nextTask (k : Nat) (x : Slot) : (s.setSlot k x).nextTask = s.nextTask := rfl
@[simp] theorem State.setSlot_watchReqs (k : Nat) (x : Slot) : (s.setSlot k x).watchReqs = s.watchReqs := rfl
@[simp] theorem State.setSlot_watchAnss (k : Nat) (x : Slot) : (s.setSlot k x).watchAnss = s.watchAnss := rfl
@[simp] theorem State.setSlot_requests (k : Nat) (x : Slot) : (s.setSlot k x).requests = s.requests := rfl
@[simp] theorem State.setSlot_replies (k : Nat) (x : Slot) : (s.setSlot k x).replies = s.replies := rfl
@[simp] theorem State.setSlot_accepts (k : Nat) (x : Slot) : (s.setSlot k x).accepts = s.accepts := rfl
@[simp] theorem State.setSlot_refusals (k : Nat) (x : Slot) : (s.setSlot k x).refusals = s.refusals := rfl
@[simp] theorem State.setSlot_ingress (k : Nat) (x : Slot) : (s.setSlot k x).ingress = s.ingress := rfl
@[simp] theorem State.setSlot_egress (k : Nat) (x : Slot) : (s.setSlot k x).egress = s.egress := rfl
@[simp] theorem State.setSlot_keyholeAsks (k : Nat) (x : Slot) : (s.setSlot k x).keyholeAsks = s.keyholeAsks := rfl
@[simp] theorem State.setSlot_keyholeOut (k : Nat) (x : Slot) : (s.setSlot k x).keyholeOut = s.keyholeOut := rfl
@[simp] theorem State.setSlot_keyholeIn (k : Nat) (x : Slot) : (s.setSlot k x).keyholeIn = s.keyholeIn := rfl
@[simp] theorem State.setSlot_keyholeSend (k : Nat) (x : Slot) : (s.setSlot k x).keyholeSend = s.keyholeSend := rfl
@[simp] theorem State.setSlot_ports (k : Nat) (x : Slot) : (s.setSlot k x).ports = s.ports := rfl
@[simp] theorem State.setSlot_keyPorts (k : Nat) (x : Slot) : (s.setSlot k x).keyPorts = s.keyPorts := rfl
@[simp] theorem State.setSlot_net (k : Nat) (x : Slot) : (s.setSlot k x).net = s.net := rfl
@[simp] theorem State.setSlot_regs (k : Nat) (x : Slot) : (s.setSlot k x).regs = s.regs := rfl
@[simp] theorem State.setSlot_fuse (k : Nat) (x : Slot) : (s.setSlot k x).fuse = s.fuse := rfl
@[simp] theorem State.setSlot_spdm (k : Nat) (x : Slot) : (s.setSlot k x).spdm = s.spdm := rfl
@[simp] theorem State.setSlot_attach (k : Nat) (x : Slot) : (s.setSlot k x).attach = s.attach := rfl
@[simp] theorem State.setSlot_stale (k : Nat) (x : Slot) : (s.setSlot k x).stale = s.stale := rfl
@[simp] theorem State.setSlot_ranges (k : Nat) (x : Slot) : (s.setSlot k x).ranges = s.ranges := rfl
@[simp] theorem State.setSlot_invalidations (k : Nat) (x : Slot) : (s.setSlot k x).invalidations = s.invalidations := rfl
@[simp] theorem State.setSlot_tlb (k : Nat) (x : Slot) : (s.setSlot k x).tlb = s.tlb := rfl
@[simp] theorem State.setSlot_msix (k : Nat) (x : Slot) : (s.setSlot k x).msix = s.msix := rfl
@[simp] theorem State.setSlot_counters (k : Nat) (x : Slot) : (s.setSlot k x).counters = s.counters := rfl
@[simp] theorem State.setSlot_snapshot (k : Nat) (x : Slot) : (s.setSlot k x).snapshot = s.snapshot := rfl
@[simp] theorem State.setSlot_snapAt (k : Nat) (x : Slot) : (s.setSlot k x).snapAt = s.snapAt := rfl
@[simp] theorem State.setSlot_served (k : Nat) (x : Slot) : (s.setSlot k x).served = s.served := rfl
@[simp] theorem State.setSlot_grace (k : Nat) (x : Slot) : (s.setSlot k x).grace = s.grace := rfl
@[simp] theorem State.setSlot_hostData (k : Nat) (x : Slot) : (s.setSlot k x).hostData = s.hostData := rfl
@[simp] theorem State.setSlot_hostPoison (k : Nat) (x : Slot) : (s.setSlot k x).hostPoison = s.hostPoison := rfl
@[simp] theorem State.setSlot_ev (k : Nat) (x : Slot) : (s.setSlot k x).ev = s.ev := rfl
@[simp] theorem State.setSlot_inputs (k : Nat) (x : Slot) : (s.setSlot k x).inputs = s.inputs := rfl
@[simp] theorem State.setSlot_cur (k : Nat) (x : Slot) : (s.setSlot k x).cur = s.cur := rfl
@[simp] theorem State.setSlot_serial (k : Nat) (x : Slot) : (s.setSlot k x).serial = s.serial := rfl
@[simp] theorem State.setSlot_stalled (k : Nat) (x : Slot) : (s.setSlot k x).stalled = s.stalled := rfl

/-! ### `State.updSlot` changes `slots` alone -/

@[simp] theorem State.updSlot_threads (k : Nat) (f : Slot → Slot) : (s.updSlot k f).threads = s.threads := rfl
@[simp] theorem State.updSlot_cores (k : Nat) (f : Slot → Slot) : (s.updSlot k f).cores = s.cores := rfl
@[simp] theorem State.updSlot_tiles (k : Nat) (f : Slot → Slot) : (s.updSlot k f).tiles = s.tiles := rfl
@[simp] theorem State.updSlot_clusters (k : Nat) (f : Slot → Slot) : (s.updSlot k f).clusters = s.clusters := rfl
@[simp] theorem State.updSlot_mem (k : Nat) (f : Slot → Slot) : (s.updSlot k f).mem = s.mem := rfl
@[simp] theorem State.updSlot_poison (k : Nat) (f : Slot → Slot) : (s.updSlot k f).poison = s.poison := rfl
@[simp] theorem State.updSlot_launches (k : Nat) (f : Slot → Slot) : (s.updSlot k f).launches = s.launches := rfl
@[simp] theorem State.updSlot_tasks (k : Nat) (f : Slot → Slot) : (s.updSlot k f).tasks = s.tasks := rfl
@[simp] theorem State.updSlot_graphs (k : Nat) (f : Slot → Slot) : (s.updSlot k f).graphs = s.graphs := rfl
@[simp] theorem State.updSlot_graphEnds (k : Nat) (f : Slot → Slot) : (s.updSlot k f).graphEnds = s.graphEnds := rfl
@[simp] theorem State.updSlot_queues (k : Nat) (f : Slot → Slot) : (s.updSlot k f).queues = s.queues := rfl
@[simp] theorem State.updSlot_images (k : Nat) (f : Slot → Slot) : (s.updSlot k f).images = s.images := rfl
@[simp] theorem State.updSlot_nextHandle (k : Nat) (f : Slot → Slot) : (s.updSlot k f).nextHandle = s.nextHandle := rfl
@[simp] theorem State.updSlot_nextTask (k : Nat) (f : Slot → Slot) : (s.updSlot k f).nextTask = s.nextTask := rfl
@[simp] theorem State.updSlot_watchReqs (k : Nat) (f : Slot → Slot) : (s.updSlot k f).watchReqs = s.watchReqs := rfl
@[simp] theorem State.updSlot_watchAnss (k : Nat) (f : Slot → Slot) : (s.updSlot k f).watchAnss = s.watchAnss := rfl
@[simp] theorem State.updSlot_requests (k : Nat) (f : Slot → Slot) : (s.updSlot k f).requests = s.requests := rfl
@[simp] theorem State.updSlot_replies (k : Nat) (f : Slot → Slot) : (s.updSlot k f).replies = s.replies := rfl
@[simp] theorem State.updSlot_accepts (k : Nat) (f : Slot → Slot) : (s.updSlot k f).accepts = s.accepts := rfl
@[simp] theorem State.updSlot_refusals (k : Nat) (f : Slot → Slot) : (s.updSlot k f).refusals = s.refusals := rfl
@[simp] theorem State.updSlot_ingress (k : Nat) (f : Slot → Slot) : (s.updSlot k f).ingress = s.ingress := rfl
@[simp] theorem State.updSlot_egress (k : Nat) (f : Slot → Slot) : (s.updSlot k f).egress = s.egress := rfl
@[simp] theorem State.updSlot_keyholeAsks (k : Nat) (f : Slot → Slot) : (s.updSlot k f).keyholeAsks = s.keyholeAsks := rfl
@[simp] theorem State.updSlot_keyholeOut (k : Nat) (f : Slot → Slot) : (s.updSlot k f).keyholeOut = s.keyholeOut := rfl
@[simp] theorem State.updSlot_keyholeIn (k : Nat) (f : Slot → Slot) : (s.updSlot k f).keyholeIn = s.keyholeIn := rfl
@[simp] theorem State.updSlot_keyholeSend (k : Nat) (f : Slot → Slot) : (s.updSlot k f).keyholeSend = s.keyholeSend := rfl
@[simp] theorem State.updSlot_ports (k : Nat) (f : Slot → Slot) : (s.updSlot k f).ports = s.ports := rfl
@[simp] theorem State.updSlot_keyPorts (k : Nat) (f : Slot → Slot) : (s.updSlot k f).keyPorts = s.keyPorts := rfl
@[simp] theorem State.updSlot_net (k : Nat) (f : Slot → Slot) : (s.updSlot k f).net = s.net := rfl
@[simp] theorem State.updSlot_regs (k : Nat) (f : Slot → Slot) : (s.updSlot k f).regs = s.regs := rfl
@[simp] theorem State.updSlot_fuse (k : Nat) (f : Slot → Slot) : (s.updSlot k f).fuse = s.fuse := rfl
@[simp] theorem State.updSlot_spdm (k : Nat) (f : Slot → Slot) : (s.updSlot k f).spdm = s.spdm := rfl
@[simp] theorem State.updSlot_attach (k : Nat) (f : Slot → Slot) : (s.updSlot k f).attach = s.attach := rfl
@[simp] theorem State.updSlot_stale (k : Nat) (f : Slot → Slot) : (s.updSlot k f).stale = s.stale := rfl
@[simp] theorem State.updSlot_ranges (k : Nat) (f : Slot → Slot) : (s.updSlot k f).ranges = s.ranges := rfl
@[simp] theorem State.updSlot_invalidations (k : Nat) (f : Slot → Slot) : (s.updSlot k f).invalidations = s.invalidations := rfl
@[simp] theorem State.updSlot_tlb (k : Nat) (f : Slot → Slot) : (s.updSlot k f).tlb = s.tlb := rfl
@[simp] theorem State.updSlot_msix (k : Nat) (f : Slot → Slot) : (s.updSlot k f).msix = s.msix := rfl
@[simp] theorem State.updSlot_counters (k : Nat) (f : Slot → Slot) : (s.updSlot k f).counters = s.counters := rfl
@[simp] theorem State.updSlot_snapshot (k : Nat) (f : Slot → Slot) : (s.updSlot k f).snapshot = s.snapshot := rfl
@[simp] theorem State.updSlot_snapAt (k : Nat) (f : Slot → Slot) : (s.updSlot k f).snapAt = s.snapAt := rfl
@[simp] theorem State.updSlot_served (k : Nat) (f : Slot → Slot) : (s.updSlot k f).served = s.served := rfl
@[simp] theorem State.updSlot_grace (k : Nat) (f : Slot → Slot) : (s.updSlot k f).grace = s.grace := rfl
@[simp] theorem State.updSlot_hostData (k : Nat) (f : Slot → Slot) : (s.updSlot k f).hostData = s.hostData := rfl
@[simp] theorem State.updSlot_hostPoison (k : Nat) (f : Slot → Slot) : (s.updSlot k f).hostPoison = s.hostPoison := rfl
@[simp] theorem State.updSlot_ev (k : Nat) (f : Slot → Slot) : (s.updSlot k f).ev = s.ev := rfl
@[simp] theorem State.updSlot_inputs (k : Nat) (f : Slot → Slot) : (s.updSlot k f).inputs = s.inputs := rfl
@[simp] theorem State.updSlot_cur (k : Nat) (f : Slot → Slot) : (s.updSlot k f).cur = s.cur := rfl
@[simp] theorem State.updSlot_serial (k : Nat) (f : Slot → Slot) : (s.updSlot k f).serial = s.serial := rfl
@[simp] theorem State.updSlot_stalled (k : Nat) (f : Slot → Slot) : (s.updSlot k f).stalled = s.stalled := rfl

/-! ### `State.setQueue` changes `queues` alone -/

@[simp] theorem State.setQueue_threads (k : Nat) (x : Queue) : (s.setQueue k x).threads = s.threads := rfl
@[simp] theorem State.setQueue_cores (k : Nat) (x : Queue) : (s.setQueue k x).cores = s.cores := rfl
@[simp] theorem State.setQueue_tiles (k : Nat) (x : Queue) : (s.setQueue k x).tiles = s.tiles := rfl
@[simp] theorem State.setQueue_clusters (k : Nat) (x : Queue) : (s.setQueue k x).clusters = s.clusters := rfl
@[simp] theorem State.setQueue_mem (k : Nat) (x : Queue) : (s.setQueue k x).mem = s.mem := rfl
@[simp] theorem State.setQueue_poison (k : Nat) (x : Queue) : (s.setQueue k x).poison = s.poison := rfl
@[simp] theorem State.setQueue_slots (k : Nat) (x : Queue) : (s.setQueue k x).slots = s.slots := rfl
@[simp] theorem State.setQueue_launches (k : Nat) (x : Queue) : (s.setQueue k x).launches = s.launches := rfl
@[simp] theorem State.setQueue_tasks (k : Nat) (x : Queue) : (s.setQueue k x).tasks = s.tasks := rfl
@[simp] theorem State.setQueue_graphs (k : Nat) (x : Queue) : (s.setQueue k x).graphs = s.graphs := rfl
@[simp] theorem State.setQueue_graphEnds (k : Nat) (x : Queue) : (s.setQueue k x).graphEnds = s.graphEnds := rfl
@[simp] theorem State.setQueue_images (k : Nat) (x : Queue) : (s.setQueue k x).images = s.images := rfl
@[simp] theorem State.setQueue_nextHandle (k : Nat) (x : Queue) : (s.setQueue k x).nextHandle = s.nextHandle := rfl
@[simp] theorem State.setQueue_nextTask (k : Nat) (x : Queue) : (s.setQueue k x).nextTask = s.nextTask := rfl
@[simp] theorem State.setQueue_watchReqs (k : Nat) (x : Queue) : (s.setQueue k x).watchReqs = s.watchReqs := rfl
@[simp] theorem State.setQueue_watchAnss (k : Nat) (x : Queue) : (s.setQueue k x).watchAnss = s.watchAnss := rfl
@[simp] theorem State.setQueue_requests (k : Nat) (x : Queue) : (s.setQueue k x).requests = s.requests := rfl
@[simp] theorem State.setQueue_replies (k : Nat) (x : Queue) : (s.setQueue k x).replies = s.replies := rfl
@[simp] theorem State.setQueue_accepts (k : Nat) (x : Queue) : (s.setQueue k x).accepts = s.accepts := rfl
@[simp] theorem State.setQueue_refusals (k : Nat) (x : Queue) : (s.setQueue k x).refusals = s.refusals := rfl
@[simp] theorem State.setQueue_ingress (k : Nat) (x : Queue) : (s.setQueue k x).ingress = s.ingress := rfl
@[simp] theorem State.setQueue_egress (k : Nat) (x : Queue) : (s.setQueue k x).egress = s.egress := rfl
@[simp] theorem State.setQueue_keyholeAsks (k : Nat) (x : Queue) : (s.setQueue k x).keyholeAsks = s.keyholeAsks := rfl
@[simp] theorem State.setQueue_keyholeOut (k : Nat) (x : Queue) : (s.setQueue k x).keyholeOut = s.keyholeOut := rfl
@[simp] theorem State.setQueue_keyholeIn (k : Nat) (x : Queue) : (s.setQueue k x).keyholeIn = s.keyholeIn := rfl
@[simp] theorem State.setQueue_keyholeSend (k : Nat) (x : Queue) : (s.setQueue k x).keyholeSend = s.keyholeSend := rfl
@[simp] theorem State.setQueue_ports (k : Nat) (x : Queue) : (s.setQueue k x).ports = s.ports := rfl
@[simp] theorem State.setQueue_keyPorts (k : Nat) (x : Queue) : (s.setQueue k x).keyPorts = s.keyPorts := rfl
@[simp] theorem State.setQueue_net (k : Nat) (x : Queue) : (s.setQueue k x).net = s.net := rfl
@[simp] theorem State.setQueue_regs (k : Nat) (x : Queue) : (s.setQueue k x).regs = s.regs := rfl
@[simp] theorem State.setQueue_fuse (k : Nat) (x : Queue) : (s.setQueue k x).fuse = s.fuse := rfl
@[simp] theorem State.setQueue_spdm (k : Nat) (x : Queue) : (s.setQueue k x).spdm = s.spdm := rfl
@[simp] theorem State.setQueue_attach (k : Nat) (x : Queue) : (s.setQueue k x).attach = s.attach := rfl
@[simp] theorem State.setQueue_stale (k : Nat) (x : Queue) : (s.setQueue k x).stale = s.stale := rfl
@[simp] theorem State.setQueue_ranges (k : Nat) (x : Queue) : (s.setQueue k x).ranges = s.ranges := rfl
@[simp] theorem State.setQueue_invalidations (k : Nat) (x : Queue) : (s.setQueue k x).invalidations = s.invalidations := rfl
@[simp] theorem State.setQueue_tlb (k : Nat) (x : Queue) : (s.setQueue k x).tlb = s.tlb := rfl
@[simp] theorem State.setQueue_msix (k : Nat) (x : Queue) : (s.setQueue k x).msix = s.msix := rfl
@[simp] theorem State.setQueue_counters (k : Nat) (x : Queue) : (s.setQueue k x).counters = s.counters := rfl
@[simp] theorem State.setQueue_snapshot (k : Nat) (x : Queue) : (s.setQueue k x).snapshot = s.snapshot := rfl
@[simp] theorem State.setQueue_snapAt (k : Nat) (x : Queue) : (s.setQueue k x).snapAt = s.snapAt := rfl
@[simp] theorem State.setQueue_served (k : Nat) (x : Queue) : (s.setQueue k x).served = s.served := rfl
@[simp] theorem State.setQueue_grace (k : Nat) (x : Queue) : (s.setQueue k x).grace = s.grace := rfl
@[simp] theorem State.setQueue_hostData (k : Nat) (x : Queue) : (s.setQueue k x).hostData = s.hostData := rfl
@[simp] theorem State.setQueue_hostPoison (k : Nat) (x : Queue) : (s.setQueue k x).hostPoison = s.hostPoison := rfl
@[simp] theorem State.setQueue_ev (k : Nat) (x : Queue) : (s.setQueue k x).ev = s.ev := rfl
@[simp] theorem State.setQueue_inputs (k : Nat) (x : Queue) : (s.setQueue k x).inputs = s.inputs := rfl
@[simp] theorem State.setQueue_cur (k : Nat) (x : Queue) : (s.setQueue k x).cur = s.cur := rfl
@[simp] theorem State.setQueue_serial (k : Nat) (x : Queue) : (s.setQueue k x).serial = s.serial := rfl
@[simp] theorem State.setQueue_stalled (k : Nat) (x : Queue) : (s.setQueue k x).stalled = s.stalled := rfl

/-! ### `State.updQueue` changes `queues` alone -/

@[simp] theorem State.updQueue_threads (k : Nat) (f : Queue → Queue) : (s.updQueue k f).threads = s.threads := rfl
@[simp] theorem State.updQueue_cores (k : Nat) (f : Queue → Queue) : (s.updQueue k f).cores = s.cores := rfl
@[simp] theorem State.updQueue_tiles (k : Nat) (f : Queue → Queue) : (s.updQueue k f).tiles = s.tiles := rfl
@[simp] theorem State.updQueue_clusters (k : Nat) (f : Queue → Queue) : (s.updQueue k f).clusters = s.clusters := rfl
@[simp] theorem State.updQueue_mem (k : Nat) (f : Queue → Queue) : (s.updQueue k f).mem = s.mem := rfl
@[simp] theorem State.updQueue_poison (k : Nat) (f : Queue → Queue) : (s.updQueue k f).poison = s.poison := rfl
@[simp] theorem State.updQueue_slots (k : Nat) (f : Queue → Queue) : (s.updQueue k f).slots = s.slots := rfl
@[simp] theorem State.updQueue_launches (k : Nat) (f : Queue → Queue) : (s.updQueue k f).launches = s.launches := rfl
@[simp] theorem State.updQueue_tasks (k : Nat) (f : Queue → Queue) : (s.updQueue k f).tasks = s.tasks := rfl
@[simp] theorem State.updQueue_graphs (k : Nat) (f : Queue → Queue) : (s.updQueue k f).graphs = s.graphs := rfl
@[simp] theorem State.updQueue_graphEnds (k : Nat) (f : Queue → Queue) : (s.updQueue k f).graphEnds = s.graphEnds := rfl
@[simp] theorem State.updQueue_images (k : Nat) (f : Queue → Queue) : (s.updQueue k f).images = s.images := rfl
@[simp] theorem State.updQueue_nextHandle (k : Nat) (f : Queue → Queue) : (s.updQueue k f).nextHandle = s.nextHandle := rfl
@[simp] theorem State.updQueue_nextTask (k : Nat) (f : Queue → Queue) : (s.updQueue k f).nextTask = s.nextTask := rfl
@[simp] theorem State.updQueue_watchReqs (k : Nat) (f : Queue → Queue) : (s.updQueue k f).watchReqs = s.watchReqs := rfl
@[simp] theorem State.updQueue_watchAnss (k : Nat) (f : Queue → Queue) : (s.updQueue k f).watchAnss = s.watchAnss := rfl
@[simp] theorem State.updQueue_requests (k : Nat) (f : Queue → Queue) : (s.updQueue k f).requests = s.requests := rfl
@[simp] theorem State.updQueue_replies (k : Nat) (f : Queue → Queue) : (s.updQueue k f).replies = s.replies := rfl
@[simp] theorem State.updQueue_accepts (k : Nat) (f : Queue → Queue) : (s.updQueue k f).accepts = s.accepts := rfl
@[simp] theorem State.updQueue_refusals (k : Nat) (f : Queue → Queue) : (s.updQueue k f).refusals = s.refusals := rfl
@[simp] theorem State.updQueue_ingress (k : Nat) (f : Queue → Queue) : (s.updQueue k f).ingress = s.ingress := rfl
@[simp] theorem State.updQueue_egress (k : Nat) (f : Queue → Queue) : (s.updQueue k f).egress = s.egress := rfl
@[simp] theorem State.updQueue_keyholeAsks (k : Nat) (f : Queue → Queue) : (s.updQueue k f).keyholeAsks = s.keyholeAsks := rfl
@[simp] theorem State.updQueue_keyholeOut (k : Nat) (f : Queue → Queue) : (s.updQueue k f).keyholeOut = s.keyholeOut := rfl
@[simp] theorem State.updQueue_keyholeIn (k : Nat) (f : Queue → Queue) : (s.updQueue k f).keyholeIn = s.keyholeIn := rfl
@[simp] theorem State.updQueue_keyholeSend (k : Nat) (f : Queue → Queue) : (s.updQueue k f).keyholeSend = s.keyholeSend := rfl
@[simp] theorem State.updQueue_ports (k : Nat) (f : Queue → Queue) : (s.updQueue k f).ports = s.ports := rfl
@[simp] theorem State.updQueue_keyPorts (k : Nat) (f : Queue → Queue) : (s.updQueue k f).keyPorts = s.keyPorts := rfl
@[simp] theorem State.updQueue_net (k : Nat) (f : Queue → Queue) : (s.updQueue k f).net = s.net := rfl
@[simp] theorem State.updQueue_regs (k : Nat) (f : Queue → Queue) : (s.updQueue k f).regs = s.regs := rfl
@[simp] theorem State.updQueue_fuse (k : Nat) (f : Queue → Queue) : (s.updQueue k f).fuse = s.fuse := rfl
@[simp] theorem State.updQueue_spdm (k : Nat) (f : Queue → Queue) : (s.updQueue k f).spdm = s.spdm := rfl
@[simp] theorem State.updQueue_attach (k : Nat) (f : Queue → Queue) : (s.updQueue k f).attach = s.attach := rfl
@[simp] theorem State.updQueue_stale (k : Nat) (f : Queue → Queue) : (s.updQueue k f).stale = s.stale := rfl
@[simp] theorem State.updQueue_ranges (k : Nat) (f : Queue → Queue) : (s.updQueue k f).ranges = s.ranges := rfl
@[simp] theorem State.updQueue_invalidations (k : Nat) (f : Queue → Queue) : (s.updQueue k f).invalidations = s.invalidations := rfl
@[simp] theorem State.updQueue_tlb (k : Nat) (f : Queue → Queue) : (s.updQueue k f).tlb = s.tlb := rfl
@[simp] theorem State.updQueue_msix (k : Nat) (f : Queue → Queue) : (s.updQueue k f).msix = s.msix := rfl
@[simp] theorem State.updQueue_counters (k : Nat) (f : Queue → Queue) : (s.updQueue k f).counters = s.counters := rfl
@[simp] theorem State.updQueue_snapshot (k : Nat) (f : Queue → Queue) : (s.updQueue k f).snapshot = s.snapshot := rfl
@[simp] theorem State.updQueue_snapAt (k : Nat) (f : Queue → Queue) : (s.updQueue k f).snapAt = s.snapAt := rfl
@[simp] theorem State.updQueue_served (k : Nat) (f : Queue → Queue) : (s.updQueue k f).served = s.served := rfl
@[simp] theorem State.updQueue_grace (k : Nat) (f : Queue → Queue) : (s.updQueue k f).grace = s.grace := rfl
@[simp] theorem State.updQueue_hostData (k : Nat) (f : Queue → Queue) : (s.updQueue k f).hostData = s.hostData := rfl
@[simp] theorem State.updQueue_hostPoison (k : Nat) (f : Queue → Queue) : (s.updQueue k f).hostPoison = s.hostPoison := rfl
@[simp] theorem State.updQueue_ev (k : Nat) (f : Queue → Queue) : (s.updQueue k f).ev = s.ev := rfl
@[simp] theorem State.updQueue_inputs (k : Nat) (f : Queue → Queue) : (s.updQueue k f).inputs = s.inputs := rfl
@[simp] theorem State.updQueue_cur (k : Nat) (f : Queue → Queue) : (s.updQueue k f).cur = s.cur := rfl
@[simp] theorem State.updQueue_serial (k : Nat) (f : Queue → Queue) : (s.updQueue k f).serial = s.serial := rfl
@[simp] theorem State.updQueue_stalled (k : Nat) (f : Queue → Queue) : (s.updQueue k f).stalled = s.stalled := rfl

/-! ### `State.bump` changes `serial` alone -/

@[simp] theorem State.bump_threads : (s.bump).threads = s.threads := rfl
@[simp] theorem State.bump_cores : (s.bump).cores = s.cores := rfl
@[simp] theorem State.bump_tiles : (s.bump).tiles = s.tiles := rfl
@[simp] theorem State.bump_clusters : (s.bump).clusters = s.clusters := rfl
@[simp] theorem State.bump_mem : (s.bump).mem = s.mem := rfl
@[simp] theorem State.bump_poison : (s.bump).poison = s.poison := rfl
@[simp] theorem State.bump_slots : (s.bump).slots = s.slots := rfl
@[simp] theorem State.bump_launches : (s.bump).launches = s.launches := rfl
@[simp] theorem State.bump_tasks : (s.bump).tasks = s.tasks := rfl
@[simp] theorem State.bump_graphs : (s.bump).graphs = s.graphs := rfl
@[simp] theorem State.bump_graphEnds : (s.bump).graphEnds = s.graphEnds := rfl
@[simp] theorem State.bump_queues : (s.bump).queues = s.queues := rfl
@[simp] theorem State.bump_images : (s.bump).images = s.images := rfl
@[simp] theorem State.bump_nextHandle : (s.bump).nextHandle = s.nextHandle := rfl
@[simp] theorem State.bump_nextTask : (s.bump).nextTask = s.nextTask := rfl
@[simp] theorem State.bump_watchReqs : (s.bump).watchReqs = s.watchReqs := rfl
@[simp] theorem State.bump_watchAnss : (s.bump).watchAnss = s.watchAnss := rfl
@[simp] theorem State.bump_requests : (s.bump).requests = s.requests := rfl
@[simp] theorem State.bump_replies : (s.bump).replies = s.replies := rfl
@[simp] theorem State.bump_accepts : (s.bump).accepts = s.accepts := rfl
@[simp] theorem State.bump_refusals : (s.bump).refusals = s.refusals := rfl
@[simp] theorem State.bump_ingress : (s.bump).ingress = s.ingress := rfl
@[simp] theorem State.bump_egress : (s.bump).egress = s.egress := rfl
@[simp] theorem State.bump_keyholeAsks : (s.bump).keyholeAsks = s.keyholeAsks := rfl
@[simp] theorem State.bump_keyholeOut : (s.bump).keyholeOut = s.keyholeOut := rfl
@[simp] theorem State.bump_keyholeIn : (s.bump).keyholeIn = s.keyholeIn := rfl
@[simp] theorem State.bump_keyholeSend : (s.bump).keyholeSend = s.keyholeSend := rfl
@[simp] theorem State.bump_ports : (s.bump).ports = s.ports := rfl
@[simp] theorem State.bump_keyPorts : (s.bump).keyPorts = s.keyPorts := rfl
@[simp] theorem State.bump_net : (s.bump).net = s.net := rfl
@[simp] theorem State.bump_regs : (s.bump).regs = s.regs := rfl
@[simp] theorem State.bump_fuse : (s.bump).fuse = s.fuse := rfl
@[simp] theorem State.bump_spdm : (s.bump).spdm = s.spdm := rfl
@[simp] theorem State.bump_attach : (s.bump).attach = s.attach := rfl
@[simp] theorem State.bump_stale : (s.bump).stale = s.stale := rfl
@[simp] theorem State.bump_ranges : (s.bump).ranges = s.ranges := rfl
@[simp] theorem State.bump_invalidations : (s.bump).invalidations = s.invalidations := rfl
@[simp] theorem State.bump_tlb : (s.bump).tlb = s.tlb := rfl
@[simp] theorem State.bump_msix : (s.bump).msix = s.msix := rfl
@[simp] theorem State.bump_counters : (s.bump).counters = s.counters := rfl
@[simp] theorem State.bump_snapshot : (s.bump).snapshot = s.snapshot := rfl
@[simp] theorem State.bump_snapAt : (s.bump).snapAt = s.snapAt := rfl
@[simp] theorem State.bump_served : (s.bump).served = s.served := rfl
@[simp] theorem State.bump_grace : (s.bump).grace = s.grace := rfl
@[simp] theorem State.bump_hostData : (s.bump).hostData = s.hostData := rfl
@[simp] theorem State.bump_hostPoison : (s.bump).hostPoison = s.hostPoison := rfl
@[simp] theorem State.bump_ev : (s.bump).ev = s.ev := rfl
@[simp] theorem State.bump_inputs : (s.bump).inputs = s.inputs := rfl
@[simp] theorem State.bump_cur : (s.bump).cur = s.cur := rfl
@[simp] theorem State.bump_stalled : (s.bump).stalled = s.stalled := rfl

/-! ### `State.count` changes `counters` alone -/

@[simp] theorem State.count_threads (k n : Nat) : (s.count k n).threads = s.threads := rfl
@[simp] theorem State.count_cores (k n : Nat) : (s.count k n).cores = s.cores := rfl
@[simp] theorem State.count_tiles (k n : Nat) : (s.count k n).tiles = s.tiles := rfl
@[simp] theorem State.count_clusters (k n : Nat) : (s.count k n).clusters = s.clusters := rfl
@[simp] theorem State.count_mem (k n : Nat) : (s.count k n).mem = s.mem := rfl
@[simp] theorem State.count_poison (k n : Nat) : (s.count k n).poison = s.poison := rfl
@[simp] theorem State.count_slots (k n : Nat) : (s.count k n).slots = s.slots := rfl
@[simp] theorem State.count_launches (k n : Nat) : (s.count k n).launches = s.launches := rfl
@[simp] theorem State.count_tasks (k n : Nat) : (s.count k n).tasks = s.tasks := rfl
@[simp] theorem State.count_graphs (k n : Nat) : (s.count k n).graphs = s.graphs := rfl
@[simp] theorem State.count_graphEnds (k n : Nat) : (s.count k n).graphEnds = s.graphEnds := rfl
@[simp] theorem State.count_queues (k n : Nat) : (s.count k n).queues = s.queues := rfl
@[simp] theorem State.count_images (k n : Nat) : (s.count k n).images = s.images := rfl
@[simp] theorem State.count_nextHandle (k n : Nat) : (s.count k n).nextHandle = s.nextHandle := rfl
@[simp] theorem State.count_nextTask (k n : Nat) : (s.count k n).nextTask = s.nextTask := rfl
@[simp] theorem State.count_watchReqs (k n : Nat) : (s.count k n).watchReqs = s.watchReqs := rfl
@[simp] theorem State.count_watchAnss (k n : Nat) : (s.count k n).watchAnss = s.watchAnss := rfl
@[simp] theorem State.count_requests (k n : Nat) : (s.count k n).requests = s.requests := rfl
@[simp] theorem State.count_replies (k n : Nat) : (s.count k n).replies = s.replies := rfl
@[simp] theorem State.count_accepts (k n : Nat) : (s.count k n).accepts = s.accepts := rfl
@[simp] theorem State.count_refusals (k n : Nat) : (s.count k n).refusals = s.refusals := rfl
@[simp] theorem State.count_ingress (k n : Nat) : (s.count k n).ingress = s.ingress := rfl
@[simp] theorem State.count_egress (k n : Nat) : (s.count k n).egress = s.egress := rfl
@[simp] theorem State.count_keyholeAsks (k n : Nat) : (s.count k n).keyholeAsks = s.keyholeAsks := rfl
@[simp] theorem State.count_keyholeOut (k n : Nat) : (s.count k n).keyholeOut = s.keyholeOut := rfl
@[simp] theorem State.count_keyholeIn (k n : Nat) : (s.count k n).keyholeIn = s.keyholeIn := rfl
@[simp] theorem State.count_keyholeSend (k n : Nat) : (s.count k n).keyholeSend = s.keyholeSend := rfl
@[simp] theorem State.count_ports (k n : Nat) : (s.count k n).ports = s.ports := rfl
@[simp] theorem State.count_keyPorts (k n : Nat) : (s.count k n).keyPorts = s.keyPorts := rfl
@[simp] theorem State.count_net (k n : Nat) : (s.count k n).net = s.net := rfl
@[simp] theorem State.count_regs (k n : Nat) : (s.count k n).regs = s.regs := rfl
@[simp] theorem State.count_fuse (k n : Nat) : (s.count k n).fuse = s.fuse := rfl
@[simp] theorem State.count_spdm (k n : Nat) : (s.count k n).spdm = s.spdm := rfl
@[simp] theorem State.count_attach (k n : Nat) : (s.count k n).attach = s.attach := rfl
@[simp] theorem State.count_stale (k n : Nat) : (s.count k n).stale = s.stale := rfl
@[simp] theorem State.count_ranges (k n : Nat) : (s.count k n).ranges = s.ranges := rfl
@[simp] theorem State.count_invalidations (k n : Nat) : (s.count k n).invalidations = s.invalidations := rfl
@[simp] theorem State.count_tlb (k n : Nat) : (s.count k n).tlb = s.tlb := rfl
@[simp] theorem State.count_msix (k n : Nat) : (s.count k n).msix = s.msix := rfl
@[simp] theorem State.count_snapshot (k n : Nat) : (s.count k n).snapshot = s.snapshot := rfl
@[simp] theorem State.count_snapAt (k n : Nat) : (s.count k n).snapAt = s.snapAt := rfl
@[simp] theorem State.count_served (k n : Nat) : (s.count k n).served = s.served := rfl
@[simp] theorem State.count_grace (k n : Nat) : (s.count k n).grace = s.grace := rfl
@[simp] theorem State.count_hostData (k n : Nat) : (s.count k n).hostData = s.hostData := rfl
@[simp] theorem State.count_hostPoison (k n : Nat) : (s.count k n).hostPoison = s.hostPoison := rfl
@[simp] theorem State.count_ev (k n : Nat) : (s.count k n).ev = s.ev := rfl
@[simp] theorem State.count_inputs (k n : Nat) : (s.count k n).inputs = s.inputs := rfl
@[simp] theorem State.count_cur (k n : Nat) : (s.count k n).cur = s.cur := rfl
@[simp] theorem State.count_serial (k n : Nat) : (s.count k n).serial = s.serial := rfl
@[simp] theorem State.count_stalled (k n : Nat) : (s.count k n).stalled = s.stalled := rfl

/-! ### `State.signal` changes `msix` alone -/

@[simp] theorem State.signal_threads (v : Nat) : (s.signal v).threads = s.threads := rfl
@[simp] theorem State.signal_cores (v : Nat) : (s.signal v).cores = s.cores := rfl
@[simp] theorem State.signal_tiles (v : Nat) : (s.signal v).tiles = s.tiles := rfl
@[simp] theorem State.signal_clusters (v : Nat) : (s.signal v).clusters = s.clusters := rfl
@[simp] theorem State.signal_mem (v : Nat) : (s.signal v).mem = s.mem := rfl
@[simp] theorem State.signal_poison (v : Nat) : (s.signal v).poison = s.poison := rfl
@[simp] theorem State.signal_slots (v : Nat) : (s.signal v).slots = s.slots := rfl
@[simp] theorem State.signal_launches (v : Nat) : (s.signal v).launches = s.launches := rfl
@[simp] theorem State.signal_tasks (v : Nat) : (s.signal v).tasks = s.tasks := rfl
@[simp] theorem State.signal_graphs (v : Nat) : (s.signal v).graphs = s.graphs := rfl
@[simp] theorem State.signal_graphEnds (v : Nat) : (s.signal v).graphEnds = s.graphEnds := rfl
@[simp] theorem State.signal_queues (v : Nat) : (s.signal v).queues = s.queues := rfl
@[simp] theorem State.signal_images (v : Nat) : (s.signal v).images = s.images := rfl
@[simp] theorem State.signal_nextHandle (v : Nat) : (s.signal v).nextHandle = s.nextHandle := rfl
@[simp] theorem State.signal_nextTask (v : Nat) : (s.signal v).nextTask = s.nextTask := rfl
@[simp] theorem State.signal_watchReqs (v : Nat) : (s.signal v).watchReqs = s.watchReqs := rfl
@[simp] theorem State.signal_watchAnss (v : Nat) : (s.signal v).watchAnss = s.watchAnss := rfl
@[simp] theorem State.signal_requests (v : Nat) : (s.signal v).requests = s.requests := rfl
@[simp] theorem State.signal_replies (v : Nat) : (s.signal v).replies = s.replies := rfl
@[simp] theorem State.signal_accepts (v : Nat) : (s.signal v).accepts = s.accepts := rfl
@[simp] theorem State.signal_refusals (v : Nat) : (s.signal v).refusals = s.refusals := rfl
@[simp] theorem State.signal_ingress (v : Nat) : (s.signal v).ingress = s.ingress := rfl
@[simp] theorem State.signal_egress (v : Nat) : (s.signal v).egress = s.egress := rfl
@[simp] theorem State.signal_keyholeAsks (v : Nat) : (s.signal v).keyholeAsks = s.keyholeAsks := rfl
@[simp] theorem State.signal_keyholeOut (v : Nat) : (s.signal v).keyholeOut = s.keyholeOut := rfl
@[simp] theorem State.signal_keyholeIn (v : Nat) : (s.signal v).keyholeIn = s.keyholeIn := rfl
@[simp] theorem State.signal_keyholeSend (v : Nat) : (s.signal v).keyholeSend = s.keyholeSend := rfl
@[simp] theorem State.signal_ports (v : Nat) : (s.signal v).ports = s.ports := rfl
@[simp] theorem State.signal_keyPorts (v : Nat) : (s.signal v).keyPorts = s.keyPorts := rfl
@[simp] theorem State.signal_net (v : Nat) : (s.signal v).net = s.net := rfl
@[simp] theorem State.signal_regs (v : Nat) : (s.signal v).regs = s.regs := rfl
@[simp] theorem State.signal_fuse (v : Nat) : (s.signal v).fuse = s.fuse := rfl
@[simp] theorem State.signal_spdm (v : Nat) : (s.signal v).spdm = s.spdm := rfl
@[simp] theorem State.signal_attach (v : Nat) : (s.signal v).attach = s.attach := rfl
@[simp] theorem State.signal_stale (v : Nat) : (s.signal v).stale = s.stale := rfl
@[simp] theorem State.signal_ranges (v : Nat) : (s.signal v).ranges = s.ranges := rfl
@[simp] theorem State.signal_invalidations (v : Nat) : (s.signal v).invalidations = s.invalidations := rfl
@[simp] theorem State.signal_tlb (v : Nat) : (s.signal v).tlb = s.tlb := rfl
@[simp] theorem State.signal_counters (v : Nat) : (s.signal v).counters = s.counters := rfl
@[simp] theorem State.signal_snapshot (v : Nat) : (s.signal v).snapshot = s.snapshot := rfl
@[simp] theorem State.signal_snapAt (v : Nat) : (s.signal v).snapAt = s.snapAt := rfl
@[simp] theorem State.signal_served (v : Nat) : (s.signal v).served = s.served := rfl
@[simp] theorem State.signal_grace (v : Nat) : (s.signal v).grace = s.grace := rfl
@[simp] theorem State.signal_hostData (v : Nat) : (s.signal v).hostData = s.hostData := rfl
@[simp] theorem State.signal_hostPoison (v : Nat) : (s.signal v).hostPoison = s.hostPoison := rfl
@[simp] theorem State.signal_ev (v : Nat) : (s.signal v).ev = s.ev := rfl
@[simp] theorem State.signal_inputs (v : Nat) : (s.signal v).inputs = s.inputs := rfl
@[simp] theorem State.signal_cur (v : Nat) : (s.signal v).cur = s.cur := rfl
@[simp] theorem State.signal_serial (v : Nat) : (s.signal v).serial = s.serial := rfl
@[simp] theorem State.signal_stalled (v : Nat) : (s.signal v).stalled = s.stalled := rfl

/-! ### `State.updPort` changes `ports` and `keyPorts` alone -/

@[simp] theorem State.updPort_threads (p : Nat) (f : Port → Port) : (s.updPort p f).threads = s.threads := rfl
@[simp] theorem State.updPort_cores (p : Nat) (f : Port → Port) : (s.updPort p f).cores = s.cores := rfl
@[simp] theorem State.updPort_tiles (p : Nat) (f : Port → Port) : (s.updPort p f).tiles = s.tiles := rfl
@[simp] theorem State.updPort_clusters (p : Nat) (f : Port → Port) : (s.updPort p f).clusters = s.clusters := rfl
@[simp] theorem State.updPort_mem (p : Nat) (f : Port → Port) : (s.updPort p f).mem = s.mem := rfl
@[simp] theorem State.updPort_poison (p : Nat) (f : Port → Port) : (s.updPort p f).poison = s.poison := rfl
@[simp] theorem State.updPort_slots (p : Nat) (f : Port → Port) : (s.updPort p f).slots = s.slots := rfl
@[simp] theorem State.updPort_launches (p : Nat) (f : Port → Port) : (s.updPort p f).launches = s.launches := rfl
@[simp] theorem State.updPort_tasks (p : Nat) (f : Port → Port) : (s.updPort p f).tasks = s.tasks := rfl
@[simp] theorem State.updPort_graphs (p : Nat) (f : Port → Port) : (s.updPort p f).graphs = s.graphs := rfl
@[simp] theorem State.updPort_graphEnds (p : Nat) (f : Port → Port) : (s.updPort p f).graphEnds = s.graphEnds := rfl
@[simp] theorem State.updPort_queues (p : Nat) (f : Port → Port) : (s.updPort p f).queues = s.queues := rfl
@[simp] theorem State.updPort_images (p : Nat) (f : Port → Port) : (s.updPort p f).images = s.images := rfl
@[simp] theorem State.updPort_nextHandle (p : Nat) (f : Port → Port) : (s.updPort p f).nextHandle = s.nextHandle := rfl
@[simp] theorem State.updPort_nextTask (p : Nat) (f : Port → Port) : (s.updPort p f).nextTask = s.nextTask := rfl
@[simp] theorem State.updPort_watchReqs (p : Nat) (f : Port → Port) : (s.updPort p f).watchReqs = s.watchReqs := rfl
@[simp] theorem State.updPort_watchAnss (p : Nat) (f : Port → Port) : (s.updPort p f).watchAnss = s.watchAnss := rfl
@[simp] theorem State.updPort_requests (p : Nat) (f : Port → Port) : (s.updPort p f).requests = s.requests := rfl
@[simp] theorem State.updPort_replies (p : Nat) (f : Port → Port) : (s.updPort p f).replies = s.replies := rfl
@[simp] theorem State.updPort_accepts (p : Nat) (f : Port → Port) : (s.updPort p f).accepts = s.accepts := rfl
@[simp] theorem State.updPort_refusals (p : Nat) (f : Port → Port) : (s.updPort p f).refusals = s.refusals := rfl
@[simp] theorem State.updPort_ingress (p : Nat) (f : Port → Port) : (s.updPort p f).ingress = s.ingress := rfl
@[simp] theorem State.updPort_egress (p : Nat) (f : Port → Port) : (s.updPort p f).egress = s.egress := rfl
@[simp] theorem State.updPort_keyholeOut (p : Nat) (f : Port → Port) : (s.updPort p f).keyholeOut = s.keyholeOut := rfl
@[simp] theorem State.updPort_keyholeIn (p : Nat) (f : Port → Port) : (s.updPort p f).keyholeIn = s.keyholeIn := rfl
@[simp] theorem State.updPort_keyholeSend (p : Nat) (f : Port → Port) : (s.updPort p f).keyholeSend = s.keyholeSend := rfl
@[simp] theorem State.updPort_keyholeAsks (p : Nat) (f : Port → Port) : (s.updPort p f).keyholeAsks = s.keyholeAsks := rfl
@[simp] theorem State.updPort_net (p : Nat) (f : Port → Port) : (s.updPort p f).net = s.net := rfl
@[simp] theorem State.updPort_regs (p : Nat) (f : Port → Port) : (s.updPort p f).regs = s.regs := rfl
@[simp] theorem State.updPort_fuse (p : Nat) (f : Port → Port) : (s.updPort p f).fuse = s.fuse := rfl
@[simp] theorem State.updPort_spdm (p : Nat) (f : Port → Port) : (s.updPort p f).spdm = s.spdm := rfl
@[simp] theorem State.updPort_attach (p : Nat) (f : Port → Port) : (s.updPort p f).attach = s.attach := rfl
@[simp] theorem State.updPort_stale (p : Nat) (f : Port → Port) : (s.updPort p f).stale = s.stale := rfl
@[simp] theorem State.updPort_ranges (p : Nat) (f : Port → Port) : (s.updPort p f).ranges = s.ranges := rfl
@[simp] theorem State.updPort_invalidations (p : Nat) (f : Port → Port) : (s.updPort p f).invalidations = s.invalidations := rfl
@[simp] theorem State.updPort_tlb (p : Nat) (f : Port → Port) : (s.updPort p f).tlb = s.tlb := rfl
@[simp] theorem State.updPort_msix (p : Nat) (f : Port → Port) : (s.updPort p f).msix = s.msix := rfl
@[simp] theorem State.updPort_counters (p : Nat) (f : Port → Port) : (s.updPort p f).counters = s.counters := rfl
@[simp] theorem State.updPort_snapshot (p : Nat) (f : Port → Port) : (s.updPort p f).snapshot = s.snapshot := rfl
@[simp] theorem State.updPort_snapAt (p : Nat) (f : Port → Port) : (s.updPort p f).snapAt = s.snapAt := rfl
@[simp] theorem State.updPort_served (p : Nat) (f : Port → Port) : (s.updPort p f).served = s.served := rfl
@[simp] theorem State.updPort_grace (p : Nat) (f : Port → Port) : (s.updPort p f).grace = s.grace := rfl
@[simp] theorem State.updPort_hostData (p : Nat) (f : Port → Port) : (s.updPort p f).hostData = s.hostData := rfl
@[simp] theorem State.updPort_hostPoison (p : Nat) (f : Port → Port) : (s.updPort p f).hostPoison = s.hostPoison := rfl
@[simp] theorem State.updPort_ev (p : Nat) (f : Port → Port) : (s.updPort p f).ev = s.ev := rfl
@[simp] theorem State.updPort_inputs (p : Nat) (f : Port → Port) : (s.updPort p f).inputs = s.inputs := rfl
@[simp] theorem State.updPort_cur (p : Nat) (f : Port → Port) : (s.updPort p f).cur = s.cur := rfl
@[simp] theorem State.updPort_serial (p : Nat) (f : Port → Port) : (s.updPort p f).serial = s.serial := rfl
@[simp] theorem State.updPort_stalled (p : Nat) (f : Port → Port) : (s.updPort p f).stalled = s.stalled := rfl

/-! ### `State.updNet` changes `net` alone -/

@[simp] theorem State.updNet_threads (f : Net → Net) : (s.updNet f).threads = s.threads := rfl
@[simp] theorem State.updNet_cores (f : Net → Net) : (s.updNet f).cores = s.cores := rfl
@[simp] theorem State.updNet_tiles (f : Net → Net) : (s.updNet f).tiles = s.tiles := rfl
@[simp] theorem State.updNet_clusters (f : Net → Net) : (s.updNet f).clusters = s.clusters := rfl
@[simp] theorem State.updNet_mem (f : Net → Net) : (s.updNet f).mem = s.mem := rfl
@[simp] theorem State.updNet_poison (f : Net → Net) : (s.updNet f).poison = s.poison := rfl
@[simp] theorem State.updNet_slots (f : Net → Net) : (s.updNet f).slots = s.slots := rfl
@[simp] theorem State.updNet_launches (f : Net → Net) : (s.updNet f).launches = s.launches := rfl
@[simp] theorem State.updNet_tasks (f : Net → Net) : (s.updNet f).tasks = s.tasks := rfl
@[simp] theorem State.updNet_graphs (f : Net → Net) : (s.updNet f).graphs = s.graphs := rfl
@[simp] theorem State.updNet_graphEnds (f : Net → Net) : (s.updNet f).graphEnds = s.graphEnds := rfl
@[simp] theorem State.updNet_queues (f : Net → Net) : (s.updNet f).queues = s.queues := rfl
@[simp] theorem State.updNet_images (f : Net → Net) : (s.updNet f).images = s.images := rfl
@[simp] theorem State.updNet_nextHandle (f : Net → Net) : (s.updNet f).nextHandle = s.nextHandle := rfl
@[simp] theorem State.updNet_nextTask (f : Net → Net) : (s.updNet f).nextTask = s.nextTask := rfl
@[simp] theorem State.updNet_watchReqs (f : Net → Net) : (s.updNet f).watchReqs = s.watchReqs := rfl
@[simp] theorem State.updNet_watchAnss (f : Net → Net) : (s.updNet f).watchAnss = s.watchAnss := rfl
@[simp] theorem State.updNet_requests (f : Net → Net) : (s.updNet f).requests = s.requests := rfl
@[simp] theorem State.updNet_replies (f : Net → Net) : (s.updNet f).replies = s.replies := rfl
@[simp] theorem State.updNet_accepts (f : Net → Net) : (s.updNet f).accepts = s.accepts := rfl
@[simp] theorem State.updNet_refusals (f : Net → Net) : (s.updNet f).refusals = s.refusals := rfl
@[simp] theorem State.updNet_ingress (f : Net → Net) : (s.updNet f).ingress = s.ingress := rfl
@[simp] theorem State.updNet_egress (f : Net → Net) : (s.updNet f).egress = s.egress := rfl
@[simp] theorem State.updNet_keyholeOut (f : Net → Net) : (s.updNet f).keyholeOut = s.keyholeOut := rfl
@[simp] theorem State.updNet_keyholeIn (f : Net → Net) : (s.updNet f).keyholeIn = s.keyholeIn := rfl
@[simp] theorem State.updNet_keyholeSend (f : Net → Net) : (s.updNet f).keyholeSend = s.keyholeSend := rfl
@[simp] theorem State.updNet_keyholeAsks (f : Net → Net) : (s.updNet f).keyholeAsks = s.keyholeAsks := rfl
@[simp] theorem State.updNet_ports (f : Net → Net) : (s.updNet f).ports = s.ports := rfl
@[simp] theorem State.updNet_keyPorts (f : Net → Net) : (s.updNet f).keyPorts = s.keyPorts := rfl
@[simp] theorem State.updNet_regs (f : Net → Net) : (s.updNet f).regs = s.regs := rfl
@[simp] theorem State.updNet_fuse (f : Net → Net) : (s.updNet f).fuse = s.fuse := rfl
@[simp] theorem State.updNet_spdm (f : Net → Net) : (s.updNet f).spdm = s.spdm := rfl
@[simp] theorem State.updNet_attach (f : Net → Net) : (s.updNet f).attach = s.attach := rfl
@[simp] theorem State.updNet_stale (f : Net → Net) : (s.updNet f).stale = s.stale := rfl
@[simp] theorem State.updNet_ranges (f : Net → Net) : (s.updNet f).ranges = s.ranges := rfl
@[simp] theorem State.updNet_invalidations (f : Net → Net) : (s.updNet f).invalidations = s.invalidations := rfl
@[simp] theorem State.updNet_tlb (f : Net → Net) : (s.updNet f).tlb = s.tlb := rfl
@[simp] theorem State.updNet_msix (f : Net → Net) : (s.updNet f).msix = s.msix := rfl
@[simp] theorem State.updNet_counters (f : Net → Net) : (s.updNet f).counters = s.counters := rfl
@[simp] theorem State.updNet_snapshot (f : Net → Net) : (s.updNet f).snapshot = s.snapshot := rfl
@[simp] theorem State.updNet_snapAt (f : Net → Net) : (s.updNet f).snapAt = s.snapAt := rfl
@[simp] theorem State.updNet_served (f : Net → Net) : (s.updNet f).served = s.served := rfl
@[simp] theorem State.updNet_grace (f : Net → Net) : (s.updNet f).grace = s.grace := rfl
@[simp] theorem State.updNet_hostData (f : Net → Net) : (s.updNet f).hostData = s.hostData := rfl
@[simp] theorem State.updNet_hostPoison (f : Net → Net) : (s.updNet f).hostPoison = s.hostPoison := rfl
@[simp] theorem State.updNet_ev (f : Net → Net) : (s.updNet f).ev = s.ev := rfl
@[simp] theorem State.updNet_inputs (f : Net → Net) : (s.updNet f).inputs = s.inputs := rfl
@[simp] theorem State.updNet_cur (f : Net → Net) : (s.updNet f).cur = s.cur := rfl
@[simp] theorem State.updNet_serial (f : Net → Net) : (s.updNet f).serial = s.serial := rfl
@[simp] theorem State.updNet_stalled (f : Net → Net) : (s.updNet f).stalled = s.stalled := rfl

/-! ### `State.setQp` changes `net` alone -/

@[simp] theorem State.setQp_threads (q : Nat) (x : QPair) : (s.setQp q x).threads = s.threads := rfl
@[simp] theorem State.setQp_cores (q : Nat) (x : QPair) : (s.setQp q x).cores = s.cores := rfl
@[simp] theorem State.setQp_tiles (q : Nat) (x : QPair) : (s.setQp q x).tiles = s.tiles := rfl
@[simp] theorem State.setQp_clusters (q : Nat) (x : QPair) : (s.setQp q x).clusters = s.clusters := rfl
@[simp] theorem State.setQp_mem (q : Nat) (x : QPair) : (s.setQp q x).mem = s.mem := rfl
@[simp] theorem State.setQp_poison (q : Nat) (x : QPair) : (s.setQp q x).poison = s.poison := rfl
@[simp] theorem State.setQp_slots (q : Nat) (x : QPair) : (s.setQp q x).slots = s.slots := rfl
@[simp] theorem State.setQp_launches (q : Nat) (x : QPair) : (s.setQp q x).launches = s.launches := rfl
@[simp] theorem State.setQp_tasks (q : Nat) (x : QPair) : (s.setQp q x).tasks = s.tasks := rfl
@[simp] theorem State.setQp_graphs (q : Nat) (x : QPair) : (s.setQp q x).graphs = s.graphs := rfl
@[simp] theorem State.setQp_graphEnds (q : Nat) (x : QPair) : (s.setQp q x).graphEnds = s.graphEnds := rfl
@[simp] theorem State.setQp_queues (q : Nat) (x : QPair) : (s.setQp q x).queues = s.queues := rfl
@[simp] theorem State.setQp_images (q : Nat) (x : QPair) : (s.setQp q x).images = s.images := rfl
@[simp] theorem State.setQp_nextHandle (q : Nat) (x : QPair) : (s.setQp q x).nextHandle = s.nextHandle := rfl
@[simp] theorem State.setQp_nextTask (q : Nat) (x : QPair) : (s.setQp q x).nextTask = s.nextTask := rfl
@[simp] theorem State.setQp_watchReqs (q : Nat) (x : QPair) : (s.setQp q x).watchReqs = s.watchReqs := rfl
@[simp] theorem State.setQp_watchAnss (q : Nat) (x : QPair) : (s.setQp q x).watchAnss = s.watchAnss := rfl
@[simp] theorem State.setQp_requests (q : Nat) (x : QPair) : (s.setQp q x).requests = s.requests := rfl
@[simp] theorem State.setQp_replies (q : Nat) (x : QPair) : (s.setQp q x).replies = s.replies := rfl
@[simp] theorem State.setQp_accepts (q : Nat) (x : QPair) : (s.setQp q x).accepts = s.accepts := rfl
@[simp] theorem State.setQp_refusals (q : Nat) (x : QPair) : (s.setQp q x).refusals = s.refusals := rfl
@[simp] theorem State.setQp_ingress (q : Nat) (x : QPair) : (s.setQp q x).ingress = s.ingress := rfl
@[simp] theorem State.setQp_egress (q : Nat) (x : QPair) : (s.setQp q x).egress = s.egress := rfl
@[simp] theorem State.setQp_keyholeOut (q : Nat) (x : QPair) : (s.setQp q x).keyholeOut = s.keyholeOut := rfl
@[simp] theorem State.setQp_keyholeIn (q : Nat) (x : QPair) : (s.setQp q x).keyholeIn = s.keyholeIn := rfl
@[simp] theorem State.setQp_keyholeSend (q : Nat) (x : QPair) : (s.setQp q x).keyholeSend = s.keyholeSend := rfl
@[simp] theorem State.setQp_keyholeAsks (q : Nat) (x : QPair) : (s.setQp q x).keyholeAsks = s.keyholeAsks := rfl
@[simp] theorem State.setQp_ports (q : Nat) (x : QPair) : (s.setQp q x).ports = s.ports := rfl
@[simp] theorem State.setQp_keyPorts (q : Nat) (x : QPair) : (s.setQp q x).keyPorts = s.keyPorts := rfl
@[simp] theorem State.setQp_regs (q : Nat) (x : QPair) : (s.setQp q x).regs = s.regs := rfl
@[simp] theorem State.setQp_fuse (q : Nat) (x : QPair) : (s.setQp q x).fuse = s.fuse := rfl
@[simp] theorem State.setQp_spdm (q : Nat) (x : QPair) : (s.setQp q x).spdm = s.spdm := rfl
@[simp] theorem State.setQp_attach (q : Nat) (x : QPair) : (s.setQp q x).attach = s.attach := rfl
@[simp] theorem State.setQp_stale (q : Nat) (x : QPair) : (s.setQp q x).stale = s.stale := rfl
@[simp] theorem State.setQp_ranges (q : Nat) (x : QPair) : (s.setQp q x).ranges = s.ranges := rfl
@[simp] theorem State.setQp_invalidations (q : Nat) (x : QPair) : (s.setQp q x).invalidations = s.invalidations := rfl
@[simp] theorem State.setQp_tlb (q : Nat) (x : QPair) : (s.setQp q x).tlb = s.tlb := rfl
@[simp] theorem State.setQp_msix (q : Nat) (x : QPair) : (s.setQp q x).msix = s.msix := rfl
@[simp] theorem State.setQp_counters (q : Nat) (x : QPair) : (s.setQp q x).counters = s.counters := rfl
@[simp] theorem State.setQp_snapshot (q : Nat) (x : QPair) : (s.setQp q x).snapshot = s.snapshot := rfl
@[simp] theorem State.setQp_snapAt (q : Nat) (x : QPair) : (s.setQp q x).snapAt = s.snapAt := rfl
@[simp] theorem State.setQp_served (q : Nat) (x : QPair) : (s.setQp q x).served = s.served := rfl
@[simp] theorem State.setQp_grace (q : Nat) (x : QPair) : (s.setQp q x).grace = s.grace := rfl
@[simp] theorem State.setQp_hostData (q : Nat) (x : QPair) : (s.setQp q x).hostData = s.hostData := rfl
@[simp] theorem State.setQp_hostPoison (q : Nat) (x : QPair) : (s.setQp q x).hostPoison = s.hostPoison := rfl
@[simp] theorem State.setQp_ev (q : Nat) (x : QPair) : (s.setQp q x).ev = s.ev := rfl
@[simp] theorem State.setQp_inputs (q : Nat) (x : QPair) : (s.setQp q x).inputs = s.inputs := rfl
@[simp] theorem State.setQp_cur (q : Nat) (x : QPair) : (s.setQp q x).cur = s.cur := rfl
@[simp] theorem State.setQp_serial (q : Nat) (x : QPair) : (s.setQp q x).serial = s.serial := rfl
@[simp] theorem State.setQp_stalled (q : Nat) (x : QPair) : (s.setQp q x).stalled = s.stalled := rfl

/-! ### `State.setRegion` changes `net` alone -/

@[simp] theorem State.setRegion_threads (q : Nat) (x : Region) : (s.setRegion q x).threads = s.threads := rfl
@[simp] theorem State.setRegion_cores (q : Nat) (x : Region) : (s.setRegion q x).cores = s.cores := rfl
@[simp] theorem State.setRegion_tiles (q : Nat) (x : Region) : (s.setRegion q x).tiles = s.tiles := rfl
@[simp] theorem State.setRegion_clusters (q : Nat) (x : Region) : (s.setRegion q x).clusters = s.clusters := rfl
@[simp] theorem State.setRegion_mem (q : Nat) (x : Region) : (s.setRegion q x).mem = s.mem := rfl
@[simp] theorem State.setRegion_poison (q : Nat) (x : Region) : (s.setRegion q x).poison = s.poison := rfl
@[simp] theorem State.setRegion_slots (q : Nat) (x : Region) : (s.setRegion q x).slots = s.slots := rfl
@[simp] theorem State.setRegion_launches (q : Nat) (x : Region) : (s.setRegion q x).launches = s.launches := rfl
@[simp] theorem State.setRegion_tasks (q : Nat) (x : Region) : (s.setRegion q x).tasks = s.tasks := rfl
@[simp] theorem State.setRegion_graphs (q : Nat) (x : Region) : (s.setRegion q x).graphs = s.graphs := rfl
@[simp] theorem State.setRegion_graphEnds (q : Nat) (x : Region) : (s.setRegion q x).graphEnds = s.graphEnds := rfl
@[simp] theorem State.setRegion_queues (q : Nat) (x : Region) : (s.setRegion q x).queues = s.queues := rfl
@[simp] theorem State.setRegion_images (q : Nat) (x : Region) : (s.setRegion q x).images = s.images := rfl
@[simp] theorem State.setRegion_nextHandle (q : Nat) (x : Region) : (s.setRegion q x).nextHandle = s.nextHandle := rfl
@[simp] theorem State.setRegion_nextTask (q : Nat) (x : Region) : (s.setRegion q x).nextTask = s.nextTask := rfl
@[simp] theorem State.setRegion_watchReqs (q : Nat) (x : Region) : (s.setRegion q x).watchReqs = s.watchReqs := rfl
@[simp] theorem State.setRegion_watchAnss (q : Nat) (x : Region) : (s.setRegion q x).watchAnss = s.watchAnss := rfl
@[simp] theorem State.setRegion_requests (q : Nat) (x : Region) : (s.setRegion q x).requests = s.requests := rfl
@[simp] theorem State.setRegion_replies (q : Nat) (x : Region) : (s.setRegion q x).replies = s.replies := rfl
@[simp] theorem State.setRegion_accepts (q : Nat) (x : Region) : (s.setRegion q x).accepts = s.accepts := rfl
@[simp] theorem State.setRegion_refusals (q : Nat) (x : Region) : (s.setRegion q x).refusals = s.refusals := rfl
@[simp] theorem State.setRegion_ingress (q : Nat) (x : Region) : (s.setRegion q x).ingress = s.ingress := rfl
@[simp] theorem State.setRegion_egress (q : Nat) (x : Region) : (s.setRegion q x).egress = s.egress := rfl
@[simp] theorem State.setRegion_keyholeOut (q : Nat) (x : Region) : (s.setRegion q x).keyholeOut = s.keyholeOut := rfl
@[simp] theorem State.setRegion_keyholeIn (q : Nat) (x : Region) : (s.setRegion q x).keyholeIn = s.keyholeIn := rfl
@[simp] theorem State.setRegion_keyholeSend (q : Nat) (x : Region) : (s.setRegion q x).keyholeSend = s.keyholeSend := rfl
@[simp] theorem State.setRegion_keyholeAsks (q : Nat) (x : Region) : (s.setRegion q x).keyholeAsks = s.keyholeAsks := rfl
@[simp] theorem State.setRegion_ports (q : Nat) (x : Region) : (s.setRegion q x).ports = s.ports := rfl
@[simp] theorem State.setRegion_keyPorts (q : Nat) (x : Region) : (s.setRegion q x).keyPorts = s.keyPorts := rfl
@[simp] theorem State.setRegion_regs (q : Nat) (x : Region) : (s.setRegion q x).regs = s.regs := rfl
@[simp] theorem State.setRegion_fuse (q : Nat) (x : Region) : (s.setRegion q x).fuse = s.fuse := rfl
@[simp] theorem State.setRegion_spdm (q : Nat) (x : Region) : (s.setRegion q x).spdm = s.spdm := rfl
@[simp] theorem State.setRegion_attach (q : Nat) (x : Region) : (s.setRegion q x).attach = s.attach := rfl
@[simp] theorem State.setRegion_stale (q : Nat) (x : Region) : (s.setRegion q x).stale = s.stale := rfl
@[simp] theorem State.setRegion_ranges (q : Nat) (x : Region) : (s.setRegion q x).ranges = s.ranges := rfl
@[simp] theorem State.setRegion_invalidations (q : Nat) (x : Region) : (s.setRegion q x).invalidations = s.invalidations := rfl
@[simp] theorem State.setRegion_tlb (q : Nat) (x : Region) : (s.setRegion q x).tlb = s.tlb := rfl
@[simp] theorem State.setRegion_msix (q : Nat) (x : Region) : (s.setRegion q x).msix = s.msix := rfl
@[simp] theorem State.setRegion_counters (q : Nat) (x : Region) : (s.setRegion q x).counters = s.counters := rfl
@[simp] theorem State.setRegion_snapshot (q : Nat) (x : Region) : (s.setRegion q x).snapshot = s.snapshot := rfl
@[simp] theorem State.setRegion_snapAt (q : Nat) (x : Region) : (s.setRegion q x).snapAt = s.snapAt := rfl
@[simp] theorem State.setRegion_served (q : Nat) (x : Region) : (s.setRegion q x).served = s.served := rfl
@[simp] theorem State.setRegion_grace (q : Nat) (x : Region) : (s.setRegion q x).grace = s.grace := rfl
@[simp] theorem State.setRegion_hostData (q : Nat) (x : Region) : (s.setRegion q x).hostData = s.hostData := rfl
@[simp] theorem State.setRegion_hostPoison (q : Nat) (x : Region) : (s.setRegion q x).hostPoison = s.hostPoison := rfl
@[simp] theorem State.setRegion_ev (q : Nat) (x : Region) : (s.setRegion q x).ev = s.ev := rfl
@[simp] theorem State.setRegion_inputs (q : Nat) (x : Region) : (s.setRegion q x).inputs = s.inputs := rfl
@[simp] theorem State.setRegion_cur (q : Nat) (x : Region) : (s.setRegion q x).cur = s.cur := rfl
@[simp] theorem State.setRegion_serial (q : Nat) (x : Region) : (s.setRegion q x).serial = s.serial := rfl
@[simp] theorem State.setRegion_stalled (q : Nat) (x : Region) : (s.setRegion q x).stalled = s.stalled := rfl

/-! ### Parts after an update -/

@[simp] theorem State.thread_setThread (k : Nat) (x : Thread) : (s.setThread k x).thread k = x := by simp [State.thread, State.setThread]
@[simp] theorem State.thread_setThread_other (k n : Nat) (x : Thread) (h : n ≠ k) : (s.setThread k x).thread n = s.thread n := by
  simp [State.thread, State.setThread, h]
@[simp] theorem State.thread_updThread (k : Nat) (f : Thread → Thread) : (s.updThread k f).thread k = f (s.thread k) := by simp [State.updThread]
@[simp] theorem State.thread_updThread_other (k n : Nat) (f : Thread → Thread) (h : n ≠ k) : (s.updThread k f).thread n = s.thread n := by
  simp [State.updThread, h]
@[simp] theorem State.core_setCore (k : Nat) (x : Core) : (s.setCore k x).core k = x := by simp [State.core, State.setCore]
@[simp] theorem State.core_updCore (k : Nat) (f : Core → Core) : (s.updCore k f).core k = f (s.core k) := by simp [State.updCore]
@[simp] theorem State.core_updCore_other (k n : Nat) (f : Core → Core) (h : n ≠ k) : (s.updCore k f).core n = s.core n := by
  simp [State.updCore, State.setCore, State.core, h]
@[simp] theorem State.tile_setTile (k : Nat) (x : Tile) : (s.setTile k x).tile k = x := by simp [State.tile, State.setTile]
@[simp] theorem State.tile_updTile (k : Nat) (f : Tile → Tile) : (s.updTile k f).tile k = f (s.tile k) := by simp [State.updTile]
@[simp] theorem State.tile_updTile_other (k n : Nat) (f : Tile → Tile) (h : n ≠ k) : (s.updTile k f).tile n = s.tile n := by
  simp [State.updTile, State.setTile, State.tile, h]
@[simp] theorem State.cluster_setCluster (k : Nat) (x : Cluster) : (s.setCluster k x).cluster k = x := by
  simp [State.cluster, State.setCluster]
@[simp] theorem State.cluster_updCluster (k : Nat) (f : Cluster → Cluster) : (s.updCluster k f).cluster k = f (s.cluster k) := by
  simp [State.updCluster]
@[simp] theorem State.cluster_updCluster_other (k n : Nat) (f : Cluster → Cluster) (h : n ≠ k) :
    (s.updCluster k f).cluster n = s.cluster n := by
  simp [State.updCluster, State.setCluster, State.cluster, h]
@[simp] theorem State.slot_setSlot (k : Nat) (x : Slot) : (s.setSlot k x).slot k = x := by simp [State.slot, State.setSlot]
@[simp] theorem State.slot_updSlot (k : Nat) (f : Slot → Slot) : (s.updSlot k f).slot k = f (s.slot k) := by simp [State.updSlot]
@[simp] theorem State.slot_updSlot_other (k n : Nat) (f : Slot → Slot) (h : n % 16 ≠ k % 16) : (s.updSlot k f).slot n = s.slot n := by
  simp only [State.updSlot, State.setSlot, State.slot]
  exact Vector.getElem_set_ne _ _ (Ne.symm h)
@[simp] theorem State.queue_setQueue (k : Nat) (x : Queue) : (s.setQueue k x).queue k = x := by simp [State.queue, State.setQueue]
@[simp] theorem State.queue_updQueue (k : Nat) (f : Queue → Queue) : (s.updQueue k f).queue k = f (s.queue k) := by simp [State.updQueue]
@[simp] theorem State.queue_updQueue_other (k n : Nat) (f : Queue → Queue) (h : n ≠ k) : (s.updQueue k f).queue n = s.queue n := by
  simp [State.updQueue, State.setQueue, State.queue, h]

/-! ### The current thread -/

/-- The current thread depends on `cur` and `cores` alone. -/
@[simp] theorem State.tid_updThread (k : Nat) (f : Thread → Thread) : (s.updThread k f).tid = s.tid := rfl
@[simp] theorem State.tid_setThread (k : Nat) (x : Thread) : (s.setThread k x).tid = s.tid := rfl
@[simp] theorem State.tid_upd (f : Thread → Thread) : (s.upd f).tid = s.tid := rfl
@[simp] theorem State.tid_bump : s.bump.tid = s.tid := rfl
@[simp] theorem State.th_upd (f : Thread → Thread) : (s.upd f).th = f s.th := by simp [State.upd, State.th]
@[simp] theorem State.th_done (n : Nat) (f : Thread → Thread) : (s.done n f).th = (f s.th).next n := by simp [State.done]
@[simp] theorem State.th_bump : s.bump.th = s.th := rfl

end Sys2Proof.Machine
end

