-- ==== Sys2Proof/Laws/Retire.lean ====
section
/-!
SUPPORT. What the shared ways to complete an instruction do: one lemma an operation.
-/
namespace Sys2Proof.Machine

variable (s : State)

theorem State.upd_eq (f : Thread → Thread) : s.upd f = s.setThread s.tid (f s.th) := rfl
@[simp] theorem State.upd_tid (f : Thread → Thread) : (s.upd f).tid = s.tid := rfl
@[simp] theorem State.setThread_tid (k : Nat) (x : Thread) : (s.setThread k x).tid = s.tid := rfl
@[simp] theorem State.setThread_byte (k : Nat) (x : Thread) (a : Nat) : (s.setThread k x).byte a = s.byte a := rfl
@[simp] theorem State.setThread_th (x : Thread) : (s.setThread s.tid x).th = x := by
  rw [State.th, State.setThread_tid, State.thread_setThread]
@[simp] theorem State.upd_th (f : Thread → Thread) : (s.upd f).th = f s.th := by rw [State.upd_eq, State.setThread_th]

theorem onlyThread_setThread (x : Thread) : OnlyThread s (s.setThread s.tid x) := ⟨by rw [State.setThread_th], fun _ => rfl⟩

/-- The PC and the loops after an instruction depend on nothing else of the thread, and nothing else changes. -/
theorem Thread.next_eq (t : Thread) (n : Nat) :
    t.next n = { t with pc := (t.next n).pc, loop0 := (t.next n).loop0, loop1 := (t.next n).loop1 } := by
  unfold Thread.next Thread.nextAt
  dsimp only
  split
  · rfl
  · split <;> rfl

theorem Thread.next_congr {t u : Thread} (n : Nat) (hp : u.pc = t.pc) (h0 : u.loop0 = t.loop0) (h1 : u.loop1 = t.loop1) :
    (u.next n).pc = (t.next n).pc ∧ (u.next n).loop0 = (t.next n).loop0 ∧ (u.next n).loop1 = (t.next n).loop1 := by
  unfold Thread.next Thread.nextAt
  rw [hp, h0, h1]
  dsimp only
  split
  · exact ⟨rfl, rfl, rfl⟩
  · split <;> exact ⟨rfl, rfl, rfl⟩

theorem Thread.ws_pc (t : Thread) (r : SReg) (x : Word) : (t.ws r x).pc = t.pc := by unfold Thread.ws; split <;> rfl
theorem Thread.ws_loop0 (t : Thread) (r : SReg) (x : Word) : (t.ws r x).loop0 = t.loop0 := by unfold Thread.ws; split <;> rfl
theorem Thread.ws_loop1 (t : Thread) (r : SReg) (x : Word) : (t.ws r x).loop1 = t.loop1 := by unfold Thread.ws; split <;> rfl

theorem Thread.rs_ws (t : Thread) (d : SReg) (x : Word) : (t.ws d x).rs d = if d = 0 then 0 else x := by
  unfold Thread.ws Thread.rs
  split <;> simp

theorem Thread.rs_ws_other (t : Thread) (d r : SReg) (x : Word) (h : r ≠ d) : (t.ws d x).rs r = t.rs r := by
  have hn : d.toNat ≠ r.toNat := fun e => h (BitVec.eq_of_toNat_eq e.symm)
  unfold Thread.ws Thread.rs
  split
  · rfl
  · split
    · rfl
    · rw [Vector.getElem_set_ne _ _ hn]

theorem Thread.bad_ws (t : Thread) (d : SReg) (x : Word) (h : d ≠ 0) (b : BadReg) : b ∈ (t.ws d x).bad ↔ b ∈ t.bad ∧ b ≠ .s d := by
  unfold Thread.ws
  rw [if_neg h]
  simp

theorem Thread.ra_wa (t : Thread) (d : AReg) (x : Addr) : (t.wa d x).ra d = x := by simp [Thread.wa, Thread.ra]

theorem Thread.ra_wa_other (t : Thread) (d r : AReg) (x : Addr) (h : r ≠ d) : (t.wa d x).ra r = t.ra r := by
  have hn : d.toNat ≠ r.toNat := fun e => h (BitVec.eq_of_toNat_eq e.symm)
  unfold Thread.wa Thread.ra
  rw [Vector.getElem_set_ne _ _ hn]

theorem Thread.bad_wv (t : Thread) (d : VReg) (x : Vec) (b : BadReg) : b ∈ (t.wv d x).bad ↔ b ∈ t.bad ∧ ∀ w, b ≠ .v d w := by
  unfold Thread.wv
  cases b <;> simp [bne_iff_ne]

theorem Thread.rv_wv (t : Thread) (d : VReg) (x : Vec) : (t.wv d x).rv d = x := by simp [Thread.wv, Thread.rv]

theorem Thread.rv_wv_other (t : Thread) (d r : VReg) (x : Vec) (h : r ≠ d) : (t.wv d x).rv r = t.rv r := by
  have hn : d.toNat ≠ r.toNat := fun e => h (BitVec.eq_of_toNat_eq e.symm)
  unfold Thread.wv Thread.rv
  rw [Vector.getElem_set_ne _ _ hn]

theorem Thread.rm_wm (t : Thread) (d : MReg) (x : Mask) : (t.wm d x).rm d = x := by simp [Thread.wm, Thread.rm]

theorem Thread.rm_wm_other (t : Thread) (d r : MReg) (x : Mask) (h : r ≠ d) : (t.wm d x).rm r = t.rm r := by
  have hn : d.toNat ≠ r.toNat := fun e => h (BitVec.eq_of_toNat_eq e.symm)
  unfold Thread.wm Thread.rm
  rw [Vector.getElem_set_ne _ _ hn]

/-- `retire` answers the thread's update with the PC moved on. -/
theorem State.retire_next (n : Nat) (f : Thread → Thread) : s.retire n f = .next (s.setThread s.tid ((f s.th).next n)) := rfl

/-- `retire` with a scalar result. -/
theorem State.retire_ws (n : Nat) (d : SReg) (x : Word) :
    ∃ t, s.retire n (fun t => t.ws d x) = .next t ∧ WritesS s t d x ∧ Advances s t n := by
  refine ⟨_, rfl, ?_, ?_⟩
  · have hn := Thread.next_eq (s.th.ws d x) n
    refine ⟨?_, ?_, ?_, ?_, onlyThread_setThread s _, ?_⟩
    · rw [State.done, State.upd_th, hn]; exact Thread.rs_ws _ _ _
    · intro r hr; rw [State.done, State.upd_th, hn]; exact Thread.rs_ws_other _ _ _ _ hr
    · intro hd b; rw [State.done, State.upd_th, hn]; exact Thread.bad_ws _ _ _ hd b
    · intro hd; rw [State.done, State.upd_th, hn]; simp [Thread.ws, hd]
    · rw [State.done, State.upd_th, hn]
      unfold Thread.ws
      split <;> rfl
  · unfold Advances
    rw [State.done, State.upd_th]
    exact Thread.next_congr n (Thread.ws_pc _ _ _) (Thread.ws_loop0 _ _ _) (Thread.ws_loop1 _ _ _)

/-- `retire` with an address result. -/
theorem State.retire_wa (n : Nat) (d : AReg) (x : Addr) :
    ∃ t, s.retire n (fun t => t.wa d x) = .next t ∧ WritesA s t d x ∧ Advances s t n := by
  refine ⟨_, rfl, ?_, ?_⟩
  · have hn := Thread.next_eq (s.th.wa d x) n
    refine ⟨?_, ?_, ?_, onlyThread_setThread s _, ?_⟩
    · rw [State.done, State.upd_th, hn]; exact Thread.ra_wa _ _ _
    · intro r hr; rw [State.done, State.upd_th, hn]; exact Thread.ra_wa_other _ _ _ _ hr
    · intro b; rw [State.done, State.upd_th, hn]; simp [Thread.wa]
    · rw [State.done, State.upd_th, hn]; rfl
  · unfold Advances
    rw [State.done, State.upd_th]
    exact Thread.next_congr n rfl rfl rfl

/-- `retire` with a vector result. -/
theorem State.retire_wv (n : Nat) (d : VReg) (x : Vec) :
    ∃ t, s.retire n (fun t => t.wv d x) = .next t ∧ WritesV s t d x ∧ Advances s t n := by
  refine ⟨_, rfl, ?_, ?_⟩
  · have hn := Thread.next_eq (s.th.wv d x) n
    refine ⟨?_, ?_, ?_, onlyThread_setThread s _, ?_⟩
    · rw [State.done, State.upd_th, hn]; exact Thread.rv_wv _ _ _
    · intro r hr; rw [State.done, State.upd_th, hn]; exact Thread.rv_wv_other _ _ _ _ hr
    · intro b; rw [State.done, State.upd_th, hn]; exact Thread.bad_wv _ _ x b
    · rw [State.done, State.upd_th, hn]; rfl
  · unfold Advances
    rw [State.done, State.upd_th]
    exact Thread.next_congr n rfl rfl rfl

/-- `retire` with a mask result. -/
theorem State.retire_wm (n : Nat) (d : MReg) (x : Mask) :
    ∃ t, s.retire n (fun t => t.wm d x) = .next t ∧ WritesM s t d x ∧ Advances s t n := by
  refine ⟨_, rfl, ?_, ?_⟩
  · have hn := Thread.next_eq (s.th.wm d x) n
    refine ⟨?_, ?_, ?_, onlyThread_setThread s _, ?_⟩
    · rw [State.done, State.upd_th, hn]; exact Thread.rm_wm _ _ _
    · intro r hr; rw [State.done, State.upd_th, hn]; exact Thread.rm_wm_other _ _ _ _ hr
    · intro b; rw [State.done, State.upd_th, hn]; simp [Thread.wm]
    · rw [State.done, State.upd_th, hn]; rfl
  · unfold Advances
    rw [State.done, State.upd_th]
    exact Thread.next_congr n rfl rfl rfl

/-- `skip` changes the PC and the loops alone. -/
theorem State.skip_next (n : Nat) : ∃ t, s.skip n = .next t ∧ WritesNothing s t ∧ Advances s t n := by
  refine ⟨_, rfl, ⟨onlyThread_setThread s _, ?_⟩, ?_⟩
  · rw [State.done, State.upd_th]; exact Thread.next_eq _ n
  · unfold Advances
    rw [State.done, State.upd_th]
    exact ⟨rfl, rfl, rfl⟩

/-- `settled` says that nothing earlier is outstanding. -/
theorem settled_iff : settled s = true ↔ Settled s := by
  have keep : ∀ o : Out, (match o.kind with | .load .keep _ _ => false | _ => true) = false ↔ ∃ ord n, o.kind = .load .keep ord n := by
    intro o
    constructor
    · intro h
      split at h
      · exact ⟨_, _, ‹_›⟩
      · cases h
    · rintro ⟨ord, n, h⟩
      rw [h]
  unfold settled Settled Thread.owed mxEarlier
  rw [Bool.and_eq_true, List.isEmpty_iff, List.filter_eq_nil_iff, Bool.not_eq_true', List.any_eq_false]
  refine and_congr (forall_congr' fun o => forall_congr' fun _ => ?_) (forall_congr' fun q => forall_congr' fun _ => ?_)
  · rw [Bool.not_eq_true]
    exact keep o
  · simp

/-- A stall passes the core's turn and changes nothing else. -/
theorem State.stall_next : ∃ t, s.stall = .next t ∧ t = { s with cores := t.cores, stalled := true } ∧ ∀ n, n ≠ s.cur → t.core n = s.core n := by
  refine ⟨_, rfl, rfl, fun n hn => ?_⟩
  show (switch s).core n = s.core n
  exact State.core_updCore_other s s.cur n _ hn

/-- A trap other than that of poison, outside a supervisor handler. -/
theorem State.trap_next (code detail : Nat) (fva : Addr) (hp : code ≠ 0x16) (_hc : code < 64) (_hd : detail < 65536)
    (ha : s.th.sup.act = false) :
    ∃ t, s.trap { code := code, detail := detail, fva := fva } = .next t ∧ TrapsExactly s t code detail fva := by
  have hw : Trap.word { code := code, detail := detail, fva := fva } false = causeWord code detail := by
    unfold Trap.word causeWord
    apply BitVec.eq_of_toNat_eq
    simp only [BitVec.toNat_ofNat, BitVec.toNat_add, BitVec.toNat_shiftLeft, Nat.shiftLeft_eq]
    norm_num
    omega
  have hu : UserTakes s.th code ↔ (reflected code && s.th.utvec.getLsbD 0 && !s.th.utvec.getLsbD 1) = true := by
    unfold UserTakes reflected
    simp [and_assoc]
  unfold State.trap
  split
  case isFalse h =>
    obtain ⟨t, ht, hr⟩ := State.stall_next s
    exact ⟨t, ht, fun hs => absurd ((settled_iff s).mpr hs) h, fun _ => hr⟩
  case isTrue h =>
    refine ⟨_, rfl, fun _ => ⟨?_, ?_, ?_⟩, fun hn => absurd ((settled_iff s).mp h) hn⟩
    all_goals unfold takeTrap; simp only [hp, if_false]; rw [show s.thread s.tid = s.th from rfl, ha]
    · intro h
      rw [if_neg (by simp), if_pos (hu.mp h), ← State.upd, State.upd_th]
      unfold userEntry userEntered
      rw [hw]
    · intro h
      rw [if_neg (by simp), if_neg (fun e => h (hu.mpr e)), hw]
      unfold supervisorEntry
      dsimp only
      rw [← State.upd, State.upd_th]
      rfl
    · rw [if_neg (by simp)]
      split
      · exact onlyThread_setThread s _
      · exact onlyThread_setThread s _

end Sys2Proof.Machine
end

