-- ==== Sys2Proof/Tests/Slice0.lean ====
section
/-!
SUPPORT. Tests: the words of the encoding tables, the terms the encoding does not admit, worked results of the manual, and for every statement with
hypotheses a state that meets those of each of its clauses. Expected results are the manual's, by hand.
-/
set_option Elab.async false

namespace Sys2Proof.Tests
open Sys2Proof Sys2Proof.Machine

/-! ### Well-formedness: a term for each check, refused -/

theorem test_wf_hint : ¬ (Instr.pref 2 0 0).WF := by decide
theorem test_wf_hint_ok : (Instr.pref 1 0 0).WF := by decide
theorem test_wf_mask : ¬ (Instr.vsel .i32 1 2 3 0).WF := by decide
theorem test_wf_float : ∀ i ∈ [Instr.vfadd .i32 1 2 3 0, .vfsub .i32 1 2 3 0, .vfmul .i32 1 2 3 0, .vfma .i64 1 2 3 0, .vfms .i64 1 2 3 0, .vfnma .i64 1 2 3 0,
    .vfdiv .i16 1 2 3 0, .vfmin .i16 1 2 3 0, .vfmax .i16 1 2 3 0, .vfsqrt .i32 1 2 0, .vfrcp .i32 1 2 0, .vfrsq .i32 1 2 0, .vfabs .i32 1 2 0,
    .vfneg .i32 1 2 0, .vfexp2 .i32 1 2 0, .vflog2 .i32 1 2 0, .vftanh .i32 1 2 0, .vfclass .i32 1 2 0, .vfcmpEq .i32 1 2 3 0, .vfcmpLt .i32 1 2 3 0,
    .vfcmpLe .i32 1 2 3 0, .vfcmpUn .i32 1 2 3 0], ¬ i.WF := by decide
theorem test_wf_integer : ∀ i ∈ [Instr.vadd .f32 1 2 3 0, .vsub .f32 1 2 3 0, .vmul .f32 1 2 3 0, .vmulh .f64 1 2 3 0, .vmin .f64 1 2 3 0, .vmax .f64 1 2 3 0,
    .vabs .f16 1 2 0, .vsadd .f16 1 2 3 0, .vssub .f16 1 2 3 0, .vand .bf16 1 2 3 0, .vor .bf16 1 2 3 0, .vxor .bf16 1 2 3 0, .vnot .f32 1 2 0,
    .vshl .f32 1 2 3 0, .vshr .f32 1 2 3 0, .vsar .f32 1 2 3 0, .vcmpEq .f32 1 2 3 0, .vcmpLt .f32 1 2 3 0, .vcmpLe .f32 1 2 3 0, .vcmpLtu .f32 1 2 3 0,
    .vcmpLeu .f32 1 2 3 0], ¬ i.WF := by decide

theorem test_wf_pairs : ∀ i ∈ [Instr.vcvt .f32 .f32 1 2 0, .vcvt .f32 .f64 1 2 0, .vpack .f32 .i32 1 2 0, .vpack .f64 .f16 1 2 0, .vunpack .f32 .f64 1 2 0,
    .vunpack .i16 .bf16 1 2 0], ¬ i.WF := by decide

/-! ### Words of the encoding tables (08 R172–R182): each row's fixed bits, with its fields at the values named -/

/-- Whether each word decodes to the instruction beside it. -/
def decodes (l : List (Nat × Instr)) : Bool := l.all fun p => decodeTableWord 32 p.1 == some p.2

theorem test_decode_system : decodes [
    (0x01118006, .iflush 3 17), (0x01118007, .tlbi 3 17), (0x00001A3C, .trap 0xa3c), (0x0050AA3C, .ctlr (.a 5) 0xa3c),
    (0x0012BA3C, .ctlw 0xa3c (.a 5)), (0x00000001, .nop), (0x00000002, .idle), (0x00000003, .bkpt), (0x00000004, .eret), (0x00000005, .halt)] = true :=
  by decide +kernel

theorem test_decode_integer : decodes [
    (0x03155400, .add 17 10 21), (0x03155401, .sub 17 10 21), (0x03155402, .and 17 10 21), (0x03155403, .or 17 10 21),
    (0x03155404, .xor 17 10 21), (0x03155405, .andn 17 10 21), (0x03155406, .shl 17 10 21), (0x03155407, .shr 17 10 21),
    (0x03155408, .sar 17 10 21), (0x03155409, .mul 17 10 21), (0x0315540A, .mulh 17 10 21), (0x0315540B, .mulhu 17 10 21),
    (0x0315540C, .div 17 10 21), (0x0315540D, .divu 17 10 21), (0x0315540E, .rem 17 10 21), (0x0315540F, .remu 17 10 21),
    (0x03155410, .min 17 10 21), (0x03155411, .max 17 10 21), (0x03155412, .minu 17 10 21), (0x03155413, .maxu 17 10 21),
    (0x03155414, .seq 17 10 21), (0x03155415, .sne 17 10 21), (0x03155416, .slt 17 10 21), (0x03155417, .sltu 17 10 21),
    (0x03150018, .clz 17 10), (0x03150019, .ctz 17 10), (0x0315001A, .popc 17 10), (0x0315001B, .brev 17 10), (0x0315001C, .bswap 17 10),
    (0x0315541D, .sext 17 10 21), (0x0315541E, .zext 17 10 21), (0x0315541F, .cmov 17 10 21), (0x05155A3C, .addi 17 10 0x5a3c),
    (0x07155A3C, .andi 17 10 0x5a3c), (0x09155A3C, .ori 17 10 0x5a3c), (0x0B155A3C, .xori 17 10 0x5a3c), (0x0D15002D, .shli 17 10 0x2d),
    (0x0D15202D, .shri 17 10 0x2d), (0x0D15402D, .sari 17 10 0x2d), (0x0F152A3C, .slti 17 10 0x2a3c), (0x0F156A3C, .sltiu 17 10 0x2a3c),
    (0x11105A3C, .movi 17 0x5a3c)] = true := by decide +kernel

theorem test_decode_address : decodes [
    (0x12305A3C, .adrpc 3 0x5a3c), (0x14334400, .adda 3 6 17), (0x14334401, .suba 3 6 17), (0x14388002, .movas 3 17), (0x15118003, .movsa 17 3),
    (0x14388004, .movah 3 17), (0x15118005, .movha 17 3), (0x14334406, .aidx 3 6 17), (0x15119807, .slta 17 3 6), (0x16335A3C, .addai 3 6 0x5a3c)] = true :=
  by decide +kernel

theorem test_decode_branches : decodes [
    (0x19155A3C, .beq 17 10 0x5a3c), (0x1B155A3C, .bne 17 10 0x5a3c), (0x1D155A3C, .blt 17 10 0x5a3c), (0x1F155A3C, .bge 17 10 0x5a3c),
    (0x21155A3C, .bltu 17 10 0x5a3c), (0x23155A3C, .bgeu 17 10 0x5a3c), (0x25234567, .jmp 0x1234567), (0x27234567, .call 0x1234567),
    (0x28018000, .jr 3), (0x28018001, .callr 3), (0x2A440A3C, .loop 17 0xa3c), (0x2ADA3A3C, .loopi 0x5a3 0xa3c), (0x2C005A3C, .realign 0x5a3c),
    (0x28000002, .ret)] = true := by decide +kernel

theorem test_decode_memory : decodes [
    (0x2F176A3C, .ld .hu .sync 17 3 0xa3c), (0x3116AA3C, .st .w .sync 17 3 0xa3c), (0x3336AA3C, .ldv .lo16 .sync 19 3 0xa3c),
    (0x3536AA3C, .stv .lo16 .sync 19 3 0xa3c), (0x3716AA3C, .pull .w .sync 17 3 0xa3c), (0x37372A3C, .pullv .sync 19 3 0xa3c),
    (0x36174A3C, .pref 1 3 0xa3c), (0x3911A850, .amoadd true .rel 17 3 10), (0x3911A851, .amoand true .rel 17 3 10),
    (0x3911A852, .amoor true .rel 17 3 10), (0x3911A853, .amoxor true .rel 17 3 10), (0x3911A854, .amomin true .rel 17 3 10),
    (0x3911A855, .amomax true .rel 17 3 10), (0x3911A856, .amominu true .rel 17 3 10), (0x3911A857, .amomaxu true .rel 17 3 10),
    (0x3911A858, .amoswap true .rel 17 3 10), (0x3911A859, .amocas true .rel 17 3 10), (0x3A00000E, .fence .ar .module),
    (0x3B11A90C, .seqadvMax .module 17 3 10), (0x3B11A90D, .seqadvAdd .module 17 3 10), (0x3C01C42B, .watch .module 5 3 17),
    (0x3D100068, .waitw 17 5), (0x3D11A883, .waita true true 17 3 10), (0x3D6BE0F2, .waitc 22 23 24 25), (0x3D11A900, .barinit 17 3 10),
    (0x3C01C540, .barwait 3 17), (0x3C01C580, .baradd 3 17), (0x3E01C400, .keygive 3 17), (0x3F118001, .keytake 17 3),
    (0x3F118002, .keyqry 17 3), (0x3F118003, .stashcfg 17 3)] = true := by decide +kernel

theorem test_decode_floatLanes : decodes [
    (0x4134DB01, .vfadd .f32 19 9 22 6), (0x4134DB09, .vfsub .f32 19 9 22 6), (0x4134DB11, .vfmul .f32 19 9 22 6),
    (0x4134DB19, .vfma .f32 19 9 22 6), (0x4134DB21, .vfms .f32 19 9 22 6), (0x4134DB29, .vfnma .f32 19 9 22 6),
    (0x4134DB31, .vfdiv .f32 19 9 22 6), (0x4134DB39, .vfmin .f32 19 9 22 6), (0x4134DB41, .vfmax .f32 19 9 22 6),
    (0x43348301, .vfsqrt .f32 19 9 6), (0x43348309, .vfrcp .f32 19 9 6), (0x43348311, .vfrsq .f32 19 9 6), (0x43348319, .vfabs .f32 19 9 6),
    (0x43348321, .vfneg .f32 19 9 6), (0x43348329, .vfexp2 .f32 19 9 6), (0x43348331, .vflog2 .f32 19 9 6), (0x43348339, .vftanh .f32 19 9 6),
    (0x43348341, .vfclass .f32 19 9 6)] = true := by decide +kernel

theorem test_decode_lanes : decodes [
    (0x4534DB05, .vadd .i32 19 9 22 6), (0x4534DB0D, .vsub .i32 19 9 22 6), (0x4534DB15, .vmul .i32 19 9 22 6),
    (0x4534DB1D, .vmulh .i32 19 9 22 6), (0x4534DB25, .vmin .i32 19 9 22 6), (0x4534DB2D, .vmax .i32 19 9 22 6), (0x45348335, .vabs .i32 19 9 6),
    (0x4534DB3D, .vsadd .i32 19 9 22 6), (0x4534DB45, .vssub .i32 19 9 22 6), (0x4734DB05, .vand .i32 19 9 22 6),
    (0x4734DB0D, .vor .i32 19 9 22 6), (0x4734DB15, .vxor .i32 19 9 22 6), (0x4734831D, .vnot .i32 19 9 6), (0x4734DB25, .vshl .i32 19 9 22 6),
    (0x4734DB2D, .vshr .i32 19 9 22 6), (0x4734DB35, .vsar .i32 19 9 22 6), (0x4869A581, .vfcmpEq .f32 6 19 9 3),
    (0x4869A589, .vfcmpLt .f32 6 19 9 3), (0x4869A591, .vfcmpLe .f32 6 19 9 3), (0x4869A599, .vfcmpUn .f32 6 19 9 3),
    (0x4869A5A5, .vcmpEq .i32 6 19 9 3), (0x4869A5AD, .vcmpLt .i32 6 19 9 3), (0x4869A5B5, .vcmpLe .i32 6 19 9 3),
    (0x4869A5BD, .vcmpLtu .i32 6 19 9 3), (0x4869A5C5, .vcmpLeu .i32 6 19 9 3), (0x4934DB4D, .vsel .i32 19 9 22 6), (0x48619450, .mand 6 3 5),
    (0x48619458, .mor 6 3 5), (0x48618060, .mnot 6 3), (0x49130068, .mpopc 17 6), (0x4B388305, .vbcast .i32 19 17 6),
    (0x4B19A80D, .vmovs .i32 17 19 10), (0x4B38A815, .vins .i32 19 17 10), (0x4B34DB1D, .vperm .i32 19 9 22 6),
    (0x4B34C725, .vslide .i32 19 9 17 6), (0x4B30032D, .viota .i32 19 6)] = true := by decide +kernel

theorem test_decode_laneMoves : decodes [
    (0x4D198305, .vredadd .i32 17 19 6), (0x4D19830D, .vredmax .i32 17 19 6), (0x4D198315, .vredmin .i32 17 19 6),
    (0x4D19831D, .vredmaxi .i32 17 19 6), (0x4D198325, .vredmini .i32 17 19 6), (0x4D34872D, .vcvt .i32 .f32 19 9 6),
    (0x4D348335, .vpack .i32 .f64 19 9 6), (0x4D348F3D, .vunpack .i32 .bf16 19 9 6), (0x4F31A705, .vgather .i32 19 3 9 6),
    (0x4F31A70D, .vscatter .i32 19 3 9 6)] = true := by decide +kernel

theorem test_decode_matrix : decodes [
    (0x51156DC8, .mma 13 11 9 17 10), (0x52000D00, .mzero 13), (0x53151DB0, .mdrain 17 13 11 10), (0x5208ADB0, .mload 13 11 17),
    (0x54000005, .semsig 5), (0x54001005, .semwait 5), (0x57100000, .mcfg 17), (0x5710100D, .bfmt 13 17)] = true := by decide +kernel

theorem test_decode_engines : decodes [
    (0x591007AA, .bpull 17 3 6 5 2), (0x59151635, .bpulla 17 10 3 6 5), (0x591027AA, .bcopy 17 3 6 5 2), (0x58003600, .ecmd 3),
    (0x591547AA, .mdec 17 10 3 6 5 2), (0x591557AA, .lodge 17 10 3 6 5 2), (0x5B104C00, .msend 17 19), (0x5B104C01, .msendPost 17 19),
    (0x5B100002, .msendRetry 17), (0x5B300003, .mrecv 19), (0x5B300004, .mrecvRep 19), (0x5B300005, .mpeek 19), (0x5B300006, .mpeekRep 19),
    (0x5A004C07, .mreply 19), (0x5B150008, .mbind 17 10), (0x5C000600, .coll 3), (0x5F150600, .skinit 3 17 10), (0x5F100781, .skinitTab 3 6 17),
    (0x5F151601, .skupd true 3 17 10), (0x5F349603, .skupdV true 3 19 9), (0x5F152600, .skqry 17 3 10), (0x5E003780, .skadd 3 6),
    (0x5F104600, .skscl 3 17), (0x5E005600, .skclr 3), (0x5F106600, .sksat 17 3), (0x5F106601, .sksatClr 17 3)] = true := by decide +kernel

theorem test_decode_extended : decodes [
    (0x6125D000, .xadd 18 11 20), (0x6125D001, .xsub 18 11 20), (0x6125D002, .xmul 18 11 20), (0x6125D003, .xfma 18 11 20),
    (0x6125D004, .xdiv 18 11 20), (0x61258005, .xsqrt 18 11), (0x61258006, .xrnd 18 11), (0x61258007, .xneg 18 11), (0x61258008, .xabs 18 11),
    (0x61258009, .xmov 18 11), (0x6125C40A, .xscale 18 11 17), (0x6125800B, .xexp 18 11), (0x63192C00, .xcmp 17 18 11),
    (0x63190001, .xlen 17 18), (0x63288010, .xcvtWindowFromInt64 18 17), (0x63288011, .xcvtWindowFromFp64 18 17),
    (0x63288012, .xcvtWindowFromUint64 18 17), (0x63190018, .xcvtScalarToInt64 17 18), (0x63190019, .xcvtScalarToFp64 17 18),
    (0x6319001A, .xcvtScalarToUint64 17 18), (0x65262A3C, .xld .sync 18 3 0xa3c), (0x65266A3C, .xst .sync 18 3 0xa3c),
    (0x672A6080, .xalloc 18 0xa6 16), (0x67200100, .xfree 18), (0x66088200, .xsetp 17), (0x67100300, .xgetp 17)] = true := by decide +kernel

theorem test_decode_tasks : decodes [
    (0x6911CC00, .tspawn 17 3 19), (0x69118001, .tjoin 17 3), (0x68005802, .texit (some 22)), (0x69150003, .tpath 17 10),
    (0x69150005, .cores 17 10), (0x69155406, .tcancel 17 10 21), (0x6B11A800, .grun 17 3 10), (0x6A01C401, .gcond 3 17),
    (0x6B150002, .gstat 17 10), (0x68000004, .tyield)] = true := by decide +kernel

theorem test_decode_long : decodeTableWord 64 0x8000000090700000 = some (.moviLong 7 0x80000000) ∧
    decodeTableWord 64 0x0000000190708000 = some (.movhi 7 1) ∧ decodeTableWord 64 0xFFFFFFFE92300000 = some (.adrpcLong 3 0xFFFFFFFE) ∧
    decodeTableWord 64 0x7FFFFFFF96330000 = some (.addaiLong 3 6 0x7FFFFFFF) := by decide

/-- Words the manual works out (07 R136, 09 R197–R207, 10, 11 R240, R242). -/
theorem test_decode_worked : decodes [(0x2E66E003, .ld .d .sync 6 3 3), (0x3092AFFE, .st .w .sync 9 1 0xFFE), (0x36291002, .pullv .strong 2 4 2),
    (0x38511870, .amoadd true .ar 5 2 6), (0x3A019D08, .seqadvMax .cluster 0 3 7), (0x3A00000F, .fence .full .module), (0x3C02A012, .watch .cluster 2 5 8),
    (0x3C900050, .waitw 9 2), (0x3C0F80FE, .waitc 0 31 0 31), (0x3E011000, .keygive 2 4), (0x5A301400, .msend 3 5), (0x5A600003, .mrecv 6), (0x2C000040, .realign 64), (0x00310007, .tlbi 2 3),
    (0x3C030D40, .barwait 6 3), (0x4C348099, .vredmaxi .f32 3 9 1), (0x4A448C09, .vmovs .f32 4 9 3), (0x20300004, .bltu 3 0 4),
    (0x14311006, .aidx 3 2 4), (0x2600000A, .call 10), (0x28000002, .ret), (0x28028000, .jr 5), (0x2A080003, .loop 2 3), (0x1C400005, .blt 4 0 5)] = true := by
  decide +kernel

/-- Words that are no instruction (08 R172, R174, R179, R180, R183, 06 R116): zeros and ones, L = 1 without a long form, a short `MOVHI`, a nonzero field
that must be zero, an order of 3, a reserved scope and lane type, a lane type the operation does not accept, `VSEL` without a mask. -/
theorem test_decode_refused : [0x00000000, 0xFFFFFFFF, 0x82000000, 0x10008000, 0x03150418, 0x2E003000, 0x3A000015, 0x40000007, 0x40000005,
    0x44000001, 0x48000048, 0x36014000 + 2 * 2 ^ 20].all (fun w => (decodeTableWord 32 w).isNone) = true := by decide +kernel

/-! ### Small states -/

/-- Thread 0 of the reset state, changed. -/
def th (f : Thread → Thread) : State := State.reset.setThread 0 (f {})
/-- The same inside a supervisor handler, whose addresses are local physical (19 R347), with a key for the first 64 KiB. -/
def sup (f : Thread → Thread) : State :=
  (th fun t => f { t with sup := { act := true } }).updCluster 0 fun c => { c with keys := [(0, { base := 0, len := 16, holder := keySup })] }
/-- The state after an instruction. -/
def after (i : Instr) (s : State) : State := match exec i s with | .next t => t | _ => s
/-- A task of a running module with the first 8 GiB mapped to themselves, on thread 8. -/
def prog : State := State.reset.withFetchWord 32 1
/-- The same with thread 8 changed. -/
def user (f : Thread → Thread) : State := prog.updThread 8 f
/-- A vector of equal 32-bit lanes. -/
def splat32 (x : BitVec 32) : Vec := BitVec.ofNat 512 (x.toNat * ((2 ^ 512 - 1) / (2 ^ 32 - 1)))

theorem ok_of {ε α : Type} {x : Except ε α} {a : α} (h : x.toOption = some a) : x = .ok a := by
  cases x <;> simp_all [Except.toOption]
theorem err_of {ε α : Type} {x : Except ε α} {e : ε} (h : (match x with | .error c => some c | .ok _ => none) = some e) : x = .error e := by
  cases x <;> simp_all
theorem may_of {s : State} (b : Bool) (h : s.th.outs = []) : MayAccess s b := by simp [MayAccess, h]

/-! ### Worked results -/

/-- 09 R195, R75: −2^63 / −1, a division by 0 and its remainders. -/
theorem test_div_edges : (after (.div 1 2 3) (th fun t => (t.ws 2 0x8000000000000000).ws 3 (-1))).th.rs 1 = 0x8000000000000000 ∧
    (after (.rem 1 2 3) (th fun t => (t.ws 2 0x8000000000000000).ws 3 (-1))).th.rs 1 = 0 ∧
    (after (.div 1 2 3) (th fun t => t.ws 2 7)).th.rs 1 = -1 ∧ (after (.remu 1 2 3) (th fun t => t.ws 2 7)).th.rs 1 = 7 ∧
    (after (.rem 1 2 3) (th fun t => (t.ws 2 (-7)).ws 3 2)).th.rs 1 = -1 := by decide +kernel

/-- 08 R165: a write to `s0` is discarded. -/
theorem test_s0 : (after (.addi 0 0 5) State.reset).th.rs 0 = 0 := by decide +kernel

/-- 09 R194: shift counts are taken modulo 64. -/
theorem test_shift_count : (after (.shl 1 2 3) (th fun t => (t.ws 2 1).ws 3 65)).th.rs 1 = 2 := by decide +kernel

/-- 09 R200: the worked index, element 1 and element −1 of an array of 3-limb values. -/
theorem test_aidx : (after (.aidx 3 2 4) (th fun t => (t.wa 2 0x1FFF0).ws 4 0x2000000000000001)).th.ra 3 = 0x20008 ∧
    (after (.aidx 3 2 4) (th fun t => (t.wa 2 0x1FFF0).ws 4 0x2FFFFFFFFFFFFFFF)).th.ra 3 = 0x1FFD8 := by decide +kernel

/-- 03 R73: 1 + 2^−24 lies half way, and rounds to the even 1. -/
theorem test_float_add : let s := th fun t => (t.wv 2 (splat32 0x3F800000)).wv 3 (splat32 0x33800000)
    (after (.vfadd .f32 1 2 3 0) s).th.rv 1 = splat32 0x3F800000 := by decide +kernel

/-- 04 R77: the worked encodings. -/
theorem test_ext_encode : extEncode 1 (.ofInt 1) = [0x03FFFFF000000000] ∧ extEncode 2 (.fin true 3 (-1) false) = [0x8BFFFFF800000000, 0] ∧
    extEncode 2 (.fin false (2 ^ 40 + 1) (-40) false) = [0x0BFFFFF000000000, 0x1000000000000000] := by decide +kernel

/-- 04 R81: the worked rounding of ±1/3 to 8 bits, in every mode, and the length of a significand in limbs. -/
theorem test_ext_round : (([0, 1, 2, 3, 4].map fun m => [false, true].map fun g =>
      extEncode 1 (roundExt 8 (precRm (BitVec.ofNat 64 (m * 4096))) (divVal 8 (.fin g 1 0 false) (.ofInt 3)).1).1) =
    [[[0x03FFFFD560000000], [0x83FFFFD560000000]], [[0x03FFFFD540000000], [0x83FFFFD540000000]], [[0x03FFFFD560000000], [0x83FFFFD540000000]],
     [[0x03FFFFD540000000], [0x83FFFFD560000000]], [[0x03FFFFD560000000], [0x83FFFFD560000000]]]) ∧
    [37, 101, 102, 997].map nLimbs = [1, 2, 3, 16] := by decide +kernel

/-- 03 R58: the worked packing of four 6-bit elements. -/
theorem test_packing : packElems 0x07 [0x01, 0x1F, 0x20, 0x04] = [0xC1, 0x07, 0x12] := by decide +kernel

/-- 03 R65–R67: the worked group. -/
theorem test_group : (mmaElement ⟨5, [[0x78, 0x09, 0xF8]], [[some (1, 0)]]⟩ ⟨5, [[0x38, 0x09, 0x38]], [[some (1, 0)]]⟩ 0 0 0).1 = 0x39A00000 := by decide +kernel

/-- 09 R204, R205: a loop of one word, twice. -/
theorem test_loop : let s := after .nop (after (.loop 1 0) (th fun t => { t.ws 1 2 with pc := 0x100 }))
    s.th.pc = 0x104 ∧ (after .nop s).th.pc = 0x108 ∧ (after .nop s).th.loop0.armed = false := by decide +kernel

/-! ### Hypotheses that can be met: integer, address, transfer, loop -/

theorem witness_IntegerResults : integerResult State.reset.th (.divu 1 2 3) = some (1, -1) ∧
    integerResult State.reset.th (.sext 0 31 0) = some (0, 0) := by decide +kernel

theorem witness_BitAndMoveResults : bitResult State.reset.th (.clz 31 0) = some (31, fun x => x = (0 : Word).clz) ∧ State.reset.th.rs 1 = 0 ∧
    (th (·.ws 1 1)).th.rs 1 ≠ 0 := ⟨rfl, rfl, by decide +kernel⟩

theorem witness_ImmediateResults : immediateResult State.reset.th (.movhi 1 0xFFFFFFFF) = some (8, 1, 0xFFFFFFFF00000000) ∧
    immediateResult State.reset.th (.addi 0 1 0x4000) = some (4, 0, 0xFFFFFFFFFFFFC000) := by decide +kernel

theorem witness_AddressResults : addressResult State.reset.th (.addai 7 0 0x7FFF) = some (4, 7, -1) ∧
    addressResult State.reset.th (.aidx 0 0 31) = some (4, 0, 0) := by decide +kernel

theorem witness_BranchResults : branchResult State.reset.th (.beq 1 2 0x4000) = some (true, 0x4000) ∧
    branchResult State.reset.th (.blt 1 2 3) = some (false, 3) := by decide +kernel

theorem settled_of (s : State) (h : s.th.outs = []) (hq : (s.tile (tileOf s.tid)).queue = []) : Settled s :=
  ⟨fun _ ho => (List.not_mem_nil (h ▸ ho)).elim, fun _ hq' => (List.not_mem_nil (hq ▸ hq')).elim⟩

theorem witness_TransferResults : jumpTarget State.reset.th .ret = some 0 ∧ jumpTarget State.reset.th (.jmp 0x1000000) = some (-0x4000000) ∧
    callTarget (th (·.wa 3 4)).th (.callr 3) = some 4 ∧ ((th (·.wa 3 2)).th.ra 3).extractLsb' 0 2 ≠ 0 ∧ (th (·.wa 3 2)).th.sup.act = false ∧
    ((th (·.wa 7 1)).th.ra 7).extractLsb' 0 2 ≠ 0 ∧ ¬ AtEnd (th (·.wa 3 2)).th.pc 4 (th (·.wa 3 2)).th.loop0 ∧
    ¬ AtEnd (th (·.wa 3 2)).th.pc 4 (th (·.wa 3 2)).th.loop1 ∧
    AtEnd (th fun t => { t with loop0 := { armed := true } }).th.pc 4 (th fun t => { t with loop0 := { armed := true } }).th.loop0 ∧
    Settled (th (·.wa 3 2)) ∧ Settled (th (·.wa 7 1)) ∧ Settled (th fun t => { t with loop0 := { armed := true } }) := by
  refine ⟨?_, ?_, ?_, ?_, ?_, ?_, ?_, ?_, ?_, ?_, ?_, ?_⟩
  case refine_10 => exact settled_of _ rfl rfl
  case refine_11 => exact settled_of _ rfl rfl
  case refine_12 => exact settled_of _ rfl rfl
  all_goals first | (unfold AtEnd; decide +kernel) | decide +kernel

theorem witness_LoopArming : let s := th fun t => { t.ws 1 3 with pc := 8 }
    let b := th fun t => { t with pc := 8, loop0 := { armed := true }, loop1 := { armed := true } }
    (Instr.loop 1 0xFFF = .loop 1 0xFFF ∧ (3 : Word) = s.th.rs 1) ∧ ¬ AtEnd s.th.pc 4 s.th.loop0 ∧ ¬ AtEnd s.th.pc 4 s.th.loop1 ∧
    (s.th.loop0.armed = false ∨ s.th.loop1.armed = false) ∧ (3 : Word) ≠ 0 ∧
    ((0 : Word) = (0 : BitVec 11).setWidth 64) ∧
    ¬ AtEnd b.th.pc 4 b.th.loop0 ∧ ¬ AtEnd b.th.pc 4 b.th.loop1 ∧ b.th.loop0.armed = true ∧ b.th.loop1.armed = true ∧ b.th.sup.act = false := by
  unfold AtEnd; decide +kernel

theorem witness_LoopBack : let l (n : Word) : Loop := { last := 4, remaining := n, armed := true }
    let o (n : Word) : Loop := { last := 0, remaining := n, armed := true }
    (4 = 4 ∨ 4 = 8) ∧ (AtEnd 4 4 (l 2) ∧ 1 < (l 2).remaining.toNat) ∧ (AtEnd 4 4 (l 1) ∧ (l 1).remaining.toNat ≤ 1 ∧ ¬ AtEnd 4 4 (o 1)) ∧
    AtEnd 0 8 (l 0) ∧ AtEnd 0 8 (o 2) ∧ ¬ AtEnd 8 8 (l 1) := by unfold AtEnd; decide +kernel

theorem witness_NopsAndTraps : (th fun t => { t with hold := some .done }).th.hold = some .done ∧ (0 : BitVec 15) = 0 ∧ State.reset.th.sup.act = false := by
  decide +kernel

/-! ### Hypotheses that can be met: vectors -/

theorem witness_LaneResults : laneWork State.reset.th (.vadd .i16 31 2 3 7) =
      some ⟨.i16, 31, 7, fun i => lane State.reset.th .i16 2 i + lane State.reset.th .i16 3 i⟩ ∧ floatLane .bf16 = true := ⟨rfl, rfl⟩

theorem witness_MaskAndScalarLaneResults : maskWork State.reset.th (.vcmpLeu .i64 7 2 3 0) =
      some ⟨.i64, 7, 0, fun i => (lane State.reset.th .i64 2 i).toNat ≤ (lane State.reset.th .i64 3 i).toNat⟩ ∧
    reduceWork State.reset.th (.vredmax .i32 1 2 7) = some (1, 0xFFFFFFFF80000000) := ⟨rfl, by decide +kernel⟩

/-- 1 / 0 in every lane: with the division flag enabled it traps, else it does not. -/
theorem witness_FloatLaneResults : let s := th fun t => t.wv 2 (splat32 0x3F800000)
    let u := th fun t => { t.wv 2 (splat32 0x3F800000) with vctl := 0x1F0000 }
    ∃ k l, floatWork s.th (.vfdiv .f32 1 2 3 0) = some k ∧ trapping s.th (raised s.th k) = 0 ∧
      floatWork u.th (.vfdiv .f32 1 2 3 0) = some l ∧ trapping u.th (raised u.th l) ≠ 0 ∧ u.th.sup.act = false :=
  ⟨_, _, rfl, by decide +kernel, rfl, by decide +kernel, by decide +kernel⟩

/-- A signalling NaN compared: the same. -/
theorem witness_FloatReduceResults : let s := th fun t => t.wv 2 (splat32 0x7FA00000)
    let u := th fun t => { t.wv 2 (splat32 0x7FA00000) with vctl := 0x1F0000 }
    ∃ k f l g, floatReduceWork s.th (.vfcmpEq .f32 1 2 3 0) = some (k, f) ∧ trapping s.th f = 0 ∧
      floatReduceWork u.th (.vredadd .f32 1 2 0) = some (l, g) ∧ trapping u.th g ≠ 0 ∧ u.th.sup.act = false :=
  ⟨_, _, _, _, rfl, by decide +kernel, rfl, by decide +kernel, by decide +kernel⟩

/-! ### Hypotheses that can be met: memory accesses

`elem64` is the 8-byte word at 64 of cluster 0's HBM, `line64` its line; thread 0 names them by `a1`. -/

/-- An entry of the tests' 8 GiB pages. -/
def leaf (pa : Nat) (w x : Bool) : Leaf := { pa := pa, page := 0x200000000, w := w, x := x }
def elem64 : Elem := { va := 64, pa := 64, size := 8 }
def line64 : Elem := { va := 64, pa := 64, size := 64 }
/-- A supervisor handler with `a1` at 64. -/
def sup64 (f : Thread → Thread) : State := sup fun t => f (t.wa 1 64)
/-- The same with an outstanding operation, for an event about it. -/
def owing (o : Out) : State := { sup64 (fun t => { t with outs := [o], ld := 1, st := 1 }) with ev := { a := 0, b := 5, c := 0 } }

theorem witness_LoadsIssued : let s := sup64 fun t => { t with ld := 62 }
    let u := sup64 fun t => { t with ld := 63 }
    loadForm s.th (.pull .d .strong 3 1 0) = some ⟨8, 64, .sreg 3 8 false, .strong, true⟩ ∧ loadAt s 64 8 8 = .ok elem64 ∧ MayAccess s false ∧ s.th.ld < 63 ∧
    loadForm u.th (.ldv .full .weak 31 1 0xFFF) = some ⟨64, 0, .vreg 31, .weak, false⟩ ∧ loadAt u 0 64 64 = .ok { va := 0, pa := 0, size := 64 } ∧
    MayAccess u false :=
  ⟨by decide +kernel, ok_of (by decide +kernel), may_of _ rfl, by decide +kernel, by decide +kernel, ok_of (by decide +kernel), may_of _ rfl⟩

theorem witness_LoadsReturn : let o : Out := { serial := 5, kind := .load (.sreg 3 8 false) .weak false, elems := [elem64], va := 64 }
    let s := owing o
    o.serial = s.ev.b ∧ Performable s s.ev.a o s.ev.c elem64 ∧ LastOf o s.ev.c ∧ dirtyIn s (coreOf s.ev.a) (localOf elem64.pa) elem64.size = [] ∧
    (s.core (coreOf s.ev.a)).lines.find? (elem64.pa / 64) = none ∧ truthBad s (localOf elem64.pa) elem64.size = false := by
  refine ⟨rfl, by unfold Performable; decide +kernel, ?_, by decide +kernel, by decide +kernel, by decide +kernel⟩
  intro j hj x hx
  have : j = 0 := by simpa using List.getElem?_eq_some_iff.mp hx |>.1
  exact absurd this hj

/-- A pull of thread 8 in a mapped address space. -/
def pulling (e : Elem) (x : EvArgs) : State :=
  { user (fun t => { t with outs := [{ serial := 5, kind := .load (.sreg 3 8 false) .weak true, elems := [e], va := 64 }], ld := 1 }) with ev := x }

theorem witness_PullsServed : let e := { elem64 with place := .cluster 0 }
    let s := pulling e { a := 8, b := 5 }
    let f := { e with got := true, bytes := List.replicate 8 7 }
    let u := pulling f { a := 8, b := 5 }
    let g := { elem64 with pa := 2 ^ 44 + 64, place := .remote 1 0, sent := true }
    let v := pulling g { a := 8, b := 5, line := some (.data 0) }
    (s.ev.flag = false ∧ Performable s 8 { serial := 5, kind := .load (.sreg 3 8 false) .weak true, elems := [e], va := 64 } 0 e ∧ e.pa % 64 + e.size ≤ 64 ∧
      dirtyIn s (coreOf 8) 64 8 = [] ∧ portBehind s 8 5 0 e.place (fun f => !f.got) = false ∧ watchBehind s 8 5 e.place = false ∧
      StashFits s (clusterOf 8) ∧
      walkSlot s (slotOf s 8) e.va = some (leaf 64 true true) ∧ moduleOf 64 = s.regs.modnum ∧ (spaceOf (localOf 64)).cluster? ≠ none ∧ backed s 64 = true ∧
      truthBad s 64 8 = false) ∧
    ((u.thread 8).outs.length = 1 ∧ f.home = false ∧ f.poison = false ∧ replyBehind u 8 5 0 f = false ∧ f.got = true ∧ u.ev.line = none ∧
      replyFor u 5 = none) ∧
    (g.pa % 64 + g.size ≤ 64 ∧ replyBehind v 8 5 0 g = false ∧ g.home = false ∧ v.ev.line = some (.data 0)) := by
  unfold Performable; decide +kernel

theorem witness_StoresIssued : let s := sup64 fun t => { t with st := 62 }
    let u := sup64 fun t => { t with st := 63 }
    (s.MemOk ∧ storeForm s.th (.st .d .sync 3 1 0) = some ⟨8, 64, .sync, 0⟩ ∧ storeAt s 64 8 8 = .ok elem64 ∧ MayAccess s true ∧ s.th.st < 63) ∧
    (storeForm u.th (.st .h .weak 3 1 0) = some ⟨2, 64, .weak, 0⟩ ∧ storeAt u 64 2 2 = .ok { elem64 with size := 2 } ∧ MayAccess u true) ∧
    (storeForm u.th (.stv .lo8 .weak 3 1 8) = some ⟨8, 128, .weak, 0⟩ ∧ storeAt u 128 8 8 = .ok { va := 128, pa := 128, size := 8 } ∧
      cacheable 128 = true ∧ (∀ x ∈ wordsOf { va := 128, pa := 128, size := 8 }, mxBehind u u.tid u.serial x = false)) :=
  ⟨⟨by unfold State.MemOk; decide +kernel, by decide +kernel, ok_of (by decide +kernel), may_of _ rfl, by decide +kernel⟩,
    ⟨by decide +kernel, ok_of (by decide +kernel), may_of _ rfl⟩, by decide +kernel, ok_of (by decide +kernel), by decide +kernel, by decide +kernel⟩

theorem witness_AtomicsIssued : let s := sup64 fun t => { t with st := 62 }
    s.MemOk ∧ amoForm (.amocas true .ar 3 1 4) = some (.cas, true, .ar, 3, 1, 4) ∧ storeAt s (s.th.ra 1) 8 8 = .ok elem64 ∧ MayAccess s true ∧
    storeAt s (s.th.ra 1) 4 4 = .ok { elem64 with size := 4 } ∧ seqForm (.seqadvMax .module 3 1 4) = some (false, .module, 3, 1, 4) ∧ s.th.st < 63 :=
  ⟨by unfold State.MemOk; decide +kernel, rfl, ok_of (by decide +kernel), may_of _ rfl, ok_of (by decide +kernel), rfl, by decide +kernel⟩

theorem witness_StoresPerformed : let e := { elem64 with bytes := List.replicate 8 7 }
    let o : Out := { serial := 5, kind := .store none true, elems := [e], va := 64 }
    let s := owing o
    let u := { (State.reset.updCore 0 fun k => { k with dirty := [(16, { val := 7, tid := 0, asid := 0, va := 64 })] }) with ev := { a := 0, b := 16 } }
    let w := { (State.reset.updCore 0 fun k => { k with dirty := [(16, { val := 7, tid := 0, asid := 0, va := 64, link := .whole }), (17, { val := 9, tid := 0, asid := 0, va := 68, link := .whole })] }) with ev := { a := 0, b := 16 } }
    (s.MemOk ∧ o.serial = s.ev.b ∧ s.ev.c = 0 ∧ Performable s s.ev.a o 0 e ∧ e.bytes.length = e.size ∧ writeDiscarded s 64 = false ∧
      (spaceOf 64).cluster? ≠ none) ∧ LineFits u (u.ev.b * 4) ∧ LineFits w (w.ev.b * 4) ∧
    u.MemOk ∧ (u.core u.ev.a).dirty.find? u.ev.b = some { val := 7, tid := 0, asid := 0, va := 64 } ∧ (u.core u.ev.a).dirtyBad.contains u.ev.b = false ∧
    writeDiscarded u 64 = false ∧ (spaceOf (u.ev.b * 4)).cluster? ≠ none ∧
    w.MemOk ∧ (w.core w.ev.a).dirty.find? w.ev.b = some { val := 7, tid := 0, asid := 0, va := 64, link := .whole } ∧ (w.core w.ev.a).dirty.find? (w.ev.b + 1) = some { val := 9, tid := 0, asid := 0, va := 68, link := .whole } ∧
    (w.core w.ev.a).dirtyBad = [] ∧ writeDiscarded w (w.ev.b * 4) = false := by
  unfold Performable State.MemOk; decide +kernel

theorem witness_AtomicsPerformed : let e := elem64
    let f := { elem64 with size := 4 }
    let o : Out := { serial := 5, kind := .amo .minu .none 3 0 0, elems := [e], va := 64 }
    let p : Out := { serial := 5, kind := .amo .cas .none 3 0 0, elems := [f], va := 64 }
    let q : Out := { serial := 5, kind := .seqadv true .thread 3 9, elems := [e], va := 64 }
    (∀ x ∈ [(o, e), (p, f), (q, e)], (owing x.1).MemOk ∧ x.1.serial = (owing x.1).ev.b ∧ x.1.elems = [x.2] ∧
      Performable (owing x.1) (owing x.1).ev.a x.1 0 x.2 ∧ localOf x.2.pa % x.2.size = 0 ∧ writeDiscarded (owing x.1) 64 = false ∧
      (spaceOf 64).cluster? ≠ none ∧ truthBad (owing x.1) 64 x.2.size = false ∧ dirtyNear (owing x.1) (coreOf (owing x.1).ev.a) 64 x.2.size = []) ∧
    (owing q).ev.c = 0 ∧ ((owing q).thread (owing q).ev.a).outs = [q] ∧ ((owing q).core (coreOf (owing q).ev.a)).dirty = [] := by
  unfold Performable State.MemOk; decide +kernel

theorem witness_FencesAndPrefetch : let s := sup64 fun t => { t with st := 62 }
    s.th.st < 63 ∧ (∀ o ∈ s.th.outs, o.reads = false) ∧ s.th.outs = [] ∧ (s.tile (tileOf s.tid)).queue = [] ∧ (∀ o ∈ s.th.outs, o.acquires = false) ∧
    loadAt (State.reset) (mAddr State.reset.th 1 0 64 &&& ~~~(63 : Addr)) 64 64 = .error { code := 0x05 } := by
  exact ⟨by decide +kernel, by decide +kernel, rfl, rfl, by decide +kernel, err_of (by decide +kernel)⟩

/-- `prog` with four more leaves: 0x2_0000_0000 read-only, then cluster 1's HBM, host memory and the first bytes again, writable. -/
def mapped (f : Thread → Thread) : State :=
  { user f with mem := [(1, 0xB), (2, 0x20000001B), (3, 0x8000000001B), (4, 0x1B)].foldl (fun m e => memPuts m (0x28000 + 8 * e.1) (bytesOfNat 8 e.2)) (user f).mem }

theorem witness_AccessChecks : let s := mapped fun t => (t.wa 1 4).wa 2 (-8)
    let keyed := s.updCluster 0 fun c => { c with keys := [(0, { base := 0, len := 1, holder := 8, job := 0 })] }
    (loadForm s.th (.ld .d .weak 3 1 0) = some ⟨8, 4, .sreg 3 8 false, .weak, false⟩ ∧ s.th.sup.act = false ∧ loadFault s 4 8 = some 0x03 ∧
      loadFault s (-8) 8 = some 0x05 ∧ loadFault s 8 8 = none) ∧
    (storesAt s.th (.amoadd false .none 3 1 4) = some (4, 4) ∧ loadFault s 5 4 = some 0x03) ∧
    (loadFault s 0x200000000 8 = none ∧ walkSlot s (slotOf s s.tid) 0x200000000 = some (leaf 0 false false)) ∧
    (walkSlot s (slotOf s s.tid) 0x400000000 = some (leaf 0x200000000 true false) ∧ loadFault s 0x400000000 8 = none ∧
      placeOf s (clusterOf s.tid) 0x200000000 ≠ .own ∧ placeOf s (clusterOf s.tid) 0x200000000 ≠ .host) ∧
    (walkSlot s (slotOf s s.tid) 0x600000000 = some (leaf 0x80000000000 true false) ∧ loadFault s 0x600000000 8 = none ∧
      placeOf s (clusterOf s.tid) 0x80000000000 = .host) ∧
    (walkSlot s (slotOf s s.tid) 8 = some (leaf 8 true true) ∧ placeOf s (clusterOf s.tid) 8 = .own ∧ ¬ HoldsKeys s 8 8) ∧
    (loadFault keyed 8 8 = none ∧ walkSlot keyed (slotOf keyed keyed.tid) 8 = some (leaf 8 true true) ∧ HoldsKeys keyed 8 8) := by
  refine ⟨by decide +kernel, by decide +kernel, by decide +kernel, by decide +kernel, by decide +kernel, ⟨by decide +kernel, by decide +kernel, ?_⟩,
    by decide +kernel, by decide +kernel, ?_⟩
  · intro h
    obtain ⟨i, e, h, -⟩ := h 0 (by decide) (by decide)
    exact absurd ((congrArg Option.isSome h).symm.trans (by decide +kernel : (keyAt _ 0).isSome = false)) Bool.noConfusion
  · intro u h1 h2
    have : u = 0 := by omega
    subst this
    exact ⟨0, { base := 0, len := 1, holder := 8, job := 0 }, by decide +kernel, by decide +kernel⟩

/-- Two active lanes at 64 and 72, none active, and a lane that is not backed. -/
theorem witness_GatherAndScatter : let s := sup64 fun t => ((t.wm 1 3).wv 2 (BitVec.ofNat 512 (2 ^ 64))).wa 2 (-16)
    let es : List Elem := [elem64, { va := 72, pa := 72, size := 8, lane := 1 }]
    let gs : List Elem := [{ elem64 with size := 2 }, { va := 64, pa := 64, size := 2, lane := 1 }]
    (checkLanes (fun i => loadAt s (laneVa s.th .i64 1 2 i) 8 8) (activeList s.th .i64 1) = .ok es ∧ es ≠ [] ∧ MayAccess s false ∧ s.th.ld < 63) ∧
    checkLanes (fun i => loadAt s (laneVa s.th .i64 1 2 i) 8 8) (activeList s.th .i64 7) = .ok [] ∧
    (checkLanes (fun i => storeAt s (laneVa s.th .i64 1 2 i) 8 8) (activeList s.th .i64 1) = .ok es ∧ MayAccess s true ∧ s.th.outs = [] ∧
      (s.tile (tileOf s.tid)).queue = [] ∧ (∀ e ∈ es, cacheable e.pa = true ∧ localOf e.pa % 8 = 0)) ∧
    checkLanes (fun i => storeAt s (laneVa s.th .i16 1 3 i) 2 2) (activeList s.th .i16 1) = .ok gs ∧
    ∃ c, checkLanes (fun i => loadAt (th id) (laneVa (th id).th .i64 1 2 i) 8 8) (activeList (th id).th .i64 0) = .error c ∧ (th id).th.sup.act = false :=
  ⟨⟨ok_of (by decide +kernel), by decide +kernel, may_of _ rfl, by decide +kernel⟩, ok_of (by decide +kernel),
    ⟨ok_of (by decide +kernel), may_of _ rfl, rfl, rfl, by decide +kernel⟩, ok_of (by decide +kernel), { code := 0x05 }, err_of (by decide +kernel), rfl⟩

/-! ### Hypotheses that can be met: watches, waits, barriers, keys, the stash -/

/-- A watch request from thread 8 for the word at 64, which has arrived. -/
def watching (threshold : Word) : State :=
  { prog with watchReqs := [{ tid := 8, serial := 3, va := 64, asid := 0, pa := 64, place := .cluster 0, threshold := threshold, scope := .domain }] }

theorem witness_WatchesWork : let s := sup64 id
    let u : State := { th (fun t => { t with slots := t.slots.set 7 (.placed 64 .domain 3) }) with watchAnss := [⟨0, 3, 64, 9, .normal⟩] }
    (s.MemOk ∧ loadAt s (s.th.ra 1) 8 8 = .ok elem64 ∧ elem64.place ≠ .host ∧ MayAccess s false ∧ meets s [elem64] = false) ∧
    (∀ w ∈ [watching 0, watching 1], w.ev.flag = false ∧ w.watchReqs.length = 1 ∧ watchBehind w 8 3 (.cluster 0) = false ∧
        portBehind w 8 3 0 (.cluster 0) (fun e => !e.got) = false ∧ slotOfAsid w 0 = some 0 ∧ moduleOf 64 = w.regs.modnum ∧
        walkSlot w 0 64 = some (leaf 64 true true) ∧ backed w 64 = true ∧ truthPoison w 64 = false ∧ (w.cluster 0).watches.length < 1024 ∧
        truthWord w 64 = 0) ∧
    u.ev.flag = false ∧ u.watchAnss[u.ev.a]? = some ⟨0, 3, 64, 9, .normal⟩ ∧ (u.thread 0).slotAt 7 = .placed 64 .domain 3 :=
  ⟨⟨by unfold State.MemOk; decide +kernel, ok_of (by decide +kernel), by decide +kernel, may_of _ rfl, by decide +kernel⟩, by decide +kernel,
    by decide +kernel, by decide +kernel, by decide +kernel⟩

theorem witness_WaitsComplete : let s := sup64 fun t => { t with slots := (t.slots.set 7 (.answered 64 .domain 64 9 .normal)).set 6 (.answered 64 .domain 64 9 .full), ld := 31 }
    ownAt s (s.th.ra 1) 8 8 true = .ok elem64 ∧ MayAccess s false ∧ cancelled s s.tid = false ∧ s.th.slotAt 0 = .free ∧
    s.th.slotAt 7 = .answered 64 .domain 64 9 .normal ∧ s.th.slotAt 6 = .answered 64 .domain 64 9 .full ∧ meets s [elem64] = false ∧
    dirtyIn s s.cur 64 8 = [] ∧ truthBad s 64 8 = false ∧ truthWord s 64 = s.th.rs 4 ∧ LineFits s 64 ∧ ((31 : BitVec 5) = 31 ∨ s.th.ld ≤ 31) ∧
    (s.th.st ≤ (0 : BitVec 5).toNat) :=
  ⟨ok_of (by decide +kernel), may_of _ rfl, by decide +kernel⟩

theorem witness_Barriers : let s := sup64 id
    s.MemOk ∧ barrierAt s (s.th.ra 1) true = .ok line64 ∧ barrierAt s (s.th.ra 1) false = .ok line64 ∧ MayAccess s true ∧ MayAccess s false ∧
    meets s [line64] = false ∧ cancelled s s.tid = false ∧ dirtyIn s s.cur 64 64 = [] ∧ dirtyIn s s.cur 64 16 = [] ∧ truthBad s 72 8 = false ∧
    truthBad s 64 16 = false ∧ writeDiscarded s 64 = false ∧ LineFits s 64 ∧ (truthWord s 72 = s.th.rs 4 ∧ (truthWord s 64).toInt ≤ 0) :=
  ⟨by unfold State.MemOk; decide +kernel, ok_of (by decide +kernel), ok_of (by decide +kernel), may_of _ rfl, may_of _ rfl, by decide +kernel⟩

/-- Thread 8 with `a1` at 64, whose unit is under entry 4095 of the cluster's table. -/
def keyed (e : KeyEntry) (x : Word) : State := (user fun t => (t.wa 1 64).ws 4 x).updCluster 0 fun c => { c with keys := [(4095, e)] }

theorem witness_WriterKeys : let e : KeyEntry := { base := 0, len := 1, holder := 8, job := 0 }
    let s := keyed e 9
    let p : KeyEntry := { e with holder := 0xFF, pending := 8 }
    let u := keyed p 9
    let n := user fun t => t.wa 1 64
    (keyPlace s (s.th.ra 1) = .ok 64 ∧ MayAccess s true ∧ s.th.sup.act = false ∧ keyAt (s.cluster (clusterOf s.tid)) (64 / 4096) = some (4095, e) ∧
      e.job = slotOf s s.tid ∧ e.holder = codeOf s.tid ∧ givable s ((s.th.rs 4).toNat % 256) = true ∧ regionBusy s e = false ∧
      (s.core s.cur).dirty = [] ∧ (s.th.rs 4).toNat % 256 ≠ codeOf s.tid ∧ e.pending ≠ codeOf s.tid ∧ e.len < 2 ^ 24 ∧ e.lender < 256) ∧
    (keyPlace u (u.th.ra 1) = .ok 64 ∧ keyAt (u.cluster (clusterOf u.tid)) (64 / 4096) = some (4095, p) ∧ p.pending = codeOf u.tid ∧ MayAccess u false) ∧
    (keyed e 0xA5).th.sup.act = false ∧ givable (keyed e 0xA5) (((keyed e 0xA5).th.rs 4).toNat % 256) = true ∧
    keyPlace n (n.th.ra 1) = .ok 64 ∧ keyAt (n.cluster (clusterOf n.tid)) (64 / 4096) = none :=
  ⟨⟨ok_of (by decide +kernel), may_of _ rfl, by decide +kernel⟩,
    ⟨ok_of (by decide +kernel), by decide +kernel, by decide +kernel, may_of _ rfl⟩, by decide +kernel, by decide +kernel, ok_of (by decide +kernel),
    by decide +kernel⟩

/-- A read kept for the instruction that waits for it: elements, with the bytes each has brought home. -/
def keptOut (es : List (Elem × List Byte)) : Out :=
  { serial := 3, kind := .load .keep .strong true, elems := es.map fun e => { e.1 with bytes := e.2, got := true, home := true } }

/-- An instruction whose read has come has its bytes. -/
theorem reads_kept {s : State} {es : List Elem} {bs : List Byte} (b : Bool) (x : Out)
    (h : (s.core s.cur).dirty = [] ∧ (s.tile (tileOf s.tid)).queue = [] ∧ StashFits s (clusterOf s.tid))
    (g : s.th.owed = [] ∧ s.th.kept? es = some x ∧ (∀ e ∈ x.elems, e.home = true ∧ e.poison = false) ∧ bs = x.elems.flatMap (·.bytes)) :
    ReadsBytes s b es bs := ⟨h.1, h.2.1, h.2.2, .inr ⟨g.1, x, g.2.1, g.2.2.1, g.2.2.2⟩⟩

/-- Piece i of a configuration block at 64, and the block as read: 23 scratch ways and no stash, as at reset, in its first two bytes. -/
def stashPiece (i : Nat) : Elem := { va := BitVec.ofNat 80 (64 + 16 * i), pa := 64 + 16 * i, size := 16 }
def stashBytes : List Byte := 23 :: List.replicate 143 0
def stashing : State :=
  sup64 fun t => { t with outs := [keptOut ((List.range 9).map fun i => (stashPiece i, (stashBytes.drop (16 * i)).take 16))], ld := 1 }

theorem witness_StashConfiguration : let s := stashing
    (s.th.ra 1).toNat % 16 = 0 ∧ (∀ i < 9, loadAt s (s.th.ra 1 + BitVec.ofNat 80 (16 * i)) 16 16 = .ok (stashPiece i)) ∧
    ReadsBytes s false ((List.range 9).map stashPiece) stashBytes ∧ clusterBusy s (clusterOf s.tid) = false ∧
    allZero ((stashBytes.drop 2).take 14) = true ∧ natAt stashBytes 0 1 + natAt stashBytes 1 1 + (s.cluster (clusterOf s.tid)).prot ≤ 24 ∧
    (s.cluster (clusterOf s.tid)).scratch ≤ natAt stashBytes 0 1 := by
  refine ⟨by decide +kernel, ?_, reads_kept _ _ (by decide +kernel) ⟨by decide +kernel, rfl, by decide +kernel, by decide +kernel⟩, by decide +kernel,
    by decide +kernel, by decide +kernel, by decide +kernel⟩
  intro i hi
  have : ∀ i < 9, (loadAt stashing (stashing.th.ra 1 + BitVec.ofNat 80 (16 * i)) 16 16).toOption = some (stashPiece i) := by decide +kernel
  exact ok_of (this i hi)

/-! ### Hypotheses that can be met: extended precision, matrix instructions -/

/-- Windows w1 to w4 of two limbs each, and w5 of one: 1, 1 − 2^−36, 0, 0, 0. -/
def wins (p : Word) : Thread → Thread := fun t =>
  { t with win := ((((t.win.set 1 (some ⟨0, 2⟩)).set 2 (some ⟨2, 2⟩)).set 3 (some ⟨4, 2⟩)).set 4 (some ⟨6, 2⟩)).set 5 (some ⟨8, 1⟩)
           wfile := [(0, 0x03FFFFF000000000), (2, 0x03FFFFEFFFFFFFFF)], prec := p }

theorem witness_ExtendedResults : let s := th (wins 53)
    let g := th (wins (53 + 10 * 2 ^ 24))
    let z := th (wins (53 + 0x1F * 2 ^ 40))
    (∃ k, extWork s.th (.xadd 3 1 2) = some k ∧ Live s.th k.live ∧ nLimbs (precP s.th.prec) ≤ (s.th.winAt k.d).len ∧
      guardTrips (precG s.th.prec) k.guard (roundExt (precP s.th.prec) (precRm s.th.prec) k.r.1).1 = false ∧
      extTrapping s.th (k.r.2 ||| (roundExt (precP s.th.prec) (precRm s.th.prec) k.r.1).2) = 0) ∧
    (∃ k, extWork s.th (.xmov 5 1) = some k ∧ Live s.th k.live ∧ (s.th.winAt k.d).len < nLimbs (precP s.th.prec)) ∧
    (∃ k, extWork s.th (.xneg 6 1) = some k ∧ ¬ Live s.th k.live ∧ s.th.sup.act = false) ∧
    (∃ k, extWork g.th (.xsub 3 1 2) = some k ∧ Live g.th k.live ∧ k.guard ≠ [] ∧
      guardTrips (precG g.th.prec) k.guard (roundExt (precP g.th.prec) (precRm g.th.prec) k.r.1).1 = true) ∧
    ∃ k, extWork z.th (.xdiv 3 1 4) = some k ∧ Live z.th k.live ∧ k.guard = [] ∧
      extTrapping z.th (k.r.2 ||| (roundExt (precP z.th.prec) (precRm z.th.prec) k.r.1).2) ≠ 0 := by
  unfold Live
  exact ⟨⟨_, rfl, by decide +kernel, by decide +kernel, by decide +kernel, by decide +kernel⟩, ⟨_, rfl, by decide +kernel, by decide +kernel⟩,
    ⟨_, rfl, by decide +kernel, rfl⟩, ⟨_, rfl, by decide +kernel, by decide +kernel, by decide +kernel⟩, _, rfl, by decide +kernel, rfl, by decide +kernel⟩

theorem witness_ExtendedScalars : let s := user (wins 53)
    let z := user fun t => wins (53 + 0x1F * 2 ^ 40) t
    (extScalar s.th (.xcmp 1 1 2) = some (1, [1, 2], 4, 0) ∧ Live s.th [1, 2] ∧ extTrapping s.th 0 = 0) ∧
    (extScalar z.th (.xcvtScalarToInt64 1 2) = some (1, [2], 1, flagNx) ∧ Live z.th [2] ∧ extTrapping z.th flagNx ≠ 0 ∧ z.th.sup.act = false) ∧
    (s.th.rw 1 = some ⟨0, 2⟩ ∧ nLimbs (precP s.th.prec) < 256 ∧ (s.th.rs 4).toNat % 1024 < 8) ∧
    (8 ≤ ((user fun t => t.ws 4 0x43E5).th.rs 4).toNat % 1024 ∧ ((user fun t => t.ws 4 0x43E5).th.rs 4).toNat % 1024 ≤ 997 ∧
      ((user fun t => t.ws 4 0x43E5).th.rs 4).toNat / 4096 % 8 ≤ 4) ∧
    (1 ≤ (16 : BitVec 5).toNat ∧ (16 : BitVec 5).toNat ≤ 16 ∧ (9 : BitVec 8).toNat + (16 : BitVec 5).toNat ≤ windowLimit s s.tid ∧ s.th.rw 6 = none) := by
  unfold Live
  refine ⟨⟨by decide +kernel, by decide +kernel, by decide +kernel⟩, ⟨by decide +kernel, by decide +kernel, by decide +kernel, by decide +kernel⟩,
    by decide +kernel, by decide +kernel, by decide +kernel⟩

/-- No other live window meets limbs 9 to 24. -/
theorem witness_ExtendedScalars_alloc : ∀ r : WReg, r ≠ 6 → ∀ w, (user (wins 53)).th.rw r = some w → w.base + w.len ≤ 9 ∨ 9 + 16 ≤ w.base := by
  have : ∀ r : WReg, r ≠ 6 → ((user (wins 53)).th.rw r).all (fun w => w.base + w.len ≤ 9 || 9 + 16 ≤ w.base) = true := by decide +kernel
  intro r hr w hw
  have := this r hr
  rw [hw] at this
  simpa using this

theorem witness_ExtendedMemory : let s := sup64 fun t => wins 53 { t with st := 62 }
    let u := { sup64 (wins 53) with mem := memPuts [] 64 (bytesOfNat 8 0x03FFFFF000000000) }
    let es : List Elem := [elem64, { va := 72, pa := 72, size := 8, lane := 1 }]
    let v := sup64 fun t => wins 53 { t with ld := 2, outs := [keptOut [(elem64, bytesOfNat 8 0x0BFFFFF000000000)],
      { keptOut [({ elem64 with va := 72, pa := 72 }, bytesOfNat 8 0x1000000000000000)] with serial := 4 }] }
    (s.th.rw 3 = some ⟨4, 2⟩ ∧ checkLimbs (fun x => storeAt s x 8 8) (mAddr s.th 1 0 8) 0 2 = .ok es ∧ MayAccess s true ∧ s.th.st < 63 ∧
      MOrder.sync ≠ .weak ∧ s.MemOk) ∧
    (s.th.outs = [] ∧ (s.tile (tileOf s.tid)).queue = [] ∧ (∀ e ∈ es, cacheable e.pa = true) ∧ (∀ e ∈ es, localOf e.pa % 8 = 0) ∧
      es.Pairwise (fun e f => localOf e.pa ≠ localOf f.pa)) ∧
    (u.th.rw 3 = some ⟨4, 2⟩ ∧ checkLimbs (fun x => loadAt u x 8 8) (mAddr u.th 1 0 8) 0 1 = .ok [elem64]) ∧
    (u.th.owed = [] ∧ (u.tile (tileOf u.tid)).queue = [] ∧ (u.core u.cur).dirty = [] ∧ StashFits u (clusterOf u.tid)) ∧
    LimbsRead u .weak [elem64] [0x03FFFFF000000000] ∧ LimbsRead u .weak [] [] ∧
    (((0x03FFFFF000000000 : Word).extractLsb' 59 4).toNat + 1 = 1 ∧ nLimbs (precP u.th.prec) ≤ 2) ∧
    extTrapping u.th (snanX (extVal [truthWord u 64]) ||| (roundExt (precP u.th.prec) (precRm u.th.prec) (extVal [truthWord u 64])).2) = 0 ∧
    (v.th.rw 3 = some ⟨4, 2⟩ ∧ checkLimbs (fun x => loadAt v x 8 8) (mAddr v.th 1 0 8) 0 2 = .ok es ∧ v.th.owed = [] ∧ (v.core v.cur).dirty = []) ∧
    LimbsRead v .sync (es.take 1) [0x0BFFFFF000000000] ∧ LimbsRead v .sync (es.drop 1) [0x1000000000000000] ∧
    (((0x0BFFFFF000000000 : Word).extractLsb' 59 4).toNat + 1 = 2 ∧ nLimbs (precP v.th.prec) ≤ 2) ∧
    extTrapping v.th (snanX (extVal [0x0BFFFFF000000000, 0x1000000000000000]) |||
      (roundExt (precP v.th.prec) (precRm v.th.prec) (extVal [0x0BFFFFF000000000, 0x1000000000000000])).2) = 0 := by
  refine ⟨⟨by decide +kernel, ok_of (by decide +kernel), may_of _ rfl, by decide +kernel, by decide +kernel, by unfold State.MemOk; decide +kernel⟩,
    by decide +kernel, ⟨by decide +kernel, ok_of (by decide +kernel)⟩, by decide +kernel,
    .inl ⟨rfl, by decide +kernel, by decide +kernel, by decide +kernel, by decide +kernel, by decide +kernel⟩,
    .inl ⟨rfl, by decide +kernel, by decide +kernel, by decide +kernel, by decide +kernel, rfl⟩, by decide +kernel, by decide +kernel,
    ⟨by decide +kernel, ok_of (by decide +kernel), by decide +kernel, by decide +kernel⟩, .inr ⟨_, rfl, by decide +kernel, by decide +kernel⟩,
    .inr ⟨_, rfl, by decide +kernel, by decide +kernel⟩, by decide +kernel, by decide +kernel⟩

/-- The striker of tile 0's active pair: thread 4, running task 0 of a tile launch. -/
def striker (f : Thread → Thread) : State :=
  let l : Launch := { handle := 1, slot := 0, tile := true, windows := 256, split := [1, 1, 1, 1], watchdog := 0, spillCap := 0, header := 0, mask := 1, id := 0, count := 1 }
  let t : Task := { id := 0, launch := 1, parent := none, path := [], entry := 0, args := 0, state := .running, threads := [0, 4] }
  ({ State.reset with cur := 1, launches := [(1, l)], tasks := [(0, t)], nextHandle := 2, nextTask := 1 }.setThread 4 (f { task := some 0 })).updTile 0
    fun x => { x with pair := some 0 }

/-- The drain's checks include a key of the thread on every unit of the bank it writes. -/
theorem witness_MatrixIssue : let s := (striker fun t => (t.ws 2 0x10000000000).ws 3 64 |>.ws 4 7).updCluster 0 fun c =>
      { c with keys := [(0, { base := bankAddr 0 0 / 4096, len := 32, holder := 4 })] }
    (IsStriker s ∧ MayAccess s true ∧ s.th.mx < 63 ∧ redundancyAt s (tileOf s.tid) = 0) ∧
    (mxForm s (.mzero 15) = some (0, 0, True) ∧ DrainKeys s (.mzero 15)) ∧
    (layoutOk (formatAt s (tileOf s.tid) 0) (s.th.rs 2) true = true ∧
      ∀ u ∈ spanUnits (tensorSpans (bankAddr (tileOf s.tid) 0) (formatAt s (tileOf s.tid) 0) (s.th.rs 2)), threadMayStore s s.tid (u * 4096) 1 = true) ∧
    (mmaOk (formatAt s (tileOf s.tid) 0) (formatAt s (tileOf s.tid) 1) (s.th.rs 3) (s.th.rs 0) = true) ∧
    ((s.th.rs 3) >>> 3 ≠ 0 ∧ formatOk (s.th.rs 4) = true ∧ s.th.sup.act = false) ∧ ¬ IsStriker State.reset ∧ State.reset.th.sup.act = false := by
  refine ⟨⟨by unfold IsStriker; decide +kernel, may_of _ rfl, by decide +kernel, by decide +kernel⟩, ⟨rfl, trivial⟩, by decide +kernel, by decide +kernel,
    by decide +kernel, by unfold IsStriker; decide +kernel, rfl⟩

theorem witness_MatrixCompletes : let q : MxOp := { serial := 0, instr := .mdrain 1 15 0 2, tid := 4, y := 0x10000000000 }
    let s := (striker fun t => { t with mx := 1 }).updTile 0 fun x => { x with queue := [q] }
    (s.tile s.ev.a).queue = q :: [] ∧ (s.thread q.tid).outs = [] ∧ s.MemOk ∧ s.stale = [] ∧ redundancy (s.tile s.ev.a).cfg = 0 ∧ PlainMx s s.ev.a q := by
  unfold PlainMx State.MemOk; decide +kernel

theorem witness_Semaphores : let s := (striker id).updTile 0 fun x => { x with sems := x.sems.set 7 14 }
    inPair s s.tid = true ∧ s.th.outs = [] ∧ (s.tile (tileOf s.tid)).queue = [] ∧ (s.tile (tileOf s.tid)).sem 7 < 15 ∧ cancelled s s.tid = false ∧
    (s.tile (tileOf s.tid)).sem 7 ≠ 0 ∧ inPair State.reset State.reset.tid = false ∧ State.reset.th.sup.act = false := by decide +kernel

/-! ### Hypotheses that can be met: engines, sketches, collectives -/

theorem each_ok {f : Nat → Except Trap Elem} {es : List Elem} (h : (es.zipIdx.all fun p => (f p.2).toOption == some p.1) = true) :
    ∀ (n : Nat) (e : Elem), es[n]? = some e → f n = .ok e := by
  intro n e g
  have := List.all_eq_true.mp h (e, n) (by simpa [List.mem_zipIdx_iff_getElem?] using g)
  exact ok_of (by simpa using this)

theorem room_of {s : State} (h : s.th.cp < 63 ∧ (s.cluster (clusterOf s.tid)).jobs.length < 64) (g : s.th.outs = []) : JobRoom s :=
  ⟨h.1, h.2, may_of _ g⟩

/-- A pull of one byte from 0 to 0x1000, its card in memory at 64. -/
theorem witness_CardsAccepted : let s := sup64 fun t => { t.wa 2 0x1000 with cp := 62 }
    let u := th (·.wa 2 0x1000)
    let c := (copyCard s.th 1 0 0 0x1000 0 0 0).take 128 ++ [0, 0, 0, 0, 0, 0, 0, 0, 0, 0, 1, 0, 0, 0, 0, 0] ++ List.replicate 48 0 ++
      [0, 0x10, 0, 0, 0, 0, 0, 0, 0, 0, 1, 0, 0, 0, 0, 0] ++ List.replicate 48 0
    let m := { s with mem := memPuts [] 64 c }
    let es : List Elem := [line64, { va := 128, pa := 128, size := 64 }, { va := 192, pa := 192, size := 64 }, { va := 256, pa := 256, size := 64 }]
    engineCard s (.bpull 0 0 2 0 0) = some (copyCard s.th 1 0 0 0x1000 0 0 0, True) ∧ (s.tile (tileOf s.tid)).queue = [] ∧
    cardFault s (threadParty s) true (copyCard s.th 1 0 0 0x1000 0 0 0) = none ∧ JobRoom s ∧
    ((cardFault u (threadParty u) true (copyCard u.th 1 0 0 0x1000 0 0 0)).isSome = true ∧ u.th.sup.act = false) ∧
    (m.th.outs = [] ∧ (m.core m.cur).dirty = [] ∧ (m.tile (tileOf m.tid)).queue = [] ∧ StashFits m (clusterOf m.tid) ∧ (m.th.ra 1).toNat % 64 = 0 ∧ es.length = 4 ∧
      c = es.flatMap (fun e => truthRead m (localOf e.pa) 64) ∧ cardFault m (threadParty m) false c = none ∧
      ∀ e ∈ es, e.place = .own ∧ truthBad m (localOf e.pa) 64 = false) ∧
    (∀ (k : Nat) (e : Elem), es[k]? = some e → loadAt m (m.th.ra 1 + BitVec.ofNat 80 (64 * k)) 64 64 = .ok e) :=
  ⟨rfl, rfl, by decide +kernel, room_of (by decide +kernel) rfl, by decide +kernel, by decide +kernel, each_ok (by decide +kernel)⟩

/-- A sketch of three rows of 16 counters at 128, all its multipliers 1. -/
def sketch128 : Sketch := { base := 128, d := 3, logw := 4, e := 0, mulA := [1, 1, 1], mulC := [1, 1, 1] }
def sketching : State :=
  { sup fun t => { ((t.wa 1 128).wa 2 0x1000).ws 4 0x403 with ld := 62, cp := 62 } with
    mem := memPuts (memPuts [] 128 (descriptor 3 4 0 [1, 1, 1] [1, 1, 1])) 0x1000 (bytesOfNat 8 1) }

theorem sketch_at : SketchAt sketching 128 sketch128 :=
  ⟨by decide +kernel, by decide +kernel, by decide +kernel, { va := 128, pa := 128, size := 64 }, { va := 192, pa := 192, size := 64 }, ok_of (by decide +kernel),
    ok_of (by decide +kernel), rfl, rfl, by decide +kernel, by decide +kernel, by decide +kernel⟩

theorem witness_SketchesAccepted : let s := sketching
    let k := sketch128
    let tab : List Elem := (List.range 6).map fun i => { va := BitVec.ofNat 80 (0x1000 + 8 * i), pa := 0x1000 + 8 * i, size := 8 }
    let row : List Elem := [{ va := 131, pa := 131, size := 1 }, { va := 256, pa := 256, size := 4 }, { va := 320, pa := 320, size := 4 }, { va := 384, pa := 384, size := 4 }]
    StashFits s (clusterOf s.tid) ∧ Quiet s ∧ JobRoom s ∧ s.th.ld < 63 ∧ SketchAt s (s.th.ra 1) k ∧ extentFault s k = none ∧ sketchForm s.th (.skclr 1) = some (1, .clear) ∧
    (∀ u ∈ k.shape.units.map (·.2), (translate s s.tid (BitVec.ofNat 80 u) .read).toOption.isSome = true) ∧
    geometryWordOk (s.th.rs 4) = true ∧ (s.th.ra 1).toNat % 128 = 0 ∧ (s.th.ra 2).toNat % 8 = 0 ∧ tab.length = 2 * ((s.th.rs 4).toNat % 256) ∧
    (∀ (n : Nat) (e : Elem), tab[n]? = some e → loadAt s (s.th.ra 2 + BitVec.ofNat 80 (8 * n)) 8 8 = .ok e) ∧
    (∀ e ∈ tab, e.place = .own ∧ truthBad s (localOf e.pa) 8 = false) ∧ row.length = k.d + 1 ∧
    (∀ (n : Nat) (e : Elem), row[n]? = some e → loadAt s (if n = 0 then BitVec.ofNat 80 ((k.base + 3) % 2 ^ 80)
        else BitVec.ofNat 80 (k.counter (n - 1) (k.hash (n - 1) (s.th.rs 5)))) (if n = 0 then 1 else 4) 1 = .ok e) ∧
    flagsAt s k = .ok { va := 131, pa := 131, size := 1 } :=
  ⟨by decide +kernel, by unfold Quiet; decide +kernel, room_of (by decide +kernel) rfl, by decide +kernel, sketch_at, by decide +kernel, rfl, by decide +kernel, by decide +kernel,
    by decide +kernel, by decide +kernel, by decide +kernel, each_ok (by decide +kernel), by decide +kernel, by decide +kernel, each_ok (by decide +kernel),
    ok_of (by decide +kernel)⟩

/-- A group of one member, the module's own engine: its directory at 0x1000, an all-reduce block at 64 of 16 elements, 0x2000 to 0x3000. -/
theorem witness_CollectivesAccepted : let s : State := { (sup64 id).updSlot 0 (fun x => { x with grpt := 0x1000, grpn := 1 }) with
      mem := [(80, 16), (97, 0x20), (113, 0x30), (129, 0x40), (152, 0x40), (153, 0x40), (0x1001, 0x11), (0x1008, 1), (0x1100, 0x42)] }
    let f : Elem := { va := 128, pa := 128, size := 64 }
    let b := truthRead s 64 64 ++ truthRead s 128 64 ++ bytesOfNat 10 (s.th.ra 1).toNat
    Quiet s ∧ JobRoom s ∧ loadAt s (s.th.ra 1) 64 64 = .ok line64 ∧ loadAt s (s.th.ra 1 + 64) 64 64 = .ok f ∧
    StashFits s (clusterOf s.tid) ∧ (s.th.ra 1).toNat % 64 = 0 ∧ threadMayStore s s.tid 64 64 = true ∧ threadMayStore s s.tid 128 64 = true ∧ truthBad s 64 64 = false ∧ truthBad s 128 64 = false ∧
    blockBad b = false ∧ (groupOf s (slotOf s s.tid) (collGroup b)).1 = some [0x42] ∧ rankOf s (clusterOf s.tid) [0x42] = some 0 ∧
    groupBad s (clusterOf s.tid) b 1 = false ∧ collOp b ≠ 4 ∧ collFault s (threadParty s) b 1 128 = none ∧ s.fuse.lite = false ∧
    (collSketch s (threadParty s) b).isNone = true :=
  ⟨by unfold Quiet; decide +kernel, room_of (by decide +kernel) rfl, ok_of (by decide +kernel), ok_of (by decide +kernel), by decide +kernel⟩

/-! ### Hypotheses that can be met: messages -/

/-- A request of opcode 0x40, no operand words, to inbox 0 of cluster 0 from core 0. -/
def hello : Vec := 0x40

theorem witness_MessagesSent : let s := th fun t => { t.wv 1 hello with sq := List.replicate 15 hello }
    let u := th fun t => { t with ujV := true, ujIdx := 15, journal := t.journal.set 15 (.refused hello 2 0) }
    MaySend s (s.th.rv 1) ∧ s.th.reps[15]? = some .free ∧ s.th.journal[15]? = some .free ∧ s.th.ujV = false ∧
    (u.th.ujV = true ∧ u.th.ujIdx < 16 ∧ u.th.journal[u.th.ujIdx]? = some (.refused hello 2 0) ∧ MaySend u hello) ∧
    msgRefused s 0 = true ∧ msgRefused State.reset (State.reset.th.rv 1) = true ∧ State.reset.th.sup.act = false := by
  refine ⟨⟨by decide +kernel, may_of _ rfl, by decide +kernel⟩, by decide +kernel, by decide +kernel, rfl,
    ⟨rfl, by decide +kernel, by decide +kernel, by decide +kernel, may_of _ rfl, by decide +kernel⟩, by decide +kernel, by decide +kernel, rfl⟩

theorem witness_MessagesReceived : let s := (th fun t => { t.ws 4 0x40 with reps := t.reps.set 15 (.reply hello 3) })
    let u := (th fun t => { t.ws 4 63 with inbox := some 63 }).updCluster 0 fun c => { c with inboxes := [(63, { bound := some (7, false), msgs := [hello] })] }
    (cancelled s s.tid = false ∧ s.th.inbox = none ∧ s.th.reps[15]? = some (.reply hello 3)) ∧
    (∀ (j : Nat) n q, j ≠ 15 → s.th.reps[j]? = some (.reply n q) → 3 < q) ∧
    (cancelled u u.tid = false ∧ waitingReqs u u.tid = [hello] ∧ u.th.rs 4 >>> 6 = 0 ∧
      ((u.cluster (clusterOf u.tid)).inboxes.get {} (u.th.rs 4).toNat).bound = some (7, false)) ∧
    ((s.th.rs 0) >>> 6 = 0 ∧ ((s.cluster (clusterOf s.tid)).inboxes.get {} 0).bound = none) ∧
    ((s.th.rs 4) >>> 7 = 0 ∧ (s.th.rs 4).getLsbD 6 = true) := by
  refine ⟨by decide +kernel, ?_, by decide +kernel, by decide +kernel, by decide +kernel⟩
  have this : ∀ j < 16, j ≠ 15 → (th fun t => { t.ws 4 0x40 with reps := t.reps.set 15 (.reply hello 3) }).th.reps[j]? = some .free := by decide +kernel
  intro j n q hj h
  obtain ⟨hl, -⟩ := Vector.getElem?_eq_some_iff.mp h
  rw [this j hl hj] at h
  cases h

theorem witness_MessageEvents : let s := th fun t => { t with sq := [hello] }
    let f : Flight := { msg := hello, slot := 0 }
    let u (bound : Option (Nat × Bool)) : State := { State.reset.updCluster 0 (fun c => { c with inboxes := [(0, { bound := bound, msgs := List.replicate 31 hello })] }) with
      requests := [f] }
    let r := { th (fun t => { t with reps := t.reps.set 0 (.reserved hello 0 5), journal := t.journal.set 0 (.sent hello 0 6) }) with
      replies := [hello], accepts := [{ tid := 0, entry := 0 }], refusals := [{ tid := 0, entry := 0, status := 7 }] }
    ((s.thread s.ev.a).sq = hello :: [] ∧ epModule (msgTarget hello) = s.regs.modnum % 1024) ∧
    ((u (some (7, false))).requests[0]? = some f ∧ msgPosted f.msg = false ∧
      ((u (some (7, false))).cluster 0).inboxes.get {} (msgInbox f.msg) = { bound := some (7, false), job := f.slot, msgs := List.replicate 31 hello }) ∧
    (((u none).cluster 0).inboxes.get {} (msgInbox f.msg)).bound = none ∧
    (r.ev.flag = false ∧ r.replies[r.ev.a]? = some hello ∧ epUnit (msgTarget hello) < 0x24 ∧ msgByte hello 9 < 64 ∧
      (r.thread 0).reps[msgSlot hello]? = some (.reserved hello 0 5) ∧ slotOwner r 0 (msgSlot hello) = some 5) ∧
    ((r.thread 0).journal[0]? = some (.sent hello 0 6) ∧ entryOwner r 0 0 = some 6 ∧ r.accepts[r.ev.a]? = some { tid := 0, entry := 0 } ∧
      r.refusals[r.ev.a]? = some { tid := 0, entry := 0, status := 7 }) := by decide +kernel

/-! ### Hypotheses that can be met: tasks and graphs

The task of `prog` is number 0, of launch 1, on thread 8. -/

/-- The first 128 bytes of a lane kernel's header with its entry at 0x2000, and a launch command for a header at 0x1000 on cluster 0. -/
def kernelBytes : List Byte := [0x48, 0x4B, 1, 1] ++ List.replicate 21 0 ++ [0x20] ++ List.replicate 102 0
def launchBytes : List Byte := [0, 0x10] ++ List.replicate 14 0 ++ [1] ++ List.replicate 111 0

/-- Task 0 changed, with a key for its thread, a kernel at 0x1000 and a launch command at 0x1080. -/
def tasking (f : Task → Task) : State :=
  let s := { user (fun t => (t.wa 1 0x1080).wa 2 0x400) with mem := memPuts (memPuts prog.mem 0x1000 kernelBytes) 0x1080 launchBytes }
  (s.updTask 0 f).updCluster 0 fun c => { c with keys := [(0, { base := 0, len := 1, holder := 8, job := 0 })] }

/-- `tasking`'s task and launch. -/
def task0 (f : Task → Task) : Task := f (placedTask State.reset)
def launch0 : Launch := placedLaunch State.reset

theorem runs_task (f : Task → Task) (h : (task0 f).launch = 1) (g : (task0 f).cancel = false) : RunsTask (tasking f) 0 (task0 f) launch0 :=
  ⟨rfl, by rfl, by rfl, by simp only [h]; rfl, g⟩

theorem witness_TaskInstructions : let s := tasking id
    let d := tasking fun t => { t with path := List.replicate 15 0 }
    let n := tasking fun t => { t with spawned := 4096 }
    let e : Task := { id := 1, launch := 1, parent := some 0, path := [0], entry := 0, args := 0, state := .ended true 9 }
    let j := { tasking (fun t => { t with spawned := 1 }) with tasks := [(0, task0 fun t => { t with spawned := 1 }), (1, e)] }
    RunsTask s 0 (task0 id) launch0 ∧ RunsTask d 0 (task0 fun t => { t with path := List.replicate 15 0 }) launch0 ∧
    RunsTask n 0 (task0 fun t => { t with spawned := 4096 }) launch0 ∧ RunsTask j 0 (task0 fun t => { t with spawned := 1 }) launch0 ∧
    Quiet s ∧ Quiet j ∧ j.MemOk ∧ storeAt j (j.th.ra 2) 64 64 = .ok { va := 0x400, pa := 0x400, size := 64, page := 0x200000000 } ∧
    roleOf s.tid ≠ 1 ∧ (s.th.ra 2).toNat % 4 = 0 ∧ (task0 id).path.length ≠ 15 ∧ (task0 id).spawned ≠ 4096 ∧
    place s launch0 [0] = some (3, 3) ∧ 0 ≠ s.nextTask ∧ queuedOn s 0 < 4096 ∧ (task0 id).spawned ≤ (task0 id).joined ∧
    outcomeOf j 0 (task0 fun t => { t with spawned := 1 }) 0 = some (true, 9) ∧ writeDiscarded j 0x400 = false ∧
    (j.cluster (clusterOf j.tid)).stashLines = [] ∧ (s.th.cp = 0 ∧ s.th.mx = 0 ∧ (task0 id).threads = [s.tid]) ∧
    ((task0 id).state = .running ∧ launch0.tile = false) := by
  refine ⟨runs_task _ rfl rfl, runs_task _ rfl rfl, runs_task _ rfl rfl, ⟨rfl, by rfl, by rfl, by rfl, rfl⟩, ?_, ?_, ?_, ok_of (by decide +kernel),
    by decide +kernel⟩
  · unfold Quiet; decide +kernel
  · unfold Quiet; decide +kernel
  · unfold State.MemOk; decide +kernel

/-- A pair's `TEXIT`: the striker's, before the stager has executed its own and after. -/
theorem witness_PairEnds : let s := striker id
    let u := (striker id).updThread 0 fun t => { t with task := some 0, exited := true }
    ∃ t l, RunsTask s 0 t l ∧ RunsTask u 0 t l ∧ l.tile = true ∧ t.threads = [0, s.tid] ∧ 0 ≠ s.tid ∧ t.state = .running ∧ (s.thread 0).exited = false ∧
      (u.thread 0).exited = true ∧ Quiet s ∧ Quiet u ∧ (s.th.cp = 0 ∧ s.th.mx = 0 ∧ u.th.cp = 0 ∧ u.th.mx = 0) := by
  refine ⟨_, _, ⟨rfl, by rfl, by rfl, by rfl, rfl⟩, ⟨rfl, by rfl, by rfl, by rfl, rfl⟩, rfl, rfl, by decide, rfl, by decide +kernel, by decide +kernel,
    ?_, ?_, by decide +kernel⟩ <;> unfold Quiet <;> decide +kernel

/-- A launch of the job beside the thread's own. -/
def other : Launch := { launch0 with handle := 5, count := 1 }
/-- A graph of the job in place 63 of die 0: two nodes, the second named by the first. -/
def graph63 : Graph :=
  { slot := 0, nodes := [⟨5, 1, [1], 0, 0, [], [[]]⟩, ⟨5, 1, [], 0, 0, [], []⟩] }

theorem witness_GraphInstructions : let s := { (tasking id).upd (fun t => { (t.ws 4 1).ws 5 5 |>.ws 6 (BitVec.ofNat 64 (1 + 256 * 63)) with
        outs := [keptOut [({ va := 0x1080, pa := 0x1080, size := 64 }, launchBytes.take 64), ({ va := 0x10C0, pa := 0x10C0, size := 64 }, launchBytes.drop 64)]] }) with
      launches := [(1, launch0), (5, other)], graphs := [(63, graph63)] }
    let u := s.upd fun t => { t with outs := [] }
    let e : Elem := { va := 0x1080, pa := 0x1080, size := 64, page := 0x200000000 }
    let f : Elem := { va := 0x10C0, pa := 0x10C0, size := 64, page := 0x200000000 }
    RunsTask s 0 (task0 id) launch0 ∧ RunsTask u 0 (task0 id) launch0 ∧ roleOf s.tid ≠ 1 ∧
    (s.th.rs 7 = 0 ∧ (s.th.ra 1).toNat % 64 = 0 ∧ loadAt s (s.th.ra 1) 64 64 = .ok e ∧ loadAt s (s.th.ra 1 + 64) 64 64 = .ok f ∧
      ReadsBytes s false [e, f] launchBytes) ∧
    (allZero (sliceBytes launchBytes 32 32) = true ∧ (acceptLaunch s (slotOf s s.tid) launchBytes).isSome = true ∧
      (acceptLaunch s (slotOf s s.tid) launchBytes).bind (fun m => place s m []) = some (3, 3)) ∧
    (acceptLaunch prog 0 launchBytes = none) ∧
    (u.th.rs 6 = BitVec.ofNat 64 (1 + 256 * 63) ∧ Quiet u ∧ u.graphs.find? (dieOf (clusterOf u.tid) * 64 + 63) = some graph63 ∧
      graph63.slot = slotOf u u.tid ∧ graph63.run = none) ∧
    (storeAt u (u.th.ra 2) 8 8 = .ok { va := 0x400, pa := 0x400, size := 8, page := 0x200000000 } ∧ MayAccess u true ∧ MayAccess u false ∧ u.th.st < 63 ∧ u.MemOk) ∧
    (launch0.slot = slotOf u u.tid ∧ u.launches.find? (if u.th.rs 7 = 0 then (task0 id).launch else (u.th.rs 7).toNat) = some launch0 ∧
      launch0.count < 2 ^ 32 ∧ launch0.cause < 256) ∧
    (u.launches.find? (u.th.rs 6).toNat = none ∧ graphRun? u (slotOf u u.tid) (u.th.rs 6).toNat = none ∧ u.graphEnds.find? (u.th.rs 6).toNat = none) := by
  refine ⟨⟨rfl, by rfl, by rfl, by rfl, rfl⟩, ⟨rfl, by rfl, by rfl, by rfl, rfl⟩, by decide +kernel,
    ⟨by decide +kernel, by decide +kernel, ok_of (by decide +kernel), ok_of (by decide +kernel),
      reads_kept _ _ (by decide +kernel) ⟨by decide +kernel, rfl, by decide +kernel, by decide +kernel⟩⟩,
    by decide +kernel, by decide +kernel, ⟨by decide +kernel, by unfold Quiet; decide +kernel, by decide +kernel, by decide +kernel, by decide +kernel⟩,
    ⟨ok_of (by decide +kernel), may_of _ rfl, may_of _ rfl, by decide +kernel, by unfold State.MemOk; decide +kernel⟩, by decide +kernel, by decide +kernel⟩

/-- `tasking`'s task with two children, one queued and one ended, of launch 1; launches 5 and 6 of the job beside it, 6 over; task 3 of launch 5 runs
and task 4 of it waits; and graph 63 in run 9, whose node 0 is launch 5. -/
def family : State :=
  let c : Task := { id := 1, launch := 1, parent := some 0, path := [0], entry := 0, args := 0 }
  let me := task0 fun t => { t with spawned := 2 }
  { tasking (fun t => { t with spawned := 2 }) with
    launches := [(1, { launch0 with count := 2 }), (5, { other with count := 2, node := some (63, 0) }), (6, { other with handle := 6, state := .complete, count := 0 })]
    tasks := [(0, me), (1, c), (2, { c with id := 2, path := [1], state := .ended false 0 }), (3, { me with id := 3, launch := 5, threads := [9] }),
              (4, { c with id := 4, launch := 5, parent := none, path := [] })]
    graphs := [(63, { graph63 with run := some { handle := 9, states := [.started, .idle], due := [] } })]
    graphEnds := [(8, { slot := 0, state := .complete, cause := 0 })] }

theorem witness_Cancels : let s (x y : Word) := family.upd fun t => (t.ws 4 x).ws 5 y
    let below (c : Task) (z : Task) : Bool := z.launch == c.launch && z.path.take c.path.length == c.path
    let c (x : Word) (i : Nat) := childOf (s x 0) 0 (task0 fun t => { t with spawned := 2 }) i
    (∀ x y, RunsTask (s x y) 0 (task0 fun t => { t with spawned := 2 }) { launch0 with count := 2 }) ∧ (∀ x y, WorkInOrder (s x y)) ∧ roleOf family.tid ≠ 1 ∧
    (((s 5 1).th.rs 4).toNat = 5 ∧ ((s 5 1).th.rs 5).toNat = 1 ∧
      (family.launches.find? 5).map (fun m => (m.slot, m.state, m.cancel, m.handle)) = some (slotOf family family.tid, .running, false, 5) ∧
      waitingTasks family (·.launch == 5) = 1 ∧ (family.launches.find? 5).map (·.count) = some 2) ∧
    ((family.launches.find? 6).map (fun m => (m.slot, m.state)) = some (slotOf family family.tid, .complete) ∧ family.launches.find? 7 = none) ∧
    (((s 0 0).th.rs 4).toNat = 0 ∧ ((s 0 0).th.rs 5).toNat = 0 ∧ (c 0 0).map (·.id) = some 1 ∧ (c 1 1).map (·.id) = some 2 ∧
      (c 0 0).all (fun x => family.tasks.any fun z => below x z.2 && !hasEnded z.2) = true ∧
      (c 1 1).all (fun x => family.tasks.all fun z => !below x z.2 || hasEnded z.2) = true) ∧
    ((graphRun? family (slotOf family family.tid) 9).map (fun x => (x.1, x.2.1.run == some x.2.2)) = some (63, true) ∧ ((s 9 2).th.rs 5).toNat = 2 ∧
      graphRun? family (slotOf family family.tid) 8 = none ∧ (family.graphEnds.find? 8).isSome = true ∧
      graphRun? family (slotOf family family.tid) 3 = none ∧ family.graphEnds.find? 3 = none) ∧ 2 < ((s 0 3).th.rs 5).toNat := by
  have h : WorkInOrder family := by unfold WorkInOrder; decide +kernel
  refine ⟨fun x y => ⟨rfl, by rfl, by rfl, by rfl, rfl⟩, fun _ _ => h, ?_, ?_, ?_, ?_, ?_⟩ <;> decide +kernel

/-! ### Hypotheses that can be met: handlers, control registers, the supervisor, scheduling -/

theorem witness_HandlerReturns : let u := th fun t => { t with utvec := 2 }
    let s := user fun t => { t with sup := { act := true } }
    (u.th.sup.act = false ∧ u.th.utvec.getLsbD 1 = true) ∧ (State.reset.th.sup.act = false ∧ State.reset.th.utvec.getLsbD 1 = false) ∧
    (s.th.sup.act = true ∧ s.th.sup.saved = false ∧ s.th.task = some 0 ∧ s.tasks.find? 0 = some (task0 id) ∧ (task0 id).threads = [s.tid] ∧
      ∀ c r, (task0 id).state ≠ .ended c r) ∧ ((sup id).th.sup.act = true ∧ (sup id).th.task = none) ∧
    (th fun t => { t with hold := some .done }).th.hold = some .done ∧ (prog.th.hold = none ∧ cancelled prog prog.tid = false) := by
  refine ⟨by decide +kernel, by decide +kernel, ⟨by decide +kernel, by decide +kernel, by decide +kernel, by rfl, by decide +kernel, ?_⟩, by decide +kernel,
    by decide +kernel, by decide +kernel⟩
  intro c r h; cases h

theorem witness_ControlRegisters : let s := sup64 fun t => (t.ws 2 64).ws 4 65536
    let d := sup64 fun t => { t with hold := some .done }
    (heldWord State.reset.th 0x10 = some 53 ∧ heldWord s.th 0x101 = some 0 ∧ heldAddr State.reset State.reset.th 0x20 = some 0 ∧
      heldAddr s s.th 0x104 = some 0) ∧ (s.th.sup.act = true ∧ State.reset.th.sup.act = false) ∧
    ((s.th.rs 4).toNat = 65536 ∧ (s.th.rs 2).toNat = 64 ∧ translate s s.tid (s.th.ra 1 &&& ~~~63) .read = .ok { pa := 64, w := true, x := true }) ∧
    ((s.th.rs 2).extractLsb' 21 3 = 0 ∧ s.th.hold ≠ some .done ∧ ∀ i ∈ s.invalidations, i.tid ≠ some s.tid) ∧
    (d.th.sup.act = true ∧ (d.th.rs 0).extractLsb' 21 3 = 0 ∧ d.th.hold = some .done ∧ Quiet d) := by
  refine ⟨by decide +kernel, by decide +kernel, ⟨by decide +kernel, by decide +kernel, ok_of (by decide +kernel)⟩, by decide +kernel, ?_⟩
  unfold Quiet; decide +kernel

/-- The entry of units 32 to 39 for the cluster's job, and the registers it is written from. -/
def entry32 : KeyEntry := { base := 32, len := 8, holder := 9, job := 1 }
def writing (f : Sup → Sup) : State :=
  sup fun t => { t with sup := f { t.sup with kidx := 7, klo := (entryWords (some entry32)).1, khi := (entryWords (some entry32)).2 } }
/-- An image of the first free task, at 0x1000. -/
def image0 : Image := { addr := 0x1000, cluster := 0, tid := 8, tile := 0, demand := 0, slot := 0, task := some 0, th := {} }
/-- A handler on thread 8 of `prog` after its context has gone to an image. -/
def restoring : State :=
  { user (fun t => { t with task := none, sup := { act := true, why := 3, ctxa := 0x1000 } }) with
    clusters := [(0, { keys := [(0, { base := 0, len := 16, holder := keySup })] })], images := [(3, image0)], tasks := [(0, task0 fun t => { t with state := .saved, threads := [] })] }

theorem witness_SupervisorOperations : let s := writing id
    let r := writing fun t => { t with kidx := 0 }
    let l := { writing (fun t => { t with kidx := 0 }) with clusters := [(0, { keys := [(0, { base := 0, len := 16, holder := 0xF0, lender := 3 })] })] }
    let w := { writing (fun t => { t with rhi := 1 }) with ev := { v := 0 } }
    let p := { writing id with ev := { v := 8 } }
    let c := { sup (fun t => { t with sup := { t.sup with ctxa := 0x1000 } }) with ev := { a := 0 } }
    (s.th.sup.act = true ∧ entryOf s.th.sup.klo s.th.sup.khi = entry32 ∧ (s.th.sup.klo >>> 56).toNat = 1 ∧ entryRefusal s 0 7 entry32 = 0) ∧
    (r.th.sup.act = true ∧ (r.cluster 0).keys.find? 0 = some { base := 0, len := 16, holder := keySup } ∧ Assoc.rising (r.cluster 0).keys = true ∧
      entryRefusal (writing fun t => { t with klo := t.klo - 32 }) 0 7 { entry32 with base := 0 } = 1) ∧
    (l.th.sup.act = true ∧ Assoc.rising (l.cluster 0).keys = true ∧ ((l.cluster 0).keys.find? 0).map (·.lender) = some 3) ∧
    (w.th.sup.act = true ∧ w.th.sup.rhi.getLsbD 0 = true) ∧
    ((p.ev.v.extractLsb' 0 4).toNat = 8 ∧ (p.cluster 0).scratch + (p.cluster 0).stash + 8 > 24 ∧
      (({ p with clusters := [(0, { scratch := 16 })] } : State).cluster 0).scratch + 8 ≤ 24 ∧ p.images = []) ∧
    (Quiet c ∧ c.th.sq = [] ∧ c.th.inbox = none ∧ (c.tile (tileOf c.tid)).pair = none ∧ c.th.spill = [] ∧
      imagePlace c c.tid c.th.sup.ctxa.toNat (imageLength (savedThread c.th) false) = true) := by
  unfold Quiet; decide +kernel

theorem witness_SupervisorRestores : let s := restoring
    s.th.sup.act = true ∧ Quiet s ∧ s.th.sup.lat = false ∧ imagePlace s s.tid s.th.sup.ctxa.toNat 64 = true ∧
    imageAt s s.th.sup.ctxa.toNat = some (3, image0) ∧ imageFits s s.tid image0 = true ∧ s.th.task = none ∧ image0.tileState = none ∧
    image0.task = some 0 ∧ s.tasks.find? 0 = some (task0 fun t => { t with state := .saved, threads := [] }) := by
  unfold Quiet; decide +kernel

/-- `prog` with other tasks, its thread 8 changed, for an event with these arguments. -/
def event (x : EvArgs) (f : State → State) : State := { f prog with ev := x }
/-- Thread 8 free, task 0 in some state. -/
def idleTask (t : TaskState) (s : State) : State :=
  { (s.updThread 8 fun t => { t with task := none }) with tasks := [(0, task0 fun x => { x with state := t, threads := [] })] }
/-- Core 2 full of task 0's priority, and a ready task 1 of a slot of priority 3 for it. -/
def crowded (s : State) : State :=
  let s := [9, 10, 11].foldl (fun s n => s.updThread n fun t => { t with task := some 0 }) s
  { (s.updSlot 1 fun x => { x with prio := 3 }) with
    launches := [(1, launch0), (2, { launch0 with handle := 2, slot := 1 })]
    tasks := [(0, task0 id), (1, { task0 id with id := 1, launch := 2, state := .ready, threads := [] })] }

theorem witness_SchedulingEvents : let d := event {} (idleTask .ready)
    let q := event { a := 2 } fun s => s.updThread 9 fun t => { t with task := some 0 }
    let p := event { a := 8 } crowded
    let r := event { a := 8, b := 3 } fun s => { idleTask .saved s with images := [(3, image0)] }
    let t0 := task0 fun x => { x with state := .ready, threads := [] }
    let g := event {} fun s => { s with grace := [0] }
    let l := { launch0 with watchdog := 5, count := 2 }
    let w := event { a := 1 } fun s => { s with launches := [(1, l)], tasks := [(0, task0 id), (1, { t0 with id := 1, parent := some 0, path := [0] })] }
    let y := event { a := 8 } fun s => s.updThread 8 fun t => { t with pend := [{ code := 0x05 }] }
    let i := State.reset.withFetchWord 32 0xFFFFFFFF
    (d.tasks.find? d.ev.a = some t0 ∧ t0.id = d.ev.a ∧ t0.state = .ready ∧ d.launches.find? 1 = some launch0 ∧ launch0.tile = false ∧ t0.unit = 2 ∧
      unitThread d false 2 = some 8 ∧ waiting d false 2 ≤ launchPrio d launch0 + 1 ∧ (∀ o ∈ unitWork d false 2, t0.id ≤ o.id)) ∧
    (runnable (q.thread (q.ev.a * 4 + (0 + 1) % 4)) = true ∧ (q.core q.ev.a).running = 0) ∧
    (taskOf p p.ev.a = some (task0 id) ∧ (task0 id).threads = [p.ev.a] ∧ (p.thread 8).sup.act = false ∧ (p.thread 8).halted = false ∧
      (p.thread 8).hold = none ∧ (p.thread 8).task.isSome = true ∧ serving p p.ev.a < asking p p.ev.a) ∧
    (r.images.find? r.ev.b = some image0 ∧ freeThread r r.ev.a = true ∧ image0.cluster = clusterOf r.ev.a ∧ image0.demand ≤ wcap r r.ev.a ∧
      2 ≤ roleOf image0.tid ∧ 2 ≤ roleOf r.ev.a ∧ (∀ x ∈ r.threads, x.2.task = none ∨ x.2.task ≠ image0.task ∨ x.1 ≠ image0.tid) ∧
      tilePresent r (tileOf r.ev.a) = true ∧
      waiting r false (coreOf r.ev.a) ≤ match image0.task.bind r.tasks.find? with | some k => taskPrio r k + 1 | none => 0) ∧
    (g.ev.a ∈ g.grace ∧ g.tasks.find? g.ev.a = some (task0 id) ∧ (g.thread 8).sup.act = false ∧ (g.thread 8).hold = none) ∧
    (w.launches.find? w.ev.a = some l ∧ l.watchdog ≠ 0 ∧ l.state = .running ∧ l.cancel = false ∧ WorkInOrder w ∧ waitingTasks w (·.launch == w.ev.a) = 1 ∧
      1 < l.count ∧ (w.slot l.slot).ending = none) ∧
    ((y.thread y.ev.a).sup.act = false ∧ runnable (y.thread y.ev.a) = true ∧ (y.thread y.ev.a).pend = [{ code := 0x05 }] ∧ (y.thread y.ev.a).hold = none) ∧
    ((user fun t => { t with hold := some .realign }).thread 8).hold = some .realign ∧
    ((user fun t => { t with hold := some .idle }).thread 8).hold = some .idle ∧
    (i.th.sup.act = false ∧ fetchInstr i = .illegal ∧ fetchInstr (user fun t => { t with pc := 0x10000000000 }) = .fault 0x10000000000) := by
  unfold WorkInOrder
  refine ⟨?_, ?_, ?_, ?_, ?_, ?_, ?_, ?_, ?_, ?_⟩ <;> decide +kernel

/-- Queue 0 with one entry posted, of job slot 0 or another, and what of the entry follows the launch command's first 32 bytes. -/
def queued (form : List Byte) (f : Queue → Queue) : State :=
  let s := (tasking id).updQueue 0 fun q => f { q with enable := true, tail := 1 }
  { s with mem := memPuts s.mem hostBase (launchBytes.take 32 ++ form), graphs := [(63, graph63)] }

theorem witness_QueueEvents : let s := queued [1] id
    let g := queued [2, 63] id
    let p := { queued [3] id with launches := [], graphs := [] }
    let t := { queued [1] fun q => { q with slot := 1, k := 4, tail := 0 } with ev := { v := 1 } }
    let u := { t with ev := { v := 17 } }
    let c := queued [1] fun q => { q with slot := 1 }
    let o := (queued [1] fun q => { q with tail := 0 }).updQueue 1 fun q => { q with enable := true, tail := 1, where_ := .saved }
    (queueReady s s.ev.a = true ∧ s.ev.flag = false ∧ s.ev.b ≠ 1 ∧ s.ev.b ≠ 2 ∧ entryForm (entryBytes s 0) = true ∧ natAt (entryBytes s 0) 34 1 = 0 ∧
      natAt (entryBytes s 0) 32 1 = 1 ∧ (acceptLaunch s 0 (entryBytes s 0)).bind (fun l => place s l []) = some (3, 3)) ∧
    (queueReady g 0 = true ∧ entryForm (entryBytes g 0) = true ∧ natAt (entryBytes g 0) 34 1 = 0 ∧ natAt (entryBytes g 0) 32 1 = 2 ∧
      natAt (entryBytes g 0) 33 1 / 128 * 64 + natAt (entryBytes g 0) 33 1 % 64 = 63 ∧ g.graphs.find? 63 = some graph63 ∧
      graph63.slot = (g.queue 0).slot ∧ graph63.run = none) ∧
    (queueReady p 0 = true ∧ entryForm (entryBytes p 0) = true ∧ natAt (entryBytes p 0) 34 1 = 0 ∧ natAt (entryBytes p 0) 32 1 = 3 ∧
      (∀ e ∈ (p.queue 0).entries, e.done = true) ∧ phaseOver p (p.queue 0).slot = true) ∧
    (barRejected t 0x200010 t.ev.slot = false ∧ (t.queue 0).enable = true ∧ (t.queue 0).err = false ∧
      (t.ev.v.toNat % 2 ^ 32 + 2 ^ 32 - (t.queue 0).prog) % 2 ^ 32 ≤ 2 ^ (t.queue 0).k ∧ (t.queue 0).where_ = .resident ∧
      (t.queue 0).savedTail = none ∧ (t.ev.v.toNat % 2 ^ 32 + 2 ^ 32 - (t.queue 0).tail) % 2 ^ 32 < 2 ^ 31) ∧
    (barRejected u 0x200010 u.ev.slot = false ∧ 2 ^ (u.queue 0).k < (u.ev.v.toNat % 2 ^ 32 + 2 ^ 32 - (u.queue 0).prog) % 2 ^ 32) ∧
    (barRejected c 0x200020 c.ev.slot = false ∧ (c.queue 0).entries = [] ∧ ((c.queue 0).tail + 2 ^ 32 - (c.queue 0).started) % 2 ^ 32 = 1 ∧
      (c.queue 0).where_ = .resident ∧ (c.queue 0).savedTail = none ∧ (c.queue 0).msix = false ∧ ∀ x ∈ c.clusters, x.2.stashLines = []) ∧
    ((o.queue 0).where_ = .resident ∧ givesWay o 0 = true) ∧
    (((queued [1] fun q => { q with where_ := .switchingOut }).queue 0).where_ = .switchingOut) ∧
    (((queued [1] fun q => { q with where_ := .saved }).queue 0).where_ = .saved ∧ takesPlace (queued [1] fun q => { q with where_ := .saved }) 0 = true) ∧
    (((queued [1] fun q => { q with where_ := .switchingIn }).queue 0).where_ = .switchingIn ∧
      ∀ e ∈ ((queued [1] fun q => { q with where_ := .switchingIn }).queue 0).entries.head?, e.done = false) := by
  decide +kernel

/-- A run of graph 63, of slot 0, in which node 0 is due: it and an end. -/
def graphOf (x : Node) : Graph := { slot := 0, nodes := [x, ⟨1, 0, [], 0, 0, [], []⟩], run := some (run0 x) }
where run0 (_ : Node) : GraphRun := { handle := 9, states := [.idle, .idle], due := [0], queue := some (0, 0) }
/-- A copy of a byte at 0x3000 to 0x4000, its footprint filled in. -/
def nodeCard : List Byte := fillCard (copyCard {} 3 0 0x3000 0x4000 0 0 0) none
def inGraph (x : Node) : State :=
  let s := tasking id
  { s with graphs := [(63, graphOf x)], ev := { a := 63, b := 0 }
           clusters := [(0, { keys := [(0, { base := 0, len := 16, holder := keySup })] })]
           mem := memPuts s.mem 0x2000 nodeCard }

/-- The image of a graph of one node, at 0x2000. -/
def graphImage : List Byte :=
  [0x53, 0x4E, 0x52, 0x47, 1, 0, 1, 0] ++ bytesOfNat 8 832 ++ List.replicate 48 0 ++ [1] ++ List.replicate 767 0
def loading (f : Regs → Regs) : State :=
  { tasking id with regs := f { prog.regs with glAddr := Vector.replicate 2 0x2000 }, mem := memPuts (tasking id).mem 0x2000 graphImage }

theorem witness_GraphEvents : let l : Node := ⟨1, 0, [1], 0, 0, launchBytes, [[]]⟩
    let e : Node := ⟨2, 0, [1], 0x2000, 0, [], [[]]⟩
    let c : Node := ⟨3, 0, [1], 0x5000, 0, [], [[]]⟩
    let w : Node := ⟨4, 0, [1, 1], 0x5000, 0, [], [[], []]⟩
    let h : Node := ⟨5, 2, [1], 0, 0, [], [[]]⟩
    let g : Node := ⟨5, 0, [1], 0x5000, 7, [], [[]]⟩
    let x := { loading id with ev := { v := 0x10001 } }
    let y := { loading id with ev := { v := 0x20001 } }
    let z := loading fun r => { r with glBusy := r.glBusy.set 0 true, glCmd := r.glCmd.set 0 0x10001 }
    (∀ n ∈ [l, e, c, w, h, g], dueNode (inGraph n) 63 0 n.kind = some (graphOf n, graphOf.run0 n, n) ∧ incoming (graphOf n) 0 = [] ∧ (inGraph n).ev.b < (graphOf.run0 n).states.length ∧
      (∀ z ∈ n.succs, (graphOf.run0 n).states[z]? ≠ some .cancelled)) ∧
    (allZero (sliceBytes launchBytes 32 32) = true ∧ (acceptLaunch (inGraph l) 0 launchBytes).bind (fun m => place (inGraph l) m []) = some (3, 3)) ∧
    (((inGraph e).cluster 0).jobs.length < 64 ∧ readJob (inGraph e) 0 e.word 256 = some nodeCard ∧
      cardFault (inGraph e) (nodeParty (inGraph e) 63 0 (graphOf e) e) false nodeCard = none) ∧
    ((readJob (inGraph c) 0 c.word 8).map natOfBytes = some 0 ∧ c.succs[min 0 (c.succs.length - 1)]? = some 1 ∧
      (readJob (inGraph w) 0 w.word 8).map natOfBytes = some 0 ∧ w.succs[if 0 = 0 then 1 else 0]? = some 1) ∧
    (h.succs ≠ [] ∧ (graphOf.run0 h).queue = some (0, 0)) ∧
    (g.succs ≠ [] ∧ signalWord (inGraph g) 0 g.word = .ok 0x5000 ∧ truthBad (inGraph g) 0x5000 8 = false ∧ LineFits (inGraph g) 0x5000 ∧ (inGraph g).MemOk ∧
      writeDiscarded (inGraph g) 0x5000 = false) ∧
    (x.regs.glBusy[0]? = some false ∧ x.ev.v &&& ~~~0x30F3F = 0 ∧ x.ev.v.extractLsb' 16 2 = 1) ∧
    (y.regs.glBusy[0]? = some false ∧ y.ev.v &&& ~~~0x30F3F = 0 ∧ y.ev.v.extractLsb' 16 2 = 2) ∧
    (parseGraph z 0 0 0x2000 = .ok { slot := 0, nodes := [⟨1, 0, [], 0, 0, List.replicate 128 0, []⟩] } ∧ z.regs.glBusy[0]? = some true ∧ z.regs.glCmd[0]? = some 0x10001 ∧ 0x10001 / 2 ^ 16 % 4 = 1 ∧ (z.slot 0).en = true ∧ z.regs.pcfg = false ∧
      z.graphs.find? 1 = none ∧ z.regs.glAddr[0]? = some 0x2000) := by
  refine ⟨by decide +kernel, by decide +kernel, by decide +kernel, by decide +kernel, by decide +kernel,
    ⟨by decide +kernel, ok_of (by decide +kernel), by decide +kernel, by decide +kernel, by unfold State.MemOk; decide +kernel, by decide +kernel⟩, by decide +kernel,
    by decide +kernel, ⟨ok_of (by decide +kernel), by decide +kernel⟩⟩

/-! ### Hypotheses that can be met: engines, start-up, registers -/

/-- Cluster 0 with job 3 of slot 0, changed, for an event about it. -/
def working (j : Job) (f : State → State) : State := { (f prog).updCluster 0 (fun c => { c with jobs := [j] }) with ev := { a := 0, b := 3 } }
def job3 (card : List Byte) : Job := { id := 3, kind := .card, tid := 8, task := some 0, engine := 0xA0, card := card }
/-- A copy of a byte from 0x3000 to 0x4000 that writes a completion word at 0x5000. -/
def signalling : List Byte := fillCard (copyCard { ({} : Thread) with ecard := 0x204 } 3 0 0x3000 0x4000 0 0x5000 7) none
/-- A member of a broadcast from module 5 of one 32-bit element. -/
def member : Job :=
  { id := 3, kind := .coll [5 * 2 ^ 14, 0] 1, tid := 8, task := some 0, engine := 0xB0, started := true, watches := [(0, (1, some .normal))]
    card := [3, 0x20, 0, 1, 2, 0, 2] ++ List.replicate 9 0 ++ [1] ++ List.replicate 31 0 ++ [0, 0x60] ++ List.replicate 206 0 }
/-- What the member finds at its parent, which a port leads to. -/
def parent5 (x : PeerData) : State :=
  let s := working member fun s => { s with ports := s.ports.set 0 { state := .up }, regs := { s.regs with nlroute := [(5, 1)] } }
  { s with ev := { s.ev with peers := [x] } }

/-- Engine jobs and their words, at small cards; a decoder's frame is in `witness_EngineEvents_frame`. -/
theorem witness_EngineEvents : let s := working (job3 nodeCard) id
    let m := working (job3 (copyCard {} 4 1 0x3000 0 0 0 0)) id
    let p := { working { job3 nodeCard with started := true } fun s => s.updCluster 0 fun c => { c with keys := [(0, { base := 0, len := 16, holder := 0xA0 })] } with
      ev := { a := 0, b := 3, nats := [0] } }
    let c := working { job3 signalling with started := true, partsDone := [0] } id
    let g := parent5 ⟨0, false, false, [1, 2, 3, 4]⟩
    let f := parent5 ⟨0, true, false, [1]⟩
    let e := working { member with cancelled := true } id
    let k := working { job3 [] with kind := .lodgeCopy 0 2 } fun s =>
      s.updCluster 0 fun c => { c with lodgings := [(2, { copyBase := 0, neighbour := 1, word := 0x5000, value := 9, len := 4096, src := 0, job := 0 })] }
    let l := { prog.updCluster 0 (fun c => { c with stashLines := [(0x180, { data := 5, dirty := true })] }) with ev := { a := 0, b := 0x180 } }
    (jobAt s 0 3 = some (job3 nodeCard) ∧ mayStart s 0 (job3 nodeCard) = true ∧ cardKind nodeCard = 3) ∧
    ((jobAt m 0 3).map (fun j => (mayStart m 0 j, cardKind j.card, readFor m j (cardSrc j.card) (mediaLen j.card))) = some (true, 4, some [(0, 0)])) ∧
    (p.ev.nats = [0] ∧ (jobAt p 0 3).map (fun j => (j.conv, cardFlag j.card 1, j.cluster)) = some (none, false, 0) ∧
      (jobAt p 0 3).map (fun j => (bulkParts j, j.partsDone, (j.landed.find? 0).isNone)) = some ([0], [], true) ∧
      (jobAt p 0 3).map (fun j => (rowAddr (partRows j) 0, lineSlice (rowAddr (partRows j) 0) (partRows j).n 0, wordSlice 0x4000 1 0)) =
        some (0x4000, (0, 1), (0, 1)) ∧
      (jobAt p 0 3).map (fun j => (readFor p j 0x3000 1, payloadAt p j 0x4000)) = some (some [(0, 0)], some 0x4000) ∧ StashFits p 0 ∧
      LineFits p 0x4000 ∧ writeDiscarded p 0x4000 = false ∧ p.MemOk) ∧
    ((jobAt c 0 3).map (fun j => (isBulk j, bulkParts j, j.partsDone, cardFlag j.card 3, cardFlag j.card 2)) = some (true, [0], [0], false, true) ∧
      (jobAt c 0 3).map (fun j => (j.graph, wordAt c j (cardCpl j.card))) = some (none, some 0x5000) ∧
      (c.thread 8).task = some 0 ∧ LineFits c 0x5000 ∧ writeDiscarded c 0x5000 = false ∧ c.MemOk) ∧
    (jobAt g 0 3 = some member ∧ member.started = true ∧ member.cancelled = false ∧ member.status = 0 ∧ member.steps < totalSteps g member 2 ∧
      tokensOk g 0 member 2 1 = true ∧
      (memberStep g member 2 1).pulls.map (fun q => pullPeer g member [5 * 2 ^ 14, 0] 1 (memberBytes g member) (memberStep g member 2 1) q) =
        [.data [(1, 0), (2, 0), (3, 0), (4, 0)] 0]) ∧
    ((memberStep f member 2 1).pulls.map (fun q => pullPeer f member [5 * 2 ^ 14, 0] 1 (memberBytes f member) (memberStep f member 2 1) q) = [.fail 2] ∧
      member.steps < totalSteps f member 2 ∧ tokensOk f 0 member 2 1 = true) ∧
    (jobAt e 0 3 = some { member with cancelled := true } ∧ member.graph = none ∧ (e.thread 8).task = member.task) ∧
    ((jobAt k 0 3).map (·.kind) = some (.lodgeCopy 0 2) ∧ ((k.cluster 0).lodgings.find? 2).map (·.word) = some 0x5000 ∧ localOf 0x5000 % 8 = 0 ∧
      writeDiscarded k (localOf 0x5000) = false ∧ k.MemOk) ∧
    ((l.cluster l.ev.a).stashLines.find? l.ev.b = some { data := 5, dirty := true } ∧ Assoc.rising (l.cluster l.ev.a).stashLines = true ∧ l.MemOk ∧
      writeDiscarded l (l.ev.b * 64) = false) := by
  unfold State.MemOk
  refine ⟨?_, ?_, ⟨?_, ?_, ?_, ?_, ?_, ?_⟩, ⟨?_, ?_, ?_⟩, ?_, ?_, ?_, ?_, ?_⟩ <;> decide +kernel

/-- A module that has begun to verify an image. -/
def verifying (x : EvArgs) : State := { State.reset with regs := { State.reset.regs with fwbusy := true }, ev := x }
/-- The host and an engine hold the entries 0 and 1 of cluster 0; the engine writes a host region under its own. -/
def hostKeys (x : EvArgs) : State :=
  { State.reset with
    clusters := [(0, { keys := [(0, { base := 0, len := 1, holder := keyHost }), (1, { base := 0x80000000, len := 1, holder := 0xA0 })]
                       jobs := [{ job3 [] with writes := [0x80000000] }] })]
    ev := x }

/-- The loader at its start, refusals and transfers; an accepted image is in `witness_StartupEvents_accepted`. -/
theorem witness_StartupEvents : let r := State.reset
    let w := { r with regs := { r.regs with mstate := 2, modnum := 0 } }
    let d := hostKeys { a := 64, b := 8, bytes := [7] }
    ((verifying { flag := true }).regs.fwbusy = true ∧ (verifying {}).regs.fwbusy = true ∧
      imageCode (verifying {}) (verifying {}).regs.fwAt.toNat (verifying {}).regs.fwBytes.toNat = 1) ∧
    (r.regs.mstate = 1 ∧ r.regs.fwbusy = false ∧ w.regs.mstate ≠ 3 ∧ (w.launches = [] ∧ w.graphs = []) ∧ ∀ j < 16, (w.slot j).ending ≠ some .stop) ∧
    (memRejected d 64 8 d.ev.slot = false ∧ 64 + 8 ≤ hostBase ∧ (∀ k < 8, backed d (64 + k) = true) ∧ memRejected d hostBase 8 none = false ∧
      memRejected { d with attach := [(0, 0)], slots := d.slots.set 0 { tdi := .run } } 64 8 none = true) ∧
    (d.ev.flag = false ∧ barRejected d 0x20 d.ev.slot = false ∧ barRejected prog 0x080010 prog.ev.slot = true) ∧
    (hostWriteFault d 64 1 d.ev.slot = none ∧ 64 % 64 + 1 ≤ 64 ∧ writeDiscarded d 64 = false ∧ d.MemOk ∧ hostWriteFault d 0x1000 1 d.ev.slot = some 7) ∧
    (handover (hostKeys { v := 0xFF00000000000000 }) 0xFF00000000000000 = .done { base := 0, len := 1, holder := keyNone } ∧
      handover (hostKeys { v := 64 }) 64 = .refused ∧
      (∃ e, handover (hostKeys {}) 0xA500000100000000 = .after e) ∧
      (match (d.cluster 0).keys.find? 1 with | some old => engineWrites d 0 old | none => false) = true) := by
  unfold State.MemOk
  refine ⟨by decide +kernel, by decide +kernel, by decide +kernel, by decide +kernel, by decide +kernel,
    ⟨by decide +kernel, by decide +kernel, ?_, by decide +kernel⟩⟩
  exact ⟨{ base := 0x80000000, len := 1, holder := keyHost }, by decide +kernel⟩

theorem witness_RegisterEvents : let r := State.reset
    let t := { r with slots := r.slots.set 0 { tdi := .run }, regs := { r.regs with mstate := 2 }, ev := { a := 0x080010 } }
    let o := { prog with ev := { a := 0x080010 } }
    let e := { r with slots := r.slots.set 1 { en := true, tdi := .run }, ev := { a := 1, slot := some 1 } }
    let c := { family with ev := { a := 0 } }
    let i : Invalidation := ⟨0, 0, some 8⟩
    let n := { prog with invalidations := [i, ⟨0, 0, none⟩], ev := { a := 0 } }
    (barRejected r 0x20 none = false ∧ (∀ p < 18, (r.port p).state = .down) ∧ (∀ j < 16, (r.slot j).en = false) ∧ (r.slot 3).tdi = .unlocked) ∧
    (barRejected o o.ev.a o.ev.slot = true) ∧
    (barRejected t 0x080100 none = false ∧ (t.slot 0).tdi = .run ∧ (t.slot 0).ending = none ∧ t.regs.mstate = 2 ∧
      barRejected { t with slots := t.slots.set 0 { tdi := .run, ide := some 0 } } 0x080000 (some 0) = false) ∧
    (barRejected { e with slots := e.slots.set 1 { en := true, tdi := .run, ide := some 0 } } 0x080100 (some 1) = false ∧ (e.slot 1).en = true ∧
      (e.slot 1).ending = none ∧ (e.launches = [] ∧ e.graphs = []) ∧ phaseOver e 1 = true) ∧
    (WorkInOrder { c with ev := { a := 0, slot := some 0 } } ∧ barRejected { c with slots := c.slots.set 0 { tdi := .run, ide := some 0 } } 0x080000 (some 0) = false ∧
      (c.launches.find? 5).map (fun m => (m.slot, m.state, m.cancel)) = some (0, .running, false) ∧ (c.graphs.find? 63).map (fun g => (g.slot, g.run.isSome)) = some (0, true)) ∧
    (t.ev.flag = false ∧ { t with ev := { t.ev with flag := true } }.ev.flag = true ∧ barRejected o (0x080000 + 0x100 * 0) o.ev.slot = true) ∧
    (hasPartition r 0 = true ∧ (r.regs.ltol[0]! = 0)) ∧
    ((∀ x ∈ r.threads, x.2.outs = []) ∧ (∀ x ∈ r.cores, x.2.dirty = []) ∧ r.regs.htlbBusy = false ∧ { r.regs with htlbBusy := true }.htlbBusy = true) ∧
    (n.invalidations[n.ev.a]? = some i ∧ inFlight n i.va i.operand = false ∧ inFlight n 0 0 = false ∧ n.invalidations[1]? = some ⟨0, 0, none⟩) := by
  unfold WorkInOrder
  refine ⟨?_, ?_, ?_, ?_, ?_, ?_, ?_, ?_, ?_⟩ <;> decide +kernel

/-! ### Hypotheses that can be met: links, the network, trusted interfaces, the fleet, and whole steps -/

theorem witness_LinkEvents : let r := State.reset
    let f : Flit := { seq := 0, ack := 0xFFFF, kind := 0, reqCredits := 1, repCredits := 0, good := true, packets := [⟨1, 0, 5, 0, 3, 0, [], none⟩] }
    let up := fun (x : Port) (f : Flit) => { r with ports := r.ports.set 2 { x with state := .up }, ev := { a := 2, flit := some f } }
    let k : LinkPacket := ⟨2, 0, 0, 0, 9, 0, [64, 0, 0, 0, 0, 0, 0], none⟩
    let h := { r with regs := { r.regs with keyhole := [0] }, ranges := [(0, (0, 16, true))], ev := { a := 0, packet := some k } }
    ((r.port 2).state = .down ∧ (up {} f).ev.flit = some f ∧ ((up {} f).port 2).state = .up) ∧
    (f.good = true ∧ f.kind = 0 ∧ f.seq = ((up {} f).port 2).rxSeq ∧ ∀ p ∈ f.packets, p.typ = 1 ∨ p.typ = 2 ∨ p.typ = 4) ∧
    ({ f with kind := 2, packets := [] }.kind = 2 ∧ (∀ u ∈ stillUnacked [(0, [], 1)] f.ack, u.2.2 < 7) ∧ ∃ u ∈ stillUnacked [(0, [], 7)] f.ack, 7 ≤ u.2.2) ∧
    (h.ev.a ∈ h.regs.keyhole ∧ k.typ = 2 ∧ natAt k.body 0 7 = 64 ∧ spaceOf (localOf 64) = .hbm 0 64 ∧ readable h (k.src / 2 ^ 14) 64 true = true ∧
      (∀ w, w < 16 → memPoisoned h (w * 8) = false) ∧ readable r (k.src / 2 ^ 14) 64 true = false ∧ 0 ∉ r.regs.keyhole) := by
  refine ⟨?_, ?_, ?_, ?_⟩ <;> decide +kernel

/-- Queue pair 1 and region 2 (0x3000, one unit) of slot 0 with an enabled network engine that holds the first 16 units, and a packet or command. -/
def netted (x : QPair) (p : NetPacket) (mem : List (Nat × List Byte)) : State :=
  { prog.updCluster 0 (fun c => { c with keys := [(0, { base := 0, len := 16, holder := keyNet })] }) with
    mem := mem.foldl (fun m e => memPuts m e.1 e.2) prog.mem, ev := { a := 1, net := some p }
    net := { cfg := 0x10000, qpt := 0x6000, rgt := 0x7000, qps := [(1, x)], regions := [(2, { valid := true, access := 7, base := 0x3000, len := 1 })] } }
def packet (psn region len : Nat) (data : List Byte) : NetPacket := ⟨1, 1, 1, psn, region, 0, len, psn, 0, data, none⟩
/-- A queue-pair entry and a region entry. -/
def pairEntry : List Byte :=
  List.replicate 12 0 ++ [4, 0, 0, 0] ++ bytesOfNat 16 0x2000 ++ bytesOfNat 16 0x2800 ++ bytesOfNat 16 0x3000 ++ bytesOfNat 16 0x3800 ++ List.replicate 48 0
def regionEntry (base : Nat) : List Byte := [0, 3, 0, 0, 0, 0, 0, 0] ++ bytesOfNat 16 base ++ [1, 0, 0, 0, 0, 0xFF, 0, 0] ++ List.replicate 32 0
/-- A work entry of four bytes at 0x3000 for region 4, and a doorbell. -/
def posted (opcode : Byte) (bell : Nat) : State :=
  netted { ring := 0x2000, bell := 0x2800, cseq := 0x2900 } (packet 0 2 0 [])
    [(0x2000, [opcode, 0, 0, 0, 4, 0, 0, 0] ++ bytesOfNat 16 0x3000 ++ [4] ++ List.replicate 39 0), (0x2800, bytesOfNat 8 bell)]

theorem witness_NetworkCommands : let c := netted {} (packet 0 2 0 []) [(0x6080, pairEntry), (0x7040, regionEntry 0x3000)]
    let n := { c with net := { c.net with qps := [] } }
    let o := netted { error := true } (packet 0 2 0 []) []
    let u := netted {} (packet 0 2 0 []) [(0x7040, regionEntry 0x40000)]
    let e := { c with ev := { a := 2 } }
    let d := { c with net := { c.net with regions := [(1, { valid := true, closing := true })] } }
    (NetReady n ∧ tableHeld n 0x6080 128 = true ∧ truthBad n 0x6080 128 = false ∧ n.qp? 1 = none ∧ (pairOf n (truthRead n 0x6080 128)).isSome = true) ∧
    (NetReady c ∧ c.qp? 1 = some {} ∧ o.qp? 1 = some { error := true } ∧ Assoc.rising o.net.qps = true) ∧
    ((c.region 1).valid = false ∧ tableHeld c 0x7040 64 = true ∧ truthBad c 0x7040 64 = false ∧
      (regionOf c (truthRead c 0x7040 64)).map (fun x => (x.access, netMay c x.slot x.base.toNat (x.len * 4096))) = some (3, true)) ∧
    ((regionOf u (truthRead u 0x7040 64)).map (fun x => (x.access, netMay u x.slot x.base.toNat (x.len * 4096))) = some (3, false)) ∧
    ((e.region 2).valid = true ∧ (d.region d.ev.a).closing = true ∧ regionInUse d d.ev.a = false) := by
  unfold NetReady
  refine ⟨?_, ?_, ?_, ?_, ?_⟩ <;> decide +kernel

theorem witness_NetworkWork : let x : QPair := { ring := 0x2000, bell := 0x2800, cseq := 0x2900 }
    (∀ op ∈ [(1 : Byte), 2], netOn (posted op 1) = true ∧ (posted op 1).qp? 1 = some x ∧ x.ready = true ∧ x.error = false ∧ bellOf (posted op 1) x = some 1 ∧ x.taken < 1 ∧
      1 ≤ finishedOf (posted op 1) x + 2 ^ x.k ∧ (workBytes (posted op 1) x 0).map (fun bs => (natAt bs 0 1, workOk bs, psnCount (natAt bs 4 4))) = some (op.toNat, true, 1)) ∧
    (readFor (posted 1 1) (netJob (posted 1 1) x.slot x.cluster) 0x3000 4 = some ((List.replicate 4 (0 : Byte)).map fun b => (b, 0)) ∧ localRegion (posted 2 1) 0 0x3000 4 = true) ∧
    (bellOf (posted 1 17) x = some 17 ∧ x.taken < 17 ∧ finishedOf (posted 1 17) x + 2 ^ x.k < 17) := by
  refine ⟨?_, ?_, ?_⟩ <;> decide +kernel

theorem witness_NetworkPackets : let x : QPair := {}
    let s := netted x (packet 0 2 4 [7]) []
    let k : Transfer := { read := true, va := 0x3000, len := 8192 }
    let a : QPair := { txPsn := 3, unacked := [packet 0 2 4 [7]], sends := [{ len := 4 }] }
    let r : QPair := { recv := some { region := 2 } }
    let t := netted r (packet 0 2 4 []) []
    (Arrives s 1 x (packet 0 2 4 [7])) ∧
    ((packet 0 2 4 [7]).psn = x.rxPsn ∧ regionAdmits s x (packet 0 2 4 [7]) 1 1 false = true ∧ (s.region 2).base.toNat + 0 = 0x3000 ∧
      netMay s 0 0x3000 1 = true ∧ netWord s 0 0x3000 = some 0x3000 ∧ 0x3000 % 64 + 1 ≤ 64 ∧ LineFits s 0x3000 ∧ writeDiscarded s 0x3000 = false ∧ s.MemOk) ∧
    (regionAdmits s x (packet 0 9 4 [7]) 1 1 true = false ∧ (packet 5 2 4 [7]).psn ≠ x.rxPsn ∧ netMay s 0 0x20000 1 = false) ∧
    (regionAdmits s x (packet 0 2 4 []) 4 0 false = true ∧ readFor s (netJob s 0 x.cluster) 0x3000 4 = some (List.replicate 4 (0, 0))) ∧
    ((packet 0 2 0 (List.replicate 4096 0)).data.length = min 4096 (k.len - k.doneBytes) ∧ k.doneBytes + 4096 < k.len ∧ netMay s 0 0x3000 4096 = true) ∧
    ((∀ t ∈ a.sends, t.read = false) ∧ psnDiff 1 a.ackPsn < psnDiff a.txPsn a.ackPsn ∧ a.unacked ≠ [] ∧ a.resends < 7 ∧
      (∃ t ∈ a.sends, psnDiff 0 t.firstPsn < psnCount t.len) ∧ 7 ≤ ({ a with resends := 7 } : QPair).resends) ∧
    (t.qp? 1 = some r ∧ ({ t with net := { t.net with regions := [(2, { closing := true })] } }.region 2).closing = true) := by
  unfold State.MemOk Arrives
  refine ⟨?_, ?_, ?_, ?_, ?_, ?_, ?_⟩ <;> decide +kernel

/-- Whether a session's secret verifies a FINISH is left open (`Config.finishVerify`): it does or it does not, and each case has its claim. -/
theorem witness_TrustedEvents : let r := State.reset
    let o := { r with spdm := { versioned := true, capable := true, negotiated := true, open_ := true, secret := some [1] } }
    let l := { o with slots := o.slots.set 0 { tdi := .locked } }
    let k := { o with slots := o.slots.set 0 { tdi := .run }, regs := { o.regs with mstate := 2, ran := true }, ev := { a := 0 } }
    let u := { o with ev := { a := 0, flag := true, b := 3 } }
    let v := { l with ev := { a := 0, flag := true, b := 3 } }
    (o.spdm.open_ = true ∧ (o.slot 0).tdi = .unlocked ∧ (l.slot 0).tdi = .locked ∧ (k.slot 0).tdi = .run ∧ (k.slot 0).ending = none ∧
      (k.launches = [] ∧ k.graphs = []) ∧ phaseOver k 0 = true ∧ (l.slot l.ev.a).ending ≠ some .stop) ∧
    (r.spdm.open_ = false ∧ r.spdm.versioned = false ∧ r.spdm.capable = false ∧ r.spdm.negotiated = false ∧ r.spdm.secret = none ∧
      o.spdm.versioned = true ∧ o.spdm.capable = true ∧ o.spdm.negotiated = true ∧ k.regs.ran = true ∧ r.regs.ran = false ∧ o.spdm.secret = some [1]) ∧
    (backed u (3 * 0x200000) = true ∧ spaceOf (3 * 0x200000) = .hbm 0 (3 * 0x200000) ∧ frozen u 0 = false ∧ u.attach = [] ∧ u.ev.flag = true ∧
      (v.slot 0).tdi = .locked ∧ v.attach.find? v.ev.b = none) := by
  refine ⟨?_, ?_, ?_⟩ <;> decide +kernel

theorem witness_FleetEvents : let r := State.reset
    let p := { r with ev := { v := 0x5E6B0100 } }
    let c : Cluster := { remapRuns := [(0, 1)] }
    let m := { r with clusters := [(0, c)], ev := { a := 0, nats := [4, 100] } }
    let d := { prog with cores := [(2, { dirty := [(16, { val := 1, tid := 8, asid := 0, va := 64 })] })], ev := { site := some (.l1 2 16) } }
    (p.ev.v = BitVec.ofNat 64 (0x5E6B0100 + 0) ∧ (p.launches = [] ∧ p.graphs = []) ∧ (∀ j < 16, phaseOver p j = true) ∧ r.regs.even_ = false) ∧
    (r.regs.mstate ≠ 3 ∧ ∀ j < 16, (r.slot j).ending ≠ some .stop) ∧
    ((m.cluster 0).remapEn = true ∧ 1 ≤ c.remapRuns.get 0 0 ∧ 10 ≤ c.remapSince ∧
      (List.range 4).map (channelServed m 0) = [100, 0, 0, 0] ∧ (channelOf c 4 = 0 ∧ channelOf c 1 = 1) ∧
      (List.range 4096).all (fun r => regionServed m 0 r == if r = 4 then 100 else 0) = true ∧ channelOf c 0 = 0 ∧
      40 * 100 > c.remapThr * 100 ∧ m.regs.even_ = false ∧ ({ c with remapEn := false }).remapEn = false) ∧
    (spaceOf (r.ev.a * 64) = .hbm 0 0 ∧ r.ev.site = none ∧ spaceOf 64 = .hbm 0 64 ∧ backed r 64 = true ∧ ownedLine r 64 = none) ∧
    ((d.core 2).dirty.find? 16 = some { val := 1, tid := 8, asid := 0, va := 64 }) := by
  refine ⟨?_, ?_, ?_, ?_, ?_⟩ <;> decide +kernel

theorem witness_DecodeEncode : (Instr.add 1 2 3).WF ∧ (Instr.add 1 2 3).encodable = true ∧ (Instr.moviLong 7 5).WF ∧ (Instr.moviLong 7 5).encodable = true := by
  decide +kernel

theorem witness_StepRuns : Issues prog ∧ InstrAt prog .nop ∧ waitsFor prog .nop = false ∧ readsBad prog.th .nop = false := by
  refine ⟨by unfold Issues; decide +kernel, ⟨by decide +kernel, 0, ⟨leaf 0 true true, truthLine prog 0, ok_of (by decide +kernel), ?_⟩, Or.inl (by decide +kernel)⟩,
    by decide +kernel, by decide +kernel⟩
  decide +kernel

theorem witness_MemoryCanonicalKept : prog.MemOk ∧ ∃ t, step prog = .next t := by
  refine ⟨by unfold State.MemOk; decide +kernel, ?_⟩
  have h : (match step prog with | .next _ => true | _ => false) = true := by decide +kernel
  match e : step prog with
  | .next t => exact ⟨t, rfl⟩
  | .fault _ | .refused _ => rw [e] at h; cases h

/-! ### Further forms, values and waits of the statements -/

/-- A finite value's number. -/
theorem rat_of {v : Val} {g : Bool} {m : Nat} {e : Int} (h : v = .fin g m e false) : ratOf v = some ((if g then -1 else 1) * (m * (2 : ℚ) ^ e)) := by
  subst h; rfl

/-- Rounded lanes: NaN, infinity, zero, 1 in both kinds of lane, a BF16 lane whose FP32 step gives 0, an infinity or a number; operands; compared values;
conversions of NaN, infinity, 1.0, 0.0 and of integers. -/
theorem witness_FloatLaneResults_values :
    (floatLane .f32 = true ∧ floatLane .bf16 = true ∧ floatLane .i32 = false ∧ LaneT.f32 ≠ .bf16) ∧
    (∃ x, ratOf (.fin false 1 0 false) = some x ∧ x ≠ 0) ∧ ratOf (.zero true) = some 0 ∧
    (∃ y, ratOf (fp32.decode 0x3F800000) = some y ∧ y ≠ 0) ∧ ratOf (fp32.decode 0) = some 0 ∧ fp32.decode 0x7F800000 = .inf false ∧
    ((LaneT.bf16 : LaneT) ≠ .f32 ∧ RMode.even = (if LaneT.bf16 = .bf16 then .even else vctlRm 0) ∧ LaneT.f32 ≠ .f64 ∧
      RMode.even = (if LaneT.f32 = .bf16 then .even else vctlRm 0)) ∧
    (readLane .f32 false 0x7FC00000 = .nan false ∧ readLane .f32 false 0x7F800000 = .inf false ∧ ratOf (readLane .f32 false 0) = some 0 ∧
      ∃ x, ratOf (readLane .f32 false 0x3F800000) = some x ∧ x ≠ 0) ∧
    ((BitVec.ofNat (laneW .i32) 5).toInt ≠ 0 ∧ (BitVec.ofNat (laneW .i32) 0).toInt = 0) := by
  have one : ∀ v : Val, v = .fin false 1 0 false ∨ v = .fin false (2 ^ 23) (-23) false → ∃ x, ratOf v = some x ∧ x ≠ 0 := by
    rintro v (rfl | rfl) <;> exact ⟨_, rfl, by norm_num⟩
  refine ⟨by decide, one _ (.inl rfl), ?_, one _ (.inr (by decide +kernel)), ?_, by decide +kernel, by decide +kernel, ⟨by decide +kernel, by decide +kernel, ?_, one _ (.inr (by decide +kernel))⟩,
    by decide +kernel⟩
  all_goals first
    | (rw [rat_of (g := true) (m := 0) (e := 0) (by decide +kernel)]; norm_num)
    | (rw [rat_of (g := false) (m := 0) (e := -149) (by decide +kernel)]; norm_num)

/-- Accumulators that are no signalling NaN, sums that are not 0, and the lists of an indexed reduction: none, with a NaN, ordered. -/
theorem witness_FloatReduceResults_values :
    (laneFmt .f32).decode 0x3F800000 ≠ .nan true ∧
    (∃ p q, ratOf ((laneFmt .f32).decode 0x3F800000) = some p ∧ ratOf (readLane .f32 false 0x3F800000) = some q ∧ p + q ≠ 0) ∧
    (let xs : List (Nat × Val) := [(0, .nan false), (3, .nan true)];
      xs.Pairwise (fun a b => a.1 < b.1) ∧ (∀ p ∈ xs, p.1 < 32) ∧ (0, Val.nan false) ∈ xs ∧ ∀ j r, (j, Val.nan r) ∈ xs → 0 ≤ j) ∧
    (let xs : List (Nat × Val) := [(0, .inf true), (31, .fin false 1 0 false)];
      xs.Pairwise (fun a b => a.1 < b.1) ∧ (∀ p ∈ xs, p.1 < 32) ∧ (∀ p ∈ xs, Ordered p.2) ∧ xs ≠ []) := by
  have h : (laneFmt .f32).decode 0x3F800000 = .fin false (2 ^ 23) (-23) false ∧ readLane .f32 false 0x3F800000 = .fin false (2 ^ 23) (-23) false := by decide +kernel
  refine ⟨by decide +kernel, ⟨_, _, rat_of h.1, rat_of h.2, by norm_num⟩, ⟨by decide, by decide, by decide, fun _ _ _ => Nat.zero_le _⟩, by decide, by decide, ?_, by decide⟩
  intro p hp
  fin_cases hp
  · exact .inr ⟨_, rfl⟩
  · exact .inl (by simp [ratOf])

/-- The least precision, and each kind of value. -/
theorem witness_ExtendedResults_values : 8 ≤ 8 ∧ (∃ x, ratOf (.fin true 1 0 false) = some x ∧ x ≠ 0) ∧ ratOf (.zero false) = some 0 :=
  ⟨le_refl _, ⟨_, rfl, by norm_num⟩, by simp [ratOf, Val.zero]⟩

/-- A group of the products 0 and 1, of 1 alone below a unit, of NaN and infinities, of integers; drained elements in and beyond each kind of format. -/
theorem witness_MatrixCompletes_values :
    (let ps : List Val := [.nan false, .inf true, .inf false]; (∃ q, Val.nan q ∈ ps) ∧ Val.inf true ∈ ps ∧ Val.inf false ∈ ps) ∧
    (let ps : List Val := [.inf true]; Val.inf true ∈ ps ∧ Val.inf (!true) ∉ ps ∧ ∀ q, Val.nan q ∉ ps) ∧
    (let ps : List Val := [.zero false, .fin false 1 0 false];
      ∃ xs y, ps.map ratOf = xs.map some ∧ ratOf (fp32.decode 0x3F800000) = some y ∧ LeadExp xs 0 ∧ unitSum ((2 : ℚ) ^ ((0 : ℤ) - (10 : ℕ) + 1)) xs ≠ 0) ∧
    (∃ xs : List ℚ, [Val.fin false 1 0 false, .fin true 1 0 false].map ratOf = xs.map some ∧ LeadExp xs 0 ∧ unitSum ((2 : ℚ) ^ ((0 : ℤ) - (10 : ℕ) + 1)) xs = 0) ∧
    ([3, -4] ≠ ([] : List Int) ∧ [3, -4].length = [5, 6].length ∧ [3, -4].length ≤ 32) ∧
    (∃ f, codeFmt 3 = some f ∧ f.infinity = true) ∧ (∃ f x, codeFmt 5 = some f ∧ f.infinity = false ∧ ratOf (fp32.decode 0x3F800000) = some x ∧
      |roundFmtQ f .even x| ≤ maxQ f) ∧
    (∃ f x, codeFmt 5 = some f ∧ f.infinity = false ∧ ratOf (fp32.decode 0x44000000) = some x ∧ maxQ f < |roundFmtQ f .even x|) ∧
    ∃ x, ratOf (fp32.decode 0x3F800000) = some x ∧ ((1 : ℤ) : ℚ) = roundAtQ x 1 .even := by
  have one : fp32.decode 0x3F800000 = .fin false (2 ^ 23) (-23) false := by decide +kernel
  have lead : ∀ xs : List ℚ, (1 : ℚ) ∈ xs → (∀ x ∈ xs, x = 0 ∨ x = 1 ∨ x = -1) → LeadExp xs 0 := fun xs h g =>
    ⟨⟨1, h, by norm_num, by simp⟩, fun x hx hn => by rcases g x hx with h | h | h <;> simp_all⟩
  have hr : ∀ (e : ℕ) (x : ℚ), x = 2 ^ (e : ℤ) → e4m3.emin ≤ e → roundFmtQ e4m3 .even x = x := by
    rintro e x rfl he
    have ha : |(2 : ℚ) ^ (e : ℤ)| = 2 ^ (e : ℤ) := abs_of_pos (by positivity)
    have hl : Int.log 2 ((2 : ℚ) ^ (e : ℤ)) = e := Int.log_zpow (by norm_num) _
    have h8 : (2 : ℚ) ^ (e : ℤ) / 2 ^ ((e : ℤ) - 3) = 8 := by rw [← zpow_sub₀ (by norm_num)]; norm_num
    have hf : ⌊(8 : ℚ)⌋ = 8 := by norm_num
    simp only [roundFmtQ, roundAtQ, ha, hl, max_eq_left he, show ((e4m3.mbits : ℕ) : ℤ) = 3 from rfl, h8, hf,
      show ¬ (2 : ℚ) ^ (e : ℤ) < 0 from not_lt.mpr (by positivity)]
    rw [show (2 : ℚ) ^ (e : ℤ) = 8 * 2 ^ ((e : ℤ) - 3) by rw [← h8]; field_simp]
    norm_num
  refine ⟨⟨⟨false, by simp⟩, by simp, by simp⟩, ⟨by simp, by simp, by simp⟩, ⟨[0, 1], _, ?_, rat_of one, lead _ (by simp) (by simp), ?_⟩,
    ⟨[1, -1], ?_, lead _ (by simp) (by simp), ?_⟩, by decide, ⟨_, rfl, rfl⟩, ⟨_, _, rfl, rfl, rat_of one, ?_⟩,
    ⟨_, _, rfl, rfl, rat_of (g := false) (m := 2 ^ 23) (e := -14) (by decide +kernel), ?_⟩, _, rat_of one, ?_⟩
  · simp [ratOf, Val.zero]
  · simp [unitSum]; norm_num
  · simp [ratOf]
  · simp [unitSum]; norm_num
  · rw [show ((if (false : Bool) = true then (-1 : ℚ) else 1) * ((2 ^ 23 : ℕ) * 2 ^ (-23 : ℤ))) = 1 by norm_num, hr 0 1 (by norm_num) (by decide)]
    norm_num [maxQ, e4m3]
  · rw [show ((if (false : Bool) = true then (-1 : ℚ) else 1) * ((2 ^ 23 : ℕ) * 2 ^ (-14 : ℤ))) = 512 by norm_num, hr 9 512 (by norm_num) (by decide)]
    norm_num [maxQ, e4m3]
  · norm_num [roundAtQ]

/-- A release store or a fence behind an earlier store, and alone. -/
theorem witness_StoresPerformed_releases : let e := { elem64 with bytes := List.replicate 8 7 }
    let o : Out := { serial := 5, kind := .store (some .domain) true, elems := [e], va := 64 }
    let q : Out := { serial := 5, kind := .fence .domain, elems := [], va := 0 }
    let p : Out := { serial := 3, kind := .store none true, elems := [e], va := 64 }
    let w := { sup64 (fun t => { t with outs := [p, o], st := 2 }) with ev := { a := 0, b := 5 } }
    ((owing o).MemOk ∧ Drained (owing o) 0 o .domain ∧ Performable (owing o) 0 o 0 e ∧ e.bytes.length = e.size ∧ (spaceOf 64).cluster? ≠ none) ∧
    ((w.thread w.ev.a).out? w.ev.b = some o ∧ ∃ x ∈ (w.thread w.ev.a).owed, x.serial < o.serial) ∧
    ((owing q).thread 0).out? 5 = some q ∧ (∀ x ∈ ((owing q).thread 0).owed, q.serial ≤ x.serial) ∧ ((owing q).tile (tileOf 0)).queue = [] := by
  unfold Performable State.MemOk Drained; decide +kernel

/-- An ordered atomic and a scoped advance with nothing before them, and one behind a store. -/
theorem witness_AtomicsPerformed_ordered : let e := { elem64 with size := 4 }
    let o : Out := { serial := 5, kind := .amo .add .ar 3 1 0, elems := [e], va := 64 }
    let q : Out := { serial := 5, kind := .seqadv true .domain 3 9, elems := [elem64], va := 64 }
    let p : Out := { serial := 3, kind := .store none true, elems := [{ e with pa := 128 }], va := 128 }
    let w := { sup64 (fun t => { t with outs := [p, o], st := 1 }) with ev := { a := 0, b := 5 } }
    (∀ x ∈ [(o, e), (q, elem64)], (owing x.1).MemOk ∧ x.1.elems = [x.2] ∧ Drained (owing x.1) 0 x.1 .domain ∧ Performable (owing x.1) 0 x.1 0 x.2 ∧
      truthBad (owing x.1) 64 x.2.size = false ∧ dirtyNear (owing x.1) 0 64 x.2.size = [] ∧ ((owing x.1).cluster 0).stashLines = []) ∧
    (w.MemOk ∧ Performable w 0 o 0 e ∧ writeDiscarded w 64 = false ∧ truthBad w 64 4 = false ∧ dirtyNear w 0 64 4 = [] ∧
      ∃ z ∈ (w.thread w.ev.a).owed, z.serial < o.serial) := by
  unfold Performable State.MemOk Drained; decide +kernel

/-- Each fence with something before it, and a store behind a release fence. -/
theorem witness_FencesAndPrefetch_waiting : let o : Out := { serial := 3, kind := .load (.sreg 3 8 false) .strong false, elems := [elem64], va := 64 }
    let q : Out := { serial := 3, kind := .fence .domain, elems := [], va := 0 }
    let s := sup64 fun t => { t with outs := [o] }
    let u := sup64 fun t => { t with st := 63 }
    let v := sup64 fun t => { t with outs := [q], st := 1 }
    let m := (sup64 id).updTile 0 fun x => { x with queue := [{ serial := 0, instr := .mzero 1, tid := 0 }] }
    let n := { m with serial := 1 }
    (∃ x ∈ s.th.outs, x.reads = true) ∧ s.th.owed ≠ [] ∧ 63 ≤ u.th.st ∧ (∃ y ∈ (n.tile (tileOf n.tid)).queue, y.tid = n.tid ∧ y.serial < n.serial) ∧
    (storeForm v.th (.st .d .weak 3 1 0) = some ⟨8, 64, .weak, 0⟩ ∧ storeAt v 64 8 8 = .ok elem64 ∧ ∃ x ∈ v.th.outs, x.isFence = true) :=
  ⟨by decide +kernel, by decide +kernel, by decide +kernel, by decide +kernel, by decide +kernel, ok_of (by decide +kernel), by decide +kernel⟩

theorem witness_GatherAndScatter_fault : ∃ c, checkLanes (fun i => storeAt (th id) (laneVa (th id).th .i64 1 2 i) 8 8) (activeList (th id).th .i64 0) = .error c ∧
    (th id).th.sup.act = false := ⟨{ code := 0x05 }, err_of (by decide +kernel), rfl⟩

/-- Two answers of one port to one core: the second waits for the first. -/
theorem witness_WatchesWork_answers : let s : State := { th (fun t => { t with slots := t.slots.set 7 (.placed 64 .domain 3) }) with watchAnss := [⟨0, 3, 0x200000040, 9, .normal⟩, ⟨0, 4, 0x200000040, 9, .normal⟩] }
    let u := { s with ev := { a := 1 } }
    answerBehind s s.ev.a ⟨0, 3, 0x200000040, 9, .normal⟩ = false ∧ u.watchAnss[u.ev.a]? = some ⟨0, 4, 0x200000040, 9, .normal⟩ ∧ answerBehind u u.ev.a ⟨0, 4, 0x200000040, 9, .normal⟩ = true := by
  decide +kernel

theorem witness_Barriers_added : let o : Out := { serial := 5, kind := .baradd (-1), elems := [line64], va := 64 }
    let s := owing o
    s.MemOk ∧ o.serial = s.ev.b ∧ s.ev.c = 0 ∧ line64.size = 64 ∧ Performable s s.ev.a o 0 line64 ∧ Drained s s.ev.a o .cluster ∧ writeDiscarded s 64 = false ∧
    (spaceOf 64).cluster? ≠ none ∧ truthBad s 64 32 = false := by
  unfold Performable State.MemOk Drained; decide +kernel

/-- Windows of one word each: an infinity, a NaN, 1 and 0; and windows that `XALLOC` may not take. -/
theorem witness_ExtendedScalars_fields : let s := user fun t => { wins 53 t with wfile := [(0, (extEncode 2 (.inf false)).headD 0), (2, (extEncode 2 (.nan false)).headD 0), (4, 0x03FFFFF000000000)] }
    (extScalar s.th (.xcmp 1 1 31) = some (1, [1, 31], (match cmpVal (extVal (s.th.limbs (s.th.winAt 1))) (extVal (s.th.limbs (s.th.winAt 31))) with
        | none => 8 | some .gt => 4 | some .eq => 2 | some .lt => 1), snanX (extVal (s.th.limbs (s.th.winAt 1))) ||| snanX (extVal (s.th.limbs (s.th.winAt 31)))) ∧
      ¬ Live s.th [1, 31] ∧ s.th.sup.act = false ∧ s.th.rw 31 = none) ∧
    (s.th.rw 1 = some ⟨0, 2⟩ ∧ extVal (s.th.limbs ⟨0, 2⟩) = .inf false ∧ s.th.rw 2 = some ⟨2, 2⟩ ∧ extVal (s.th.limbs ⟨2, 2⟩) = .nan false ∧
      s.th.rw 4 = some ⟨6, 2⟩ ∧ extVal (s.th.limbs ⟨6, 2⟩) = .zero false ∧ ∃ m e k, m ≠ 0 ∧ s.th.rw 3 = some ⟨4, 2⟩ ∧ extVal (s.th.limbs ⟨4, 2⟩) = .fin false m e k) ∧
    (17 > 16 ∧ (17 : BitVec 5).toNat = 17 ∧ windowLimit s s.tid < (255 : BitVec 8).toNat + (16 : BitVec 5).toNat) ∧
    ((1 : BitVec 8).toNat + (16 : BitVec 5).toNat ≤ windowLimit s s.tid ∧ s.th.rw 2 = some ⟨2, 2⟩ ∧ (1 : BitVec 8).toNat < 2 + 2 ∧ 2 < (1 : BitVec 8).toNat + (16 : BitVec 5).toNat) := by
  unfold Live
  refine ⟨⟨rfl, by decide +kernel, by decide +kernel, by decide +kernel⟩, ⟨by decide +kernel, by decide +kernel, by decide +kernel, by decide +kernel, by decide +kernel, by decide +kernel, ?_⟩,
    by decide +kernel, by decide +kernel⟩
  exact ⟨2 ^ 100, -100, false, by decide, by decide +kernel, by decide +kernel⟩

/-- A window that is not live, and one of a limb for a header that counts two. -/
theorem witness_ExtendedMemory_traps : let s := { user (fun t => (wins 53 t).wa 1 64) with mem := memPuts prog.mem 64 (bytesOfNat 8 0x0BFFFFF000000000) }
    let e := { elem64 with page := 0x200000000 }
    s.th.sup.act = false ∧ s.th.rw 31 = none ∧ s.th.rw 5 = some ⟨8, 1⟩ ∧ loadAt s (mAddr s.th 1 0 8) 8 8 = .ok e ∧ s.th.owed = [] ∧
    (s.tile (tileOf s.tid)).queue = [] ∧ (s.core s.cur).dirty = [] ∧ StashFits s (clusterOf s.tid) ∧ L1Fits s s.cur ∧ LimbsRead s .weak [e] [0x0BFFFFF000000000] ∧
    1 < ((0x0BFFFFF000000000 : Word).extractLsb' 59 4).toNat + 1 ∧ s.th.prec.getLsbD 16 = false :=
  ⟨by decide +kernel, by decide +kernel, by decide +kernel, ok_of (by decide +kernel), by decide +kernel, by decide +kernel, by decide +kernel, by decide +kernel,
    by decide +kernel, .inl ⟨rfl, by decide +kernel, by decide +kernel, by decide +kernel, by decide +kernel, by decide +kernel⟩, by decide +kernel, by decide +kernel⟩

/-- A drain into a bank of which the thread holds the first unit alone. -/
theorem witness_MatrixIssue_key : let s := (striker fun t => t.ws 2 0x10000000000).updCluster 0 fun c =>
      { c with keys := [(0, { base := bankAddr 0 0 / 4096, len := 1, holder := 4 })] }
    IsStriker s ∧ s.th.sup.act = false ∧ layoutOk (formatAt s (tileOf s.tid) 0) (s.th.rs 2) true = true ∧
    ∃ post, spanUnits (tensorSpans (bankAddr (tileOf s.tid) 0) (formatAt s (tileOf s.tid) 0) (s.th.rs 2)) = [1074790400] ++ 1074790401 :: post ∧
      (∀ v ∈ [1074790400], threadMayStore s s.tid (v * 4096) 1 = true) ∧ threadMayStore s s.tid (1074790401 * 4096) 1 = false :=
  ⟨by unfold IsStriker; decide +kernel, rfl, by decide +kernel,
    (spanUnits (tensorSpans (bankAddr 0 0) 0 0x10000000000)).drop 2, by decide +kernel, by decide +kernel, by decide +kernel⟩

/-- Sketches of 16 and of 32 columns at 0x3000 and 0x3200, without a key or with one for both. -/
def sketched (keys : List (Nat × KeyEntry)) : State :=
  { (user fun t => ((((t.wa 1 0x3000).wa 2 0x3200).wa 3 0x3400).ws 4 0x403)).updCluster 0 (fun c => { c with keys := keys }) with
    mem := memPuts (memPuts prog.mem 0x3000 (descriptor 3 4 0 [1, 1, 1] [1, 1, 1])) 0x3200 (descriptor 3 5 0 [1, 1, 1] [1, 1, 1]) }
def sketchAt3000 : Sketch := { base := 0x3000, d := 3, logw := 4, e := 0, mulA := [1, 1, 1], mulC := [1, 1, 1] }
def sketchAt3200 : Sketch := { base := 0x3200, d := 3, logw := 5, e := 0, mulA := [1, 1, 1], mulC := [1, 1, 1] }
def keys16 : List (Nat × KeyEntry) := [(0, { base := 0, len := 16, holder := 8, job := 0 })]

theorem sketched_at (keys : List (Nat × KeyEntry)) (h : keys = [] ∨ keys = keys16) : SketchAt (sketched keys) 0x3000 sketchAt3000 ∧ SketchAt (sketched keys) 0x3200 sketchAt3200 := by
  rcases h with rfl | rfl <;>
  exact ⟨⟨by decide +kernel, by decide +kernel, by decide +kernel, { va := 0x3000, pa := 0x3000, size := 64, page := 0x200000000 }, { va := 0x3040, pa := 0x3040, size := 64, page := 0x200000000 },
      ok_of (by decide +kernel), ok_of (by decide +kernel), rfl, rfl, by decide +kernel, by decide +kernel, by decide +kernel⟩,
    by decide +kernel, by decide +kernel, by decide +kernel, { va := 0x3200, pa := 0x3200, size := 64, page := 0x200000000 }, { va := 0x3240, pa := 0x3240, size := 64, page := 0x200000000 },
      ok_of (by decide +kernel), ok_of (by decide +kernel), rfl, rfl, by decide +kernel, by decide +kernel, by decide +kernel⟩

theorem witness_SketchesAccepted_traps : let s := sketched []
    let u := sketched keys16
    (Quiet s ∧ s.th.sup.act = false ∧ L1Fits s s.cur ∧ Quiet u ∧ u.th.sup.act = false ∧ L1Fits u u.cur) ∧ NoSketchAt s (s.th.ra 3) ∧
    (SketchAt u (u.th.ra 1) sketchAt3000 ∧ SketchAt u (u.th.ra 2) sketchAt3200 ∧ extentFault u sketchAt3000 = none ∧ sketchAt3200.logw ≠ sketchAt3000.logw) ∧
    (sketchForm s.th (.skclr 1) = some (1, .clear) ∧ SketchAt s (s.th.ra 1) sketchAt3000 ∧ ExtentStops s sketchAt3000 0x07 0x3000) ∧
    (geometryWordOk (s.th.rs 4) = true ∧ (s.th.ra 1).toNat % 128 = 0 ∧ sketchAt3000.d = (s.th.rs 4).toNat % 256 ∧ sketchAt3000.logw = (s.th.rs 4).toNat / 256 % 256) := by
  refine ⟨by unfold Quiet; decide +kernel, ⟨by decide +kernel, by decide +kernel, by decide +kernel, { va := 0x3400, pa := 0x3400, size := 64, page := 0x200000000 },
      { va := 0x3440, pa := 0x3440, size := 64, page := 0x200000000 }, ok_of (by decide +kernel), ok_of (by decide +kernel), rfl, rfl, by decide +kernel, by decide +kernel, by decide +kernel⟩,
    ⟨(sketched_at _ (.inr rfl)).1, (sketched_at _ (.inr rfl)).2, by decide +kernel, by decide⟩,
    ⟨rfl, (sketched_at _ (.inl rfl)).1, [], [], rfl, by simp, .inr ⟨leaf 0x3000 true true, ok_of (by decide +kernel), .inr ⟨rfl, by decide +kernel, ⟨0, 0x3000, by decide +kernel⟩, by decide +kernel⟩⟩⟩,
    by decide +kernel⟩

/-- A full queue, which traps or waits. -/
theorem witness_MessagesSent_full : let s (b : Bool) := th fun t => { t.wv 1 hello with sq := List.replicate 16 hello, sqTrap := b }
    ∀ b, msgRefused (s b) ((s b).th.rv 1) = false ∧ MayAccess (s b) true ∧ (s b).th.sqDepth ≤ (s b).th.sq.length ∧ (s b).th.sqTrap = b ∧ (s b).th.sup.act = false := by
  intro s b
  cases b <;> exact ⟨by decide +kernel, may_of _ rfl, by decide +kernel, rfl, rfl⟩

theorem witness_MessagesReceived_bound : let s := (th fun t => { (t.ws 4 0x40).ws 5 62 with inbox := some 63, spill := [hello] }).updCluster 0 fun c => { c with inboxes := [(63, { bound := some (0, false), msgs := [hello] })] }
    (cancelled State.reset 0 = false ∧ ∀ i < 16, State.reset.th.reps[i]? = some .free) ∧
    (s.th.inbox = some 63 ∧ s.th.rs 4 >>> 7 = 0 ∧ (s.th.rs 4).getLsbD 6 = true) ∧
    (s.th.rs 5 >>> 6 = 0 ∧ (s.th.rs 5).toNat ≠ 63 ∧ ((s.cluster (clusterOf s.tid)).inboxes.get {} (s.th.rs 5).toNat).bound = none) := by decide +kernel

/-- A release that a child waits for; an earlier load at a `TSPAWN`; a `TJOIN` of two; a cluster with no place for a descriptor. -/
theorem witness_TaskInstructions_more : let o : Out := { serial := 5, kind := .store (some .module) false, elems := [], va := 0 }
    let c : Task := { id := 1, launch := 1, parent := some 0, path := [0], entry := 0, args := 0, state := .held 8 5, unit := 3 }
    let h := { user (fun t => { t with outs := [o] }) with tasks := [(0, task0 id), (1, c)], ev := { a := 8, b := 5 } }
    let p : Out := { serial := 3, kind := .load (.sreg 3 8 false) .strong false, elems := [elem64], va := 64 }
    let s := { (tasking id).updThread 8 (fun t => { t with outs := [p] }) with serial := 4 }
    let me := task0 fun t => { t with spawned := 2 }
    let j := { tasking (fun t => { t with spawned := 2 }) with tasks := [(0, me), (1, { c with state := .ended true 9 }), (2, { c with id := 2, path := [1], state := .ended false 7 })] }
    let full := { tasking id with fuse := { harvested := [1, 2, 3, 4, 5] }, tasks := (0, task0 id) :: (List.range 4096).map fun i => (i + 1, { c with id := i + 1, parent := none, path := [], state := .ready }) }
    ((h.thread h.ev.a).out? h.ev.b = some o ∧ (∀ x ∈ (h.thread h.ev.a).owed, o.serial ≤ x.serial) ∧ (h.tile (tileOf h.ev.a)).queue = [] ∧
      h.tasks.find? 1 = some c ∧ c.state = .held h.ev.a h.ev.b) ∧
    (RunsTask s 0 (task0 id) launch0 ∧ (∃ x ∈ s.th.owed, x.serial < s.serial) ∧ place s launch0 [0] = some (3, 3) ∧ queuedOn s (unitCluster launch0.tile 3) < 4096 ∧
      0 ≠ s.nextTask) ∧
    (RunsTask j 0 me launch0 ∧ me.spawned = me.joined + 2 ∧ (j.th.ra 2).toNat % 64 = 0 ∧ (outcomeOf j 0 me 0, outcomeOf j 0 me 1) = (some (true, 9), some (false, 7)) ∧
      Quiet j ∧ j.MemOk ∧ (j.cluster (clusterOf j.tid)).stashLines = [] ∧ stashCapacity (j.cluster (clusterOf j.tid)) = 0 ∧ writeDiscarded j 0x400 = false ∧ writeDiscarded j 0x440 = false) ∧
    (storeAt j (j.th.ra 2 + BitVec.ofNat 80 (64 * 0)) 64 64 = .ok { va := 0x400, pa := 0x400, size := 64, page := 0x200000000 } ∧
      storeAt j (j.th.ra 2 + BitVec.ofNat 80 (64 * 1)) 64 64 = .ok { va := 0x440, pa := 0x440, size := 64, page := 0x200000000 }) ∧
    (RunsTask full 0 (task0 id) launch0 ∧ (task0 id).path.length ≠ 15 ∧ (task0 id).spawned ≠ 4096 ∧ 
      (place full launch0 [0]).map (fun x => (x, descRoom full launch0 (unitCluster launch0.tile x.2) == none)) = some ((4, 4), true) ∧ (full.slot launch0.slot).det = false) ∧
    (launch0.split[0]? = some 1 ∧ 7 < 8) := by
  refine ⟨by decide +kernel, ⟨⟨rfl, by rfl, by rfl, by rfl, rfl⟩, by decide +kernel, by decide +kernel, by decide +kernel, by decide +kernel⟩,
    ⟨⟨rfl, by rfl, by rfl, by rfl, rfl⟩, by unfold Quiet State.MemOk; decide +kernel⟩, ⟨ok_of (by decide +kernel), ok_of (by decide +kernel)⟩, 
    ⟨⟨rfl, by rfl, by rfl, by rfl, rfl⟩, by decide +kernel, by decide +kernel, by decide +kernel, by decide +kernel⟩, by decide +kernel⟩

/-- A range of two lines, and an empty one. -/
theorem witness_ControlRegisters_range : let s := sup64 fun t => t.ws 4 65
    (∀ o ∈ s.th.outs, o.releases = false) ∧ (s.th.rs 5).toNat = 0 ∧ (s.th.rs 4).toNat < 65536 ∧ 0 < (s.th.rs 4).toNat ∧
    64 * 1 < (s.th.ra 1).toNat % 64 + (s.th.rs 4).toNat ∧
    translate s s.tid ((s.th.ra 1 &&& ~~~63) + BitVec.ofNat 80 (64 * 1)) .read = .ok { pa := 128, w := true, x := true } :=
  ⟨by decide +kernel, by decide +kernel, by decide +kernel, by decide +kernel, by decide +kernel, ok_of (by decide +kernel)⟩

/-- `SPROT` of 4 ways while a pull of the cluster is out, and while none is. -/
theorem witness_SupervisorOperations_ways : let s := { sup64 id with ev := { v := 4 }, clusters := [(0, { scratch := 16 })] }
    let u := { s.updThread 8 (fun t => { t with outs := [{ serial := 5, kind := .load (.sreg 3 8 false) .strong true, elems := [{ elem64 with place := .cluster 1, got := true }], va := 64 }], ld := 1 }) with ev := { v := 4 } }
    (s.th.sup.act = true ∧ (s.ev.v.extractLsb' 0 4).toNat = 4 ∧ (s.cluster 0).scratch + (s.cluster 0).stash + 4 ≤ 24 ∧ s.images = [] ∧ 4 ≠ (s.cluster 0).prot ∧
      clusterBusy s 0 = false) ∧
    (u.th.sup.act = true ∧ (u.ev.v.extractLsb' 0 4).toNat = 4 ∧ (u.cluster 0).scratch + (u.cluster 0).stash + 4 ≤ 24 ∧ u.images = [] ∧ 4 ≠ (u.cluster 0).prot ∧
      clusterBusy u 0 = true) := by decide +kernel

/-- A pair's task, and parked tasks of a lane and of a tile, with nothing left to join. -/
theorem witness_SchedulingEvents_more : let l := { launch0 with tile := true }
    let t := task0 fun x => { x with state := .ready, threads := [], unit := 0 }
    let p : Parked := { th := {}, tid := 8 }
    let q : Parked := { th := {}, other := some {}, tile := some {}, tid := 0 }
    let d := { event {} (idleTask .ready) with launches := [(1, l)], tasks := [(0, t)] }
    let e := event {} (idleTask (.parked p))
    let f := { event {} (idleTask .ready) with launches := [(1, l)], tasks := [(0, { t with state := .parked q })] }
    (t.id = d.ev.a ∧ unitThread d true t.unit = some 0 ∧ waiting d true t.unit ≤ launchPrio d l + 1 ∧ (∀ o ∈ unitWork d true t.unit, t.id ≤ o.id)) ∧
    ((e.tasks.find? 0).map (fun t => (t.id, t.state, t.launch, dispatchable e t, unitThread e false t.unit)) = some (0, .parked p, 1, true, some 8) ∧
      waiting e false 2 ≤ launchPrio e launch0 + 1 ∧ p.other.isSome = launch0.tile ∧ p.tile.isSome = launch0.tile) ∧
    ((f.tasks.find? 0).map (fun t => (t.id, t.state, t.launch, dispatchable f t, unitThread f true t.unit)) = some (0, .parked q, 1, true, some 0) ∧
      waiting f true 0 ≤ launchPrio f l + 1 ∧ q.other.isSome = l.tile ∧ q.tile.isSome = l.tile) := by
  refine ⟨?_, ?_, ?_⟩ <;> decide +kernel

/-- A handler's job reaches what its cluster's table lets it, whatever memory holds. -/
theorem reach_phys {s u : State} {j : Job} (x : Nat) (hp : j.phys = true) (hs : u.slots = s.slots) (hr : u.regs = s.regs) (hf : u.fuse = s.fuse)
    (hk : ∀ c, (u.cluster c).keys = (s.cluster c).keys ∧ (u.cluster c).scratch = (s.cluster c).scratch ∧ (u.cluster c).prot = (s.cluster c).prot) :
    payloadAt u j x = payloadAt s j x ∧ wordAt u j x = wordAt s j x := by
  have hb : supBacked u = supBacked s := by
    funext a
    unfold supBacked
    cases spaceOf a with
    | tier2 _ o => simp only [Space.backed, show tier2Size u = tier2Size s by unfold tier2Size; rw [hf]]
    | _ => simp [Space.backed, tilePresent, hf, hk]
  simp [payloadAt, wordAt, walkAs, placeOf, mayStore, keyAt, State.slot, hp, hs, hr, hk, hb]

/-- A started job of a handler on sketch 0x3000 of 16 columns and three rows. -/
def sketchWork (op : SkOp) (f : Thread → Thread) (x : EvArgs) : State × Job :=
  let j : Job := { job3 [] with kind := .sketch sketchAt3000 op, phys := true, started := true }
  ({ user f with ev := { x with a := 0, b := 3 }, mem := memPuts prog.mem 0x3000 (descriptor 3 4 0 [1, 1, 1] [1, 1, 1])
                 clusters := [(0, { keys := [(0, { base := 0, len := 16, holder := 0xA0 })], jobs := [j] })] }, j)

theorem sketchWork_reaches (op : SkOp) (f : Thread → Thread) (x : EvArgs) : Reaches (sketchWork op f x).1 (sketchWork op f x).2 0x3000 320 (0x3000 + ·) := by
  have h : ∀ k < 320, writeDiscarded (sketchWork .clear id {}).1 (0x3000 + k) = false ∧ truthPoison (sketchWork .clear id {}).1 (0x3000 + k) = false ∧
      payloadAt (sketchWork .clear id {}).1 (sketchWork .clear id {}).2 ((0x3000 + k) % 2 ^ 80) = some (0x3000 + k) ∧
      wordAt (sketchWork .clear id {}).1 (sketchWork .clear id {}).2 ((0x3000 + k) % 2 ^ 80) = some (0x3000 + k) := by decide +kernel
  refine ⟨fun k hk => ⟨rfl, fun _ _ => by dsimp only; omega, fun i hi => by dsimp only; omega, ?_, ?_⟩, fun u _ hs hr hf _ _ hk k hn => ?_⟩
  · exact (h k hk).1
  · have hl : ∀ op f x c, ((sketchWork op f x).1.cluster c).stashLines = [] := by
      intro op f x c
      by_cases hc : c = 0
      · subst hc; rfl
      · simp [State.cluster, sketchWork, Assoc.get, Assoc.find?, Ne.symm hc]
    have ho : ∀ op f x a, ownedLine (sketchWork op f x).1 a = none := by
      intro op f x a; unfold ownedLine; cases (spaceOf a).cluster? <;> simp [hl, Assoc.find?]
    exact (by simp only [truthPoison, ho]; rfl : truthPoison (sketchWork op f x).1 (0x3000 + k) = truthPoison (sketchWork .clear id {}).1 (0x3000 + k)).trans (h k hk).2.1
  · have g := reach_phys (s := (sketchWork .clear id {}).1) (u := u) (j := (sketchWork op f x).2) ((0x3000 + k) % 2 ^ 80) rfl hs hr hf fun c => by
      by_cases hc : c = 0
      · subst hc; exact hk 0
      · simpa [State.cluster, sketchWork, Assoc.get, Assoc.find?, Ne.symm hc] using hk c
    exact ⟨g.1.trans (h k hn).2.2.1, g.2.trans (h k hn).2.2.2⟩

/-- A part of each sketch operation: of an update the first pair's, of a sum its row and its flags, of `SKSAT.CLR` with and without its read to come. -/
theorem witness_EngineEvents_sketches : let o : Out := { serial := 5, kind := .load (.flags 3) .strong true, elems := [{ elem64 with pa := 0x3003, size := 1 }], va := 0x3003 }
    let one : List Byte := List.replicate 64 0
    let desc := descriptor 3 4 0 [1, 1, 1] [1, 1, 1]
    (∀ x ∈ [(SkOp.init desc, 0), (.init desc, 1), (.clear, 0), (.clear, 3), (.update false [(7, 0x3F800000)], 0), (.add 0x3200 5, 0), (.add 0x3200 5, 1), (.scale 0x3F800000, 2),
        (.satClear 5, 0)], let s := (sketchWork x.1 id { c := x.2 }).1; let j := (sketchWork x.1 id { c := x.2 }).2;
      PartDue s j x.2 ∧ jobAt s 0 3 = some j ∧ j.kind = .sketch sketchAt3000 x.1 ∧ x.2 < sketchParts sketchAt3000 x.1 ∧ (s.cluster s.ev.a).ranges = [] ∧ s.MemOk ∧ j.ahead = [] ∧
        s.tlb = [] ∧ (s.thread j.tid).out? 5 = none) ∧
    (sketchAt3000.d = 3 ∧ sketchAt3000.logw ≤ 28 ∧ sketchAt3000.base % 128 = 0 ∧ sketchAt3000.bytes = 320 ∧ desc.length = 128) ∧
    readFor (sketchWork (.add 0x3200 5) id { c := 1 }).1 (sketchWork (.add 0x3200 5) id { c := 1 }).2 ({ sketchAt3000 with base := 0x3200 }.counter 0 0) 64 = some (one.map fun b => (b, 0)) ∧
    (let s := (sketchWork (.satClear 5) (fun t => { t with outs := [o], ld := 1 }) {}).1;
      PartDue s (sketchWork (.satClear 5) id {}).2 0 ∧ s.MemOk ∧ (s.thread 8).out? 5 = some o) := by
  unfold PartDue State.MemOk; decide +kernel

/-- A started job of cluster 0, which holds its first units, for an event about part 0. -/
def parting (j : Job) (x : EvArgs) : State :=
  { working { j with started := true } fun s => s.updCluster 0 fun c => { c with keys := [(0, { base := 0, len := 16, holder := 0xA0 })] } with ev := { x with a := 0, b := 3 } }
/-- A copy, and a pull-add into accumulator 5 of tile 0, of one 4-byte element. -/
def elemCard (kind : Byte) (sel : Nat) : List Byte := fillCard (copyCard { ({} : Thread) with egeom := 0x100000004 } kind sel 0x3000 0x4000 0 0 0) none

/-- A conversion copy from FP32 to FP32, of elements without scale words and of one whose scale word makes it zero. -/
theorem witness_EngineEvents_copies : let j : Job := { job3 (elemCard 3 0) with conv := some (0, 0, 0) }
    let s := parting j { nats := [0] }
    let k := { j with started := true }
    jobAt s 0 3 = some k ∧ (s.cluster 0).ranges = [] ∧ bulkParts k = [0] ∧ Asked s k 0 (partSource k 0).1 (partSource k 0).2 ∧
    (rowAddr (partRows k) 0, lineSlice (rowAddr (partRows k) 0) (partRows k).n 0, wordSlice 0x4000 4 0) = (0x4000, (0, 4), (0, 4)) ∧
    convertRow s k (0, 0, 0) 0 = some ((List.replicate 4 (0 : Byte)).map fun b => (b, 0)) ∧ payloadAt s k 0x4000 = some 0x4000 ∧
    readFor s k (rowAddr { base := cardSrc k.card, stride := cardSstr k.card, n := 0, rows := 0 } 0) (cardRowb k.card) = some ((List.replicate 4 (0 : Byte)).map fun b => (b, 0)) ∧
    scaleVal 0 0 = some (1, 0) ∧ elemVal false (fmtCode 0) 0 = .fin false 0 (-149) false ∧ scaleVal 0x14 0x8000 = none := by
  unfold Asked; decide +kernel

theorem witness_EngineEvents_pullAdd : let j : Job := job3 (elemCard 2 5)
    let s := parting j {}
    let k := { j with started := true }
    jobAt s 0 3 = some k ∧ PartDue s k 0 ∧ cardKind k.card = 2 ∧ bulkParts k = [0] ∧ cardFlag k.card 1 = false ∧ StashFits s 0 ∧ cardSel k.card = 5 ∧
    Asked s k 0 (partSource k 0).1 (partSource k 0).2 ∧ lineSlice (rowAddr (partRows k) 0) (partRows k).n 0 = (0, 4) ∧
    readFor s k ((rowAddr (partRows k) 0 + 0 * 4) % 2 ^ 80) (1 * 4) = some ((List.replicate 4 (0 : Byte)).map fun b => (b, 0)) := by
  unfold Asked PartDue; decide +kernel

theorem witness_EngineEvents_lodging : let j : Job := { job3 ([5, 0, 0, 0] ++ bytesOfNat 8 4096 ++ List.replicate 244 0) with kind := .lodgeCopy 0 2 }
    let lg : Lodging := { copyBase := 0x4000, neighbour := 1, word := 0x5000, value := 9, len := 4096, src := 0x3000, job := 0 }
    let s := (parting j { c := 63 }).updCluster 0 fun c => { c with lodgings := [(2, lg)] }
    let k := { j with started := true }
    jobAt s 0 3 = some k ∧ PartDue s k 63 ∧ 63 < lodgeLen k.card / 64 ∧ (s.cluster 0).lodgings.find? 2 = some lg ∧ (localOf lg.copyBase + 64 * 63) % 64 = 0 ∧
    LineFits s (localOf lg.copyBase + 64 * 63) ∧ StashFits s 0 ∧ writeDiscarded s (localOf lg.copyBase + 64 * 63) = false ∧ s.MemOk ∧ Asked s k 63 (lg.src + 64 * 63) 64 ∧
    readFor s k (lg.src + 64 * 63) 64 = some ((List.replicate 64 (0 : Byte)).map fun b => (b, 0)) := by
  unfold Asked PartDue State.MemOk; decide +kernel

/-- An accumulator and an element that are numbers. -/
theorem witness_EngineEvents_sum : (∃ a, ratOf (fp32.decode 0x3F800000) = some a) ∧ ∃ b, ratOf (Val.fin false 1 0 false) = some b :=
  ⟨⟨_, rat_of (by decide +kernel : fp32.decode 0x3F800000 = .fin false (2 ^ 23) (-23) false)⟩, _, rfl⟩

/-- An image that is its header alone, at the start of host memory, and a module whose fuses hold its key's digest. -/
def firmware : List Byte := [0x53, 0x4E, 0x4B, 0x46, 1, 0, 0, 0] ++ List.replicate 8 0 ++ [0, 1]
def accepting : State := { verifying {} with mem := memPuts [] hostBase firmware, fuse := { keyDigest := Config.sha512 (List.replicate 516 0) }
                                             regs := { (verifying {}).regs with fwBytes := 4096 } }

theorem truthRead_append (s : State) (a m n : Nat) : truthRead s a (m + n) = truthRead s a m ++ truthRead s (a + m) n := by
  induction m generalizing a with
  | zero => simp [truthRead]
  | succ m ih => rw [show m + 1 + n = (m + n) + 1 by omega]; simp only [truthRead, ih, List.cons_append]; rw [show a + 1 + m = a + (m + 1) by omega]

theorem truthRead_zeros (s : State) (a n : Nat) (h : ∀ k < n, truthByte s (a + k) = 0) : truthRead s a n = List.replicate n 0 := by
  induction n generalizing a with
  | zero => rfl
  | succ n ih => rw [truthRead, List.replicate_succ, ih (a + 1) fun k hk => by simpa [Nat.add_assoc, Nat.add_comm 1 k] using h (k + 1) (by omega), show truthByte s a = 0 from h 0 (by omega)]

/-- What a signature is checked over is left open (`Config.pssVerify`): where it verifies, the image is accepted. -/
theorem witness_StartupEvents_accepted (h : Config.pssVerify (List.replicate 516 0) (Config.sha512 (firmware ++ List.replicate 1006 0)) (List.replicate 512 0) = true) :
    accepting.regs.fwbusy = true ∧ accepting.regs.mstate = 1 ∧ accepting.ev.flag = false ∧
    imageCode accepting accepting.regs.fwAt.toNat accepting.regs.fwBytes.toNat = 0 := by
  have hm : accepting.mem.all (fun p => p.1 < hostBase + 18) = true := by decide +kernel
  have hz : ∀ a, hostBase + 18 ≤ a → truthByte accepting a = 0 := by
    intro a ha
    have : ∀ m : List Host.Cell, m.all (fun p => p.1 < hostBase + 18) = true → Assoc.get m 0 a = 0 := by
      intro m hm
      induction m with
      | nil => rfl
      | cons p r ih =>
        simp only [List.all_cons, Bool.and_eq_true, decide_eq_true_eq] at hm
        simpa [Assoc.get, Assoc.find?, show p.1 ≠ a by omega, show ¬ a < p.1 by omega] using ih hm.2
    unfold truthByte ownedLine
    cases (spaceOf a).cluster? <;> exact this _ hm
  have ht : truthRead accepting hostBase 4096 = firmware ++ List.replicate 4078 0 := by
    rw [show 4096 = 18 + 4078 from rfl, truthRead_append, truthRead_zeros accepting (hostBase + 18) 4078 fun k _ => hz _ (by omega)]
    congr 1
  have hb : truthBad accepting hostBase 4096 = false := by decide +kernel
  have hh : headerOk (firmware ++ List.replicate 4078 0) 4096 = true ∧ sliceBytes (firmware ++ List.replicate 4078 0) 64 516 = List.replicate 516 0 ∧
      sliceBytes (firmware ++ List.replicate 4078 0) 0 1024 = firmware ++ List.replicate 1006 0 ∧
      sliceBytes (firmware ++ List.replicate 4078 0) 1024 512 = List.replicate 512 0 ∧ natAt (firmware ++ List.replicate 4078 0) 16 1 = 0 := by decide +kernel
  refine ⟨rfl, rfl, rfl, ?_⟩
  have e1 : accepting.regs.fwAt.toNat = 0 := by decide +kernel
  have e2 : accepting.regs.fwBytes.toNat = 4096 := by decide +kernel
  rw [e1, e2]
  have h3 : truthRead accepting (hostBase + 0 + 4096) (4096 - 4096) = [] := rfl
  simp only [imageCode, Nat.add_zero, h3, ht, hb, hh, List.append_nil, h, show accepting.fuse.keyDigest = Config.sha512 (List.replicate 516 0) from rfl,
    show accepting.fuse.minSvn = 0 from rfl]
  simp only [ne_eq, not_true_eq_false, if_false]
  decide

/-- A job of a decoder for one frame of 64 × 64 pixels. -/
def decoding : Job := { job3 ([4, 0, 0, 0, 0, 0x0C, 0, 0, 0, 0, 1, 0, 0, 0, 0, 0] ++ bytesOfNat 16 0x3000 ++ bytesOfNat 16 0x4000 ++ List.replicate 144 0 ++
  bytesOfNat 10 0x4000 ++ [3, 0, 0, 0] ++ List.replicate 50 0) with started := true }
theorem witness_EngineEvents_frame (h : Config.mediaSupported 0 [] = true ∧ Config.mediaInfo 0 [] = (64, 64, 8, 1, false)) :
    jobAt (working decoding id) 0 3 = some decoding ∧ decoding.kind = .card ∧ cardKind decoding.card = 4 ∧ mediaMore decoding = true := by
  refine ⟨by decide +kernel, rfl, by decide +kernel, ?_⟩
  have hc : natAt decoding.card 4 1 = 0 ∧ decoding.data = [] := by decide +kernel
  simp only [mediaMore, mediaStream, hc, h]
  decide +kernel

end Sys2Proof.Tests
end

section
/-!
PROOF. The integer register table and the address operations (09 R194, R195, R198–R200): what each shared operation of the model
computes, in the terms of the tables, and the statements about them.
-/
namespace Sys2Proof.Machine

/-! ### Words and numbers (08 R188) -/

/-- A shift count is taken modulo 64 (R194). -/
theorem toNat_and_63 (y : Word) : (y &&& 63).toNat = y.toNat % 64 := by
  rw [BitVec.toNat_and]
  exact Nat.and_two_pow_sub_one_eq_mod y.toNat 6

theorem sextNat_eq_toInt (x : Nat) {n : Nat} (hn : 0 < n) : sextNat x n = (BitVec.ofNat n x).toInt := by
  obtain ⟨m, rfl⟩ := Nat.exists_eq_succ_of_ne_zero hn.ne'
  rw [sextNat, BitVec.toInt_eq_toNat_cond, BitVec.toNat_ofNat, Nat.succ_sub_one, Nat.pow_succ]
  split <;> split <;> omega

/-- Moving n low bits to the top and back by an arithmetic shift extends their sign. -/
theorem sshiftRight_shiftLeft_eq_signExtend (x : Word) {n : Nat} (h0 : 0 < n) (hn : n ≤ 64) :
    (x <<< (64 - n)).sshiftRight (64 - n) = (x.setWidth n).signExtend 64 := by
  ext i hi
  simp only [BitVec.getElem_sshiftRight, BitVec.getElem_signExtend, BitVec.getElem_shiftLeft, BitVec.msb_shiftLeft, BitVec.msb_setWidth]
  by_cases hin : i < n
  · simp [hin, show 64 - n + i < 64 by omega, BitVec.getLsbD_eq_getElem hi]
  · simp [hin, show ¬ 64 - n + i < 64 by omega, h0, BitVec.getMsbD, show 63 - (64 - n) = n - 1 by omega, show 64 - n < 64 by omega]

theorem sextWord_eq_sshiftRight (x : Word) {n : Nat} (h0 : 0 < n) (hn : n ≤ 64) :
    sextWord x.toNat n = (x <<< (64 - n)).sshiftRight (64 - n) := by
  rw [sshiftRight_shiftLeft_eq_signExtend x h0 hn, sextWord, sextNat_eq_toInt _ h0, BitVec.ofNat_toNat, BitVec.signExtend]

/-- Moving n low bits to the top and back by a logical shift clears the bits above them. -/
theorem ushiftRight_shiftLeft_eq_mod (x : Word) {n : Nat} (hn : n ≤ 64) :
    x <<< (64 - n) >>> (64 - n) = BitVec.ofNat 64 (x.toNat % 2 ^ n) := by
  have hp : 2 ^ 64 = 2 ^ n * 2 ^ (64 - n) := by rw [← Nat.pow_add, Nat.add_sub_cancel' hn]
  have hlt : x.toNat % 2 ^ n < 2 ^ 64 := (Nat.mod_lt _ (by positivity)).trans_le (Nat.pow_le_pow_right two_pos hn)
  apply BitVec.eq_of_toNat_eq
  rw [BitVec.toNat_ofNat, Nat.mod_eq_of_lt hlt, BitVec.toNat_ushiftRight, BitVec.toNat_shiftLeft, Nat.shiftLeft_eq, Nat.shiftRight_eq_div_pow,
    hp, Nat.mul_mod_mul_right, Nat.mul_div_cancel _ (by positivity)]

theorem widthOf_eq (y : Word) : widthOf y = if y &&& 63 = 0 then 64 else (y &&& 63).toNat := by
  have h : y &&& 63 = 0 ↔ y.toNat % 64 = 0 := by rw [← toNat_and_63, ← BitVec.toNat_inj]; rfl
  simp only [widthOf, h, toNat_and_63]

theorem widthOf_pos (y : Word) : 0 < widthOf y := by unfold widthOf; split <;> omega
theorem widthOf_le (y : Word) : widthOf y ≤ 64 := by unfold widthOf; split <;> omega

/-! ### Products (R194) -/

/-- Of a 128-bit product, the upper half, whatever the signs of its factors. -/
theorem highWord_eq_extractLsb' (z : Int) : highWord z = (BitVec.ofInt 128 z).extractLsb' 64 64 := by
  apply BitVec.eq_of_toNat_eq
  simp only [highWord, BitVec.toNat_ofInt, BitVec.extractLsb'_toNat, Nat.shiftRight_eq_div_pow]
  omega

/-- `MULH`. -/
theorem highWord_mul_toInt (x y : Word) :
    highWord (x.toInt * y.toInt) = (x.signExtend 128 * y.signExtend 128).extractLsb' 64 64 := by
  rw [highWord_eq_extractLsb', BitVec.ofInt_mul, BitVec.signExtend, BitVec.signExtend]

/-- `MULHU`. -/
theorem highWord_mul_toNat (x y : Word) :
    highWord ((x.toNat : Int) * y.toNat) = (x.setWidth 128 * y.setWidth 128).extractLsb' 64 64 := by
  rw [highWord_eq_extractLsb', BitVec.ofInt_mul, BitVec.ofInt_natCast, BitVec.ofInt_natCast, BitVec.ofNat_toNat, BitVec.ofNat_toNat]

/-! ### Division (R195, 03 R75) -/

/-- The signed quotient, the one that overflows included. -/
theorem divS_fst (x y : Word) : (divS x y).1 = if y = 0 then -1 else x.sdiv y := by
  unfold divS
  split
  case isTrue => rfl
  case isFalse =>
    split
    case isTrue h => obtain ⟨rfl, rfl⟩ := h; decide
    case isFalse =>
      apply BitVec.eq_of_toInt_eq
      rw [BitVec.toInt_sdiv, BitVec.toInt_ofInt]

/-- The signed remainder, 0 where the quotient overflows. -/
theorem divS_snd (x y : Word) : (divS x y).2 = if y = 0 then x else x.srem y := by
  unfold divS
  split
  case isTrue => rfl
  case isFalse =>
    split
    case isTrue h => obtain ⟨rfl, rfl⟩ := h; decide
    case isFalse => rw [← BitVec.toInt_srem, BitVec.ofInt_toInt]

theorem divU_fst (x y : Word) : (divU x y).1 = if y = 0 then -1 else x.udiv y := by
  unfold divU
  split
  · rfl
  · rw [← BitVec.toNat_udiv, BitVec.ofNat_toNat, BitVec.setWidth_eq]; rfl

theorem divU_snd (x y : Word) : (divU x y).2 = if y = 0 then x else x.umod y := by
  unfold divU
  split
  · rfl
  · rw [← BitVec.toNat_umod, BitVec.ofNat_toNat, BitVec.setWidth_eq]; rfl

/-! ### Comparisons (R194) -/

theorem bit_beq (x y : Word) : bit (x == y) = if x = y then 1 else 0 := by simp [bit]
theorem bit_bne (x y : Word) : bit (x != y) = if x = y then 0 else 1 := by simp [bit]
theorem bit_slt (x y : Word) : bit (x.slt y) = if x.toInt < y.toInt then 1 else 0 := by simp [bit, BitVec.slt]
theorem bit_ult (x y : Word) : bit (x.ult y) = if x.toNat < y.toNat then 1 else 0 := by simp [bit, BitVec.ult]

/-- A choice by `<` and one by `≤` differ at equal operands alone. -/
theorem ite_slt_eq_ite_le (x y u v : Word) (h : x = y → u = v) :
    (if x.slt y then u else v) = if x.toInt ≤ y.toInt then u else v := by
  by_cases hxy : x = y
  · simp only [h hxy, ite_self]
  · have hne : x.toInt ≠ y.toInt := fun e => hxy (BitVec.eq_of_toInt_eq e)
    simp only [BitVec.slt_iff_toInt_lt, lt_iff_le_and_ne, hne, ne_eq, not_false_eq_true, and_true]

theorem ite_ult_eq_ite_le (x y u v : Word) (h : x = y → u = v) :
    (if x.ult y then u else v) = if x.toNat ≤ y.toNat then u else v := by
  by_cases hxy : x = y
  · simp only [h hxy, ite_self]
  · have hne : x.toNat ≠ y.toNat := fun e => hxy (BitVec.eq_of_toNat_eq e)
    simp only [BitVec.ult_iff_toNat_lt, lt_iff_le_and_ne, hne, ne_eq, not_false_eq_true, and_true]

/-! ### Addresses (R198–R200) -/

theorem addrPlus_toInt {w : Nat} (a : Addr) (x : BitVec w) : addrPlus a x.toInt = a + x.signExtend 80 := rfl

theorem addrPlus_neg_toInt {w : Nat} (a : Addr) (x : BitVec w) : addrPlus a (-x.toInt) = a - x.signExtend 80 := by
  rw [addrPlus, BitVec.ofInt_neg, BitVec.sub_eq_add_neg, BitVec.signExtend]

theorem targetOf_eq {w : Nat} (pc : Addr) (off : BitVec w) : targetOf pc off = pc + off.signExtend 80 * 4 := by
  rw [targetOf, addrPlus, BitVec.ofInt_mul, BitVec.mul_comm, BitVec.signExtend]
  rfl

/-- The index is the signed low 60 bits, the length code the top four (R200). -/
theorem indexed_eq (a : Addr) (b : Word) :
    indexed a b = a + (b.setWidth 60).signExtend 80 * 8 * ((b >>> 60).setWidth 80 + 1) := by
  have hq : b.toNat / 2 ^ 60 = (b >>> 60).toNat := by rw [BitVec.toNat_ushiftRight, Nat.shiftRight_eq_div_pow]
  have hn : BitVec.ofInt 80 ((b.toNat / 2 ^ 60 + 1 : Nat) : Int) = (b >>> 60).setWidth 80 + 1 := by
    rw [hq, BitVec.ofInt_natCast, BitVec.ofNat_add, BitVec.ofNat_toNat]
    rfl
  rw [indexed, addrPlus, BitVec.ofInt_mul, BitVec.ofInt_mul, hn, sextNat_eq_toInt _ (by decide), BitVec.ofNat_toNat, BitVec.signExtend]
  rfl

/-! ### The instructions -/

/-- Each meaning retires D: the rows that differ from the table in form are brought to it by the lemma on their operation. -/
theorem exec_of_integerResult {s : State} {i : Instr} {d : SReg} {x : Word} (h : integerResult s.th i = some (d, x)) :
    exec i s = s.retireS d x := by
  cases i
  all_goals cases h
  case add | sub | and | or | xor | andn | mul => rfl
  case shl a b => exact congrArg (fun n => s.retireS d (s.th.rs a <<< n)) (toNat_and_63 (s.th.rs b)).symm
  case shr a b => exact congrArg (fun n => s.retireS d (s.th.rs a >>> n)) (toNat_and_63 (s.th.rs b)).symm
  case sar a b => exact congrArg (fun n => s.retireS d ((s.th.rs a).sshiftRight n)) (toNat_and_63 (s.th.rs b)).symm
  case mulh => exact congrArg (s.retireS d) (highWord_mul_toInt _ _)
  case mulhu => exact congrArg (s.retireS d) (highWord_mul_toNat _ _)
  case div => exact congrArg (s.retireS d) (divS_fst _ _)
  case divu => exact congrArg (s.retireS d) (divU_fst _ _)
  case rem => exact congrArg (s.retireS d) (divS_snd _ _)
  case remu => exact congrArg (s.retireS d) (divU_snd _ _)
  case min => exact congrArg (s.retireS d) (ite_slt_eq_ite_le _ _ _ _ id)
  case max => exact congrArg (s.retireS d) (ite_slt_eq_ite_le _ _ _ _ Eq.symm)
  case minu => exact congrArg (s.retireS d) (ite_ult_eq_ite_le _ _ _ _ id)
  case maxu => exact congrArg (s.retireS d) (ite_ult_eq_ite_le _ _ _ _ Eq.symm)
  case seq => exact congrArg (s.retireS d) (bit_beq _ _)
  case sne => exact congrArg (s.retireS d) (bit_bne _ _)
  case slt => exact congrArg (s.retireS d) (bit_slt _ _)
  case sltu => exact congrArg (s.retireS d) (bit_ult _ _)
  case sext a b =>
    rw [← widthOf_eq]
    exact congrArg (s.retireS d) (sextWord_eq_sshiftRight _ (widthOf_pos _) (widthOf_le _))
  case zext a b =>
    rw [← widthOf_eq]
    exact congrArg (s.retireS d) (ushiftRight_shiftLeft_eq_mod _ (widthOf_le _)).symm

/-- The same for AD, with the instruction's size. -/
theorem exec_of_addressResult {s : State} {i : Instr} {n : Nat} {d : AReg} {x : Addr} (h : addressResult s.th i = some (n, d, x)) :
    exec i s = s.retireA n d x := by
  cases i
  all_goals cases h
  case adrpc | adrpcLong => exact congrArg (s.retireA _ d) (targetOf_eq _ _)
  case adda | addai | addaiLong => exact congrArg (s.retireA _ d) (addrPlus_toInt _ _)
  case suba => exact congrArg (s.retireA 4 d) (addrPlus_neg_toInt _ _)
  case movas | movah => rfl
  case aidx => exact congrArg (s.retireA 4 d) (indexed_eq _ _)

/-- Settles O1: every row retires the table's D, and `State.retire_ws` says what that leaves unchanged. -/
theorem integerResults : Obligations.IntegerResults := by
  intro s i d x h
  rw [exec_of_integerResult h]
  exact s.retire_ws 4 d x

/-- Settles O4: every row retires the table's AD, and `State.retire_wa` says what that leaves unchanged. -/
theorem addressResults : Obligations.AddressResults := by
  intro s i n d x h
  rw [exec_of_addressResult h]
  exact s.retire_wa n d x

end Sys2Proof.Machine
end
